-- ==== Sys2Proof/Word.lean ====
section
/-! DEFINITION. The bit widths the manual carries on its link ports and in its profile image (R173, R175). -/

namespace Sys2Proof

/-- One byte of a link-port frame or of the profile image. -/
abbrev Byte := BitVec 8

/-- A two-byte field of a request payload (Table 9-3). -/
abbrev Half := BitVec 16

/-- A four-byte field, and a reading of the 32-bit millisecond counter (Table 0-8). -/
abbrev Word := BitVec 32

end Sys2Proof
end

