-- ==== Sys2Proof/Syntax.lean ====
section
/-! DEFINITION. The commands of the part, one constructor per row of spec/opcode_table.json. -/

namespace Sys2Proof

/-- A plant processor. The port a request comes by fixes the master (LP1 FIELD, LP2 TURBINE, LP3 HEAT). -/
inductive Master where
  | field
  | turbine
  | heat
  deriving DecidableEq, Repr

/-- An output channel OC0 to OC15. -/
abbrev ChanId := Fin 16

/-- A unit by its number in Table 4-1: W0 to W7, 8 SP, 9 RI, 10 TG, 11 HX. -/
abbrev UnitId := Fin 12

/-- A pulse input PI0 to PI11. -/
abbrev PulseId := Fin 12

/-- A command. A request's command is the TAKING of that request from the port's master: `port`, the tag byte of its
frame and its payload fields as they stand in the frame (Table 9-3); the part itself checks them (R162). -/
inductive Instr where
  /-- R163: the rise of CS# ends a request transaction in which `bytes` were received. -/
  | requestTransactionEnd (port : Master) (bytes : List Byte)
  /-- R163: a transaction whose first byte is 0x00, in which `clocked` whole bytes were clocked. -/
  | fetch (port : Master) (clocked : Nat)
  /-- R160, R161 step 4: the taking of a frame that is answered BAD_FRAME; `bytes` is the frame as received. -/
  | badFrame (port : Master) (bytes : List Byte)
  /-- R161 step 3: the taking of a well-formed frame whose code Table 9-3 does not hold. -/
  | unknownRequest (port : Master) (tag code : Byte)
  | status (port : Master) (tag : Byte)
  | portReset (port : Master) (tag : Byte)
  | readEvent (port : Master) (tag : Byte)
  | setPoint (port : Master) (tag channel : Byte) (value : Half)
  | force (port : Master) (tag channel kind : Byte) (value : Half)
  | unforce (port : Master) (tag channel : Byte)
  | readChannel (port : Master) (tag channel : Byte)
  | readInput (port : Master) (tag cls number : Byte)
  | claim (port : Master) (tag channel : Byte)
  | releaseCh (port : Master) (tag channel : Byte)
  | offer (port : Master) (tag channel offeree : Byte)
  | accept (port : Master) (tag channel : Byte)
  | lock (port : Master) (tag channel : Byte)
  | readMap (port : Master) (tag channel : Byte)
  | setNext (port : Master) (tag unit state : Byte)
  | go (port : Master) (tag group : Byte)
  | readUnit (port : Master) (tag unit : Byte)
  | releaseTrip (port : Master) (tag group : Byte)
  | ack (port : Master) (tag group : Byte)
  | readLog (port : Master) (tag group : Byte)
  | setLab (port : Master) (tag item : Byte) (value : Word)
  | readScale (port : Master) (tag part : Byte)
  | readMeter (port : Master) (tag : Byte)
  | profileRead (port : Master) (tag : Byte) (offset : Half)
  | profileWrite (port : Master) (tag : Byte) (offset : Half) (data : List Byte)
  | profileCheck (port : Master) (tag : Byte)
  | silenceTimerExpiry (port : Master)
  | offerExpiry (channel : ChanId)
  | rampTick
  /-- R42: the millisecond sample; bit d of `levels` is the level of pin DINd, set for high. -/
  | diSample (levels : BitVec 12)
  | scanStart
  /-- R30: the conversion in progress ends with this code. -/
  | conversionEnd (code : BitVec 12)
  | pulseActiveEdge (input : PulseId)
  | signalTimeout (input : PulseId)
  | periodCounterOverflow (input : PulseId)
  | highPhaseEnd (channel : ChanId)
  | periodBoundary (channel : ChanId)
  | oneshotDelayExpiry (channel : ChanId)
  | oneshotPulseExpiry (channel : ChanId)
  | drainTimerExpiry (unit : UnitId)
  | pageWriteEnd
  | powerOnReset
  | warmReset
  | startUpBegin
  /-- R179: the read completes. `none`: the EEPROM answered with the contents State holds for it; `some bytes`: the
  device at the profile port answered these bytes instead (another EEPROM, or an absent one; log 10). -/
  | profileLoadComplete (answered : Option (List Byte))
  deriving DecidableEq, Repr

end Sys2Proof
end

