-- ==== Sys2Proof/Decode.lean ====
section
/-! DEFINITION. The command that a word spells by the table's bits: no row of spec/opcode_table.json gives any. The frames
that carry requests are decoded in Machine/Frames.lean. -/

namespace Sys2Proof

/-- No word spells a command (log 28). -/
def decodeTableWord (_nbits _w : Nat) : Option Instr := none

end Sys2Proof
end

