-- ==== Sys2Proof/Config.lean ====
section
/-! DEFINITION. The free values: constants with no body, for the values and orders the manual leaves open.
No proof can see what they are, so a statement about them holds whatever they are. -/

namespace Sys2Proof.Config

/-- The fields of a response payload that have no value to send and no stated coding (log 6, log 31). -/
inductive OpenField where
  /-- The high count of an absent pending pair (R25, Table 9-7). -/
  | absentPendingHigh
  /-- The low count of an absent pending pair. -/
  | absentPendingLow
  /-- The other count of the current pair when it is static outside WAVEFORM mode (R3, Remark of Table 9-7). -/
  | staticCurrent
  /-- The same of the pending pair. -/
  | staticPending
  /-- The milliseconds to expiry of an absent offer (R64). -/
  | absentOfferExpiry
  /-- The drain timer that is stopped (R84). -/
  | stoppedDrainTimer
  deriving DecidableEq, Repr

/-- What a payload field without a stated coding holds, for each response (log 6). -/
opaque openField : Nat → OpenField → BitVec 32

/-- What a non-negative product that leaves the 64-bit signed arithmetic becomes (log 7). -/
opaque overflow64 : Nat → BitVec 63

/-- What a period longer than the 24-bit counter is latched as (log 8). -/
opaque longPeriod : Nat → BitVec 24

/-- The rank of the n-th of several arrivals that fall together, for each time it is asked (log 3). -/
opaque arrivalRank : Nat → Nat → Nat

/-- Whether the byte of an address reached the EEPROM before a power-on reset cut its page write (R183, log 11). -/
opaque pageByteReached : Nat → Nat → Bool

end Sys2Proof.Config
end

