-- ==== Sys2Proof/Machine/Tables.lean ====
section
/-! DEFINITION. Tables of a fixed number of like records, built place by place, so that the kernel evaluates them. -/

namespace Sys2Proof.Machine

variable {α : Type}

def vec3 (f : Fin 3 → α) : Vector α 3 := #v[f 0, f 1, f 2]

def vec8 (f : Fin 8 → α) : Vector α 8 := #v[f 0, f 1, f 2, f 3, f 4, f 5, f 6, f 7]

def vec12 (f : Fin 12 → α) : Vector α 12 :=
  #v[f 0, f 1, f 2, f 3, f 4, f 5, f 6, f 7, f 8, f 9, f 10, f 11]

def vec16 (f : Fin 16 → α) : Vector α 16 :=
  #v[f 0, f 1, f 2, f 3, f 4, f 5, f 6, f 7, f 8, f 9, f 10, f 11, f 12, f 13, f 14, f 15]

end Sys2Proof.Machine
end

