-- ==== Sys2Proof/Machine/Types.lean ====
section
/-! DEFINITION. The record types of every block's state, with the manual's own field names. -/

namespace Sys2Proof.Machine

/-! ### Plant map -/

/-- A group of units sharing one protection level (Table 0-3). -/
inductive Group where
  | field
  | turbine
  | heat
  deriving DecidableEq, Repr

/-! ### Causes (Table 5-3) -/

/-- The class of a cause: its effect on the level (Table 5-2). -/
inductive CauseClass where
  | alarm
  | trip
  deriving DecidableEq, Repr

/-- A cause code: the cause name with its argument (R87), in the order of Table 5-3. -/
inductive Cause where
  | reset
  | profileBad
  | estop
  | vfdFault (i : Fin 8)
  | extOverspeed
  | sepLevelHH
  | hxLeak
  | overspeed
  | speedLost
  | limit (n : Fin 16) (k : Fin 2)
  | sensorBad (n : Fin 16)
  | calcite (i : Fin 8)
  | silicaMargin
  | silicaTrip
  | hxFouling
  | guardLost (ch : ChanId)
  | drainTimeout (u : UnitId)
  | linkSilent (m : Master)
  | tgTripped
  | hxTripped
  | fieldTripped
  deriving DecidableEq, Repr

/-- A group's protection level (R86). -/
inductive Level where
  | normal
  | alarm
  | trip
  deriving DecidableEq, Repr

/-! ### Output channels (Tables 1-2, 1-3, 1-7) -/

/-- A channel's mode (Table 1-2). -/
inductive ChanMode where
  | frequency
  | waveform
  | oneshot
  deriving DecidableEq, Repr

/-- The kind of an override entry (Table 1-7). -/
inductive Kind where
  | value
  | ceiling
  | floor
  deriving DecidableEq, Repr

/-- The source identity of an override entry (R15). -/
inductive Source where
  | trip
  | scale
  | alarm (c : Cause)
  | force
  | link
  deriving DecidableEq, Repr

/-- An override entry (Table 1-7). -/
structure Entry where
  source : Source
  kind : Kind
  value : Nat
  stamp : Word
  deriving DecidableEq, Repr

/-- A waveform pair: high and low counts, or a static level (R2). -/
inductive Pair where
  | staticLow
  | staticHigh
  | counts (high low : Nat)
  deriving DecidableEq, Repr

/-- The part of the current pair being output (Table 1-3, "phase"). -/
inductive WavePhase where
  | high
  | low
  | static
  deriving DecidableEq, Repr

/-- The one-shot state (Table 1-3). -/
inductive OneShot where
  | idle
  | delay
  | pulse
  | done
  deriving DecidableEq, Repr

/-- The parameters of a channel (Table 1-2). -/
structure ChanParams where
  mode : ChanMode
  safe : Nat
  fallback : Nat
  slew : Nat
  presc : Nat
  ffs : Nat
  pw : Nat
  delay : Nat
  pulse : Nat
  deriving DecidableEq, Repr

/-- The record of a channel (Tables 1-2 and 1-3). -/
structure Channel where
  params : ChanParams
  base : Nat
  /-- The override stack, bottom first. -/
  stack : List Entry
  target : Nat
  applied : Nat
  pair : Pair
  wave : WavePhase
  /-- Counts of the phase in progress (the 16-bit phase counter of R2). -/
  count : Nat
  /-- 10 MHz ticks of the count in progress (the prescaler of R2). -/
  sub : Nat
  pendingPair : Option Pair
  lowLimit : Bool
  oneShot : OneShot
  /-- Milliseconds remaining of the one-shot's delay or pulse. -/
  timer : Option Nat
  deriving DecidableEq, Repr

/-! ### Authority map (Table 3-1) -/

/-- A reader set. -/
structure Readers where
  field : Bool
  turbine : Bool
  heat : Bool
  deriving DecidableEq, Repr

/-- A pending offer (R56). -/
structure Offer where
  offeree : Master
  expiry : Word
  deriving DecidableEq, Repr

/-- The authority entry of a channel (Table 3-1). -/
structure MapEntry where
  writer : Option Master
  readers : Readers
  locked : Bool
  offer : Option Offer
  deriving DecidableEq, Repr

/-! ### Units (Tables 4-2, 4-3) -/

/-- A unit state (Table 4-3). -/
inductive UState where
  | isolated
  | standby
  | running
  | paused
  deriving DecidableEq, Repr

/-- A transition phase (Table 4-3). -/
inductive Phase where
  | none
  | starting
  | draining
  | isolating
  deriving DecidableEq, Repr

/-- The parameters of a unit (Table 4-2). -/
structure UnitParams where
  idleFlow : Nat
  drainSpeed : Nat
  /-- In seconds. -/
  drainTimeout : Nat
  tripState : UState
  deriving DecidableEq, Repr

/-- A unit record (Table 4-3). -/
structure UnitRec where
  params : UnitParams
  state : UState
  next : UState
  phase : Phase
  dest : Option UState
  /-- Milliseconds remaining of the drain timer. -/
  timer : Option Nat
  protAltered : Bool
  deriving DecidableEq, Repr

/-! ### Protection (Tables 5-1, 5-2) -/

/-- A cause record (Table 5-2). -/
structure CauseRec where
  cause : Cause
  cls : CauseClass
  momentary : Bool
  firstSeen : Word
  lastChange : Word
  count : Nat
  active : Bool
  acknowledged : Bool
  deriving DecidableEq, Repr

/-- An entry of a trip list (R96). -/
structure TripItem where
  channel : ChanId
  value : Nat
  deriving DecidableEq, Repr

/-- A code of the unrecorded set with its class (R91). -/
structure Unrecorded where
  cause : Cause
  cls : CauseClass
  deriving DecidableEq, Repr

/-- The protection state of a group (Table 5-1) with the group's busy flag (R78). -/
structure GroupRec where
  level : Level
  /-- The cause log, first-out first. -/
  log : List CauseRec
  /-- The unrecorded set, in the order of R91. -/
  unrecorded : List Unrecorded
  logFull : Bool
  tripList : List TripItem
  busy : Bool
  /-- The number of units whose path the GO in flight started (GO_DONE detail 2). -/
  started : Nat
  deriving DecidableEq, Repr

/-- One action of a cause action record (R93). -/
structure Action where
  channel : ChanId
  kind : Kind
  value : Nat
  deriving DecidableEq, Repr

/-- A cause action record (R93). -/
structure ActionRec where
  cause : Cause
  actions : List Action
  deriving DecidableEq, Repr

/-! ### Inputs (Tables 2-1, 2-2, 2-5, 2-6) -/

/-- The quality of a measured value (Table 2-1). -/
inductive Quality where
  | unknown
  | good
  | limited
  | bad
  | noSignal
  deriving DecidableEq, Repr

/-- The direction of a limit check (Table 2-2). -/
inductive Direction where
  | off
  | high
  | low
  deriving DecidableEq, Repr

/-- The parameters of a limit check (Table 2-2). -/
structure CheckParams where
  dir : Direction
  threshold : Int
  hysteresis : Nat
  group : Group
  cls : CauseClass
  deriving DecidableEq, Repr

/-- The parameters of an analog input (Table 2-2). -/
structure AnalogParams where
  lo : Int
  hi : Int
  shift : Nat
  badGroup : Group
  check0 : CheckParams
  check1 : CheckParams
  deriving DecidableEq, Repr

/-- The record of an analog input (R30 to R35). -/
structure Analog where
  params : AnalogParams
  code : Nat
  value : Int
  quality : Quality
  /-- The filter accumulator, `none` when uninitialised (R32). -/
  acc : Option Int
  /-- Milliseconds since the last GOOD or LIMITED conversion, saturating at 2^32 - 1. -/
  age : Nat
  active0 : Bool
  active1 : Bool
  deriving DecidableEq, Repr

/-- The parameters of a pulse input (Table 2-5). -/
structure PulseParams where
  presc : Nat
  /-- The active edge: set for FALLING, clear for RISING. -/
  falling : Bool
  k : Nat
  shift : Nat
  timeout : Nat
  deriving DecidableEq, Repr

/-- The record of a pulse input (Table 2-6). -/
structure Pulse where
  params : PulseParams
  quality : Quality
  /-- Timing: set for RUNNING, clear for STOPPED. -/
  running : Bool
  /-- The period counter. -/
  count : Nat
  /-- 10 MHz ticks of the count in progress (the prescaler of R38). -/
  sub : Nat
  latched : Nat
  rate : Nat
  acc : Option Int
  /-- Whole milliseconds since the last active edge, `none` when the timeout timer is stopped. -/
  timer : Option Nat
  /-- 10 MHz ticks of the timeout timer's millisecond in progress (R40). -/
  timerSub : Nat
  deriving DecidableEq, Repr

/-- The record of a discrete input (R42). -/
structure Discrete where
  /-- The polarity: set for ACTIVE_LOW. -/
  activeLow : Bool
  /-- The latest samples, oldest first, at most three; set for asserted. -/
  history : List Bool
  /-- The filtered state: set for ASSERTED. -/
  filtered : Bool
  deriving DecidableEq, Repr

/-- One value of the scan snapshot with its quality (R34). -/
structure Sample where
  value : Int
  quality : Quality
  deriving DecidableEq, Repr

/-- The scan snapshot (R34). -/
structure Snapshot where
  time : Word
  ai : Vector Sample 16
  pi : Vector Sample 12
  deriving DecidableEq, Repr

/-- The scan list, its schedule and the scan in progress (R29). -/
structure Asu where
  list : List (Fin 16)
  /-- The scan period in ms. -/
  period : Nat
  /-- The place of the scan list being converted, `none` between scans. -/
  pos : Option Nat
  /-- The time of the next scan start. -/
  nextScan : Word
  deriving DecidableEq, Repr

/-! ### Turbine speed monitor (Table 6-1) -/

/-- The turbine parameters (Table 6-2) with the trip period computed from them (R114). -/
structure TsmParams where
  sequenced : Bool
  s : Nat
  v : Nat
  threshold : Nat
  tripPeriod : Nat
  deriving DecidableEq, Repr

/-- The turbine speed monitor (Table 6-1). -/
structure Tsm where
  params : TsmParams
  demand : Nat
  speed : Nat
  quality : Quality
  overspeed : Bool
  run : Nat
  speedLost : Bool
  deriving DecidableEq, Repr

/-! ### Scaling watch (Tables 7-1, 7-2, 7-5, 7-8) -/

/-- The parameters of a guard (Table 7-2). -/
structure GuardParams where
  clamp : Int
  release : Int
  step : Nat
  floor : Nat
  deriving DecidableEq, Repr

/-- A guard's state (Table 7-8). -/
inductive GuardState where
  | clear
  | lowering
  | holding
  | raising
  deriving DecidableEq, Repr

/-- The margin status of a guard (Table 7-8). -/
inductive MarginStatus where
  | none
  | current
  | held
  deriving DecidableEq, Repr

/-- A guard record (Table 7-8). -/
structure Guard where
  state : GuardState
  ceiling : Option Nat
  margin : Int
  status : MarginStatus
  deriving DecidableEq, Repr

/-- A point of the silica limit table (Table 7-2). -/
structure SilicaPoint where
  c : Nat
  t : Int
  deriving DecidableEq, Repr

/-- The scaling parameters (Table 7-2). -/
structure SwuParams where
  interval : Nat
  cpB : Nat
  uaClean : Nat
  cleanAlarm : Nat
  mAlarm : Int
  nSt : Nat
  calAlarm : Int
  calHyst : Nat
  table : List SilicaPoint
  silGuard : GuardParams
  calGuards : Vector GuardParams 8
  deriving DecidableEq, Repr

/-- The outcome of the exchanger steps (Table 7-5). -/
inductive ExOutcome where
  | none
  | evaluated
  | notEvaluable
  | skipped
  deriving DecidableEq, Repr

/-- The exchanger record (Table 7-5). -/
structure Exchanger where
  outcome : ExOutcome
  q : Nat
  dT1 : Int
  dT2 : Int
  dTm : Int
  ua : Nat
  c : Nat
  acc : Option Int
  cf : Nat
  fouling : Bool
  deriving DecidableEq, Repr

/-- The outcome of the silica steps (R134). -/
inductive SilOutcome where
  | none
  | evaluated
  | skipped
  deriving DecidableEq, Repr

/-- The silica record (R133 to R136). -/
structure Silica where
  outcome : SilOutcome
  tLim : Int
  sm : Int
  margin : Bool
  trip : Bool
  counter : Nat
  deriving DecidableEq, Repr

/-- The outcome of the calcite steps of a well (R138). -/
inductive CalOutcome where
  | none
  | evaluated
  | skipped
  | notRun
  deriving DecidableEq, Repr

/-- The calcite record of a well (R138). -/
structure Calcite where
  outcome : CalOutcome
  pInt : Int
  cm : Int
  active : Bool
  deriving DecidableEq, Repr

/-- The scaling watch unit (Table 7-1). -/
structure Swu where
  params : SwuParams
  counter : Nat
  lastTime : Word
  cSil : Nat
  pBub : Vector Nat 8
  ex : Exchanger
  sil : Silica
  cal : Vector Calcite 8
  silGuard : Guard
  calGuards : Vector Guard 8
  deriving DecidableEq, Repr

/-! ### Heat meter (Table 8-1) -/

/-- The outcome of an interval (Table 8-2). -/
inductive MeterOutcome where
  | none
  | metered
  | reverse
  | unmetered
  deriving DecidableEq, Repr

/-- The heat meter (Table 8-1). -/
structure Hmt where
  kwh : Nat
  residue : Nat
  reverse : Bool
  unmeteredS : Nat
  unmeteredMs : Nat
  outcome : MeterOutcome
  power : Nat
  lastTime : Word
  cpW : Nat
  deriving DecidableEq, Repr

/-! ### Profile loader (Table 10-1) -/

/-- The profile state (Table 10-1). -/
inductive ProfileState where
  | good
  | bad
  | loading
  deriving DecidableEq, Repr

/-- A byte store: (address, byte) cells, addresses strictly rising, no cell with the byte an unlisted address reads as. -/
abbrev Memory := List Host.Cell

/-- A page write (R183). -/
structure PageWrite where
  offset : Nat
  data : List Byte
  deriving DecidableEq, Repr

/-- The profile loader (Table 10-1), with the EEPROM behind its port. -/
structure Pfl where
  state : ProfileState
  failing : Nat
  mirror : Memory
  /-- Page-write busy: `none` for IDLE, otherwise the milliseconds remaining. -/
  busy : Option Nat
  /-- The write cycle the EEPROM is carrying out. -/
  write : Option PageWrite
  eeprom : Memory
  deriving DecidableEq, Repr

/-! ### Events (Table 9-6) -/

/-- The reason of a UNIT_STATE record. -/
inductive StateReason where
  | go
  | drainEnd
  | drainTimeout
  | forced
  deriving DecidableEq, Repr

/-- The reason of a HANDOVER_EXPIRED record (Table 3-5). -/
inductive ExpiryReason where
  | timeout
  | replaced
  | locked
  | silent
  | portReset
  deriving DecidableEq, Repr

/-- The reason of a GUARD_STATE record (Table 7-10). -/
inductive GuardReason where
  | evaluation
  | service
  | overflow
  deriving DecidableEq, Repr

/-- What an event record reports: its kind, subject and details (Table 9-6). -/
inductive EventBody where
  | overrideLost (ch : ChanId) (source : Source) (kind : Kind) (value : Nat)
  | rampDone (ch : ChanId) (applied : Nat)
  | unitState (u : UnitId) (state : UState) (reason : StateReason)
  | unitForced (u : UnitId) (phase : Phase) (state : UState) (entered : UState)
  | goDone (g : Group) (abandoned : Bool) (started : Nat)
  | groupLevel (g : Group) (level : Level) (firstOut : Option Cause)
  | causeNew (g : Group) (cause : Cause) (cls : CauseClass) (momentary recorded : Bool)
  | handoverOffered (ch : ChanId) (offeree : Master) (seconds : Nat)
  | handoverDone (ch : ChanId) (old new : Option Master)
  | handoverExpired (ch : ChanId) (offeree : Master) (reason : ExpiryReason)
  | guardState (ch : ChanId) (state : GuardState) (reason : GuardReason) (ceiling : Option Nat)
  | portSilent (m : Master) (timeout : Nat)
  | portHeard (m : Master) (silentFor : Word)
  | profileDone (state : ProfileState) (failing : Nat)
  deriving DecidableEq, Repr

/-- An event record (R165). -/
structure Event where
  stamp : Word
  body : EventBody
  deriving DecidableEq, Repr

/-! ### Link ports (Table 9-1) -/

/-- A result code (Table 9-5). -/
inductive Result where
  | ok
  | clamped
  | starting
  | badFrame
  | unknownRequest
  | badIndex
  | notWriter
  | notReader
  | slaved
  | locked
  | heldByOther
  | notOffered
  | busy
  | groupTripped
  | unitIsolated
  | causeActive
  | notAllTripped
  | queueEmpty
  | noRequest
  deriving DecidableEq, Repr

/-- The response to a request: tag, result and payload (R164). -/
structure Response where
  tag : Byte
  result : Result
  payload : List Byte
  deriving DecidableEq, Repr

/-- The response buffer (R163). -/
inductive Buffer where
  | empty
  | pending
  | ready (held : Response)
  deriving DecidableEq, Repr

/-- A link port (Table 9-1). -/
structure Port where
  buffer : Buffer
  partialFlag : Bool
  /-- Request frames received and not yet taken, oldest first (R161). -/
  received : List (List Byte)
  queue : List Event
  lost : Bool
  silent : Bool
  silentSince : Word
  /-- Milliseconds remaining of the silence timer, `none` when it is stopped. -/
  timer : Option Nat
  /-- The silence timeout in steps of 100 ms. -/
  timeout : Nat
  /-- The bytes SDO gave in the latest transaction. -/
  sdo : List Byte
  deriving DecidableEq, Repr

/-- Where the part stands between a reset and operation (R178, R181). -/
inductive RunPhase where
  | inReset
  | startUp
  | running
  deriving DecidableEq, Repr

/-! ### The profile (Table 10-6) -/

/-- The parameters the profile gives to the blocks (R180), read from a GOOD image or taken from the defaults. -/
structure Profile where
  chans : Vector ChanParams 16
  writers : Vector (Option Master) 16
  readers : Vector Readers 16
  ais : Vector AnalogParams 16
  pis : Vector PulseParams 12
  activeLow : Vector Bool 12
  scanList : List (Fin 16)
  scanPeriod : Nat
  units : Vector UnitParams 12
  tripLists : Vector (List TripItem) 3
  silence : Vector Nat 3
  offerTimeout : Nat
  actions : List ActionRec
  tsm : TsmParams
  swu : SwuParams
  cSil : Nat
  pBub : Vector Nat 8
  cpW : Nat
  deriving DecidableEq, Repr

end Sys2Proof.Machine
end

