-- ==== Sys2Proof/Machine/Memory.lean ====
section
/-! DEFINITION. The byte store of the image mirror and of the EEPROM (R175): canonical lists of cells. -/

namespace Sys2Proof.Machine

/-- What an unlisted address reads as (DESIGN CHOICE, log 10). -/
def Memory.blank : Byte := 0x00

/-- The byte at an address. -/
def Memory.read : Memory → Nat → Byte
  | [], _ => Memory.blank
  | (a, b) :: rest, x => if x = a then b else Memory.read rest x

/-- Puts a cell in front, unless it holds what an unlisted address reads as. -/
def Memory.cell (a : Nat) (b : Byte) (m : Memory) : Memory :=
  if b = Memory.blank then m else (a, b) :: m

/-- Stores one byte, keeping the canonical form. -/
def Memory.write : Memory → Nat → Byte → Memory
  | [], x, v => Memory.cell x v []
  | (a, b) :: rest, x, v =>
    if x < a then Memory.cell x v ((a, b) :: rest)
    else if x = a then Memory.cell x v rest
    else (a, b) :: Memory.write rest x v

/-- Stores bytes at consecutive addresses. -/
def Memory.writeBytes (m : Memory) : Nat → List Byte → Memory
  | _, [] => m
  | a, b :: bs => Memory.writeBytes (m.write a b) (a + 1) bs

/-- The bytes of `n` consecutive addresses. -/
def Memory.readBytes (m : Memory) : Nat → Nat → List Byte
  | _, 0 => []
  | a, n + 1 => m.read a :: Memory.readBytes m (a + 1) n

/-- The store that holds these bytes from an address on and nothing else. -/
def Memory.ofBytes : Nat → List Byte → Memory
  | _, [] => []
  | a, b :: bs => Memory.cell a b (Memory.ofBytes (a + 1) bs)

/-- The canonical form above a bound: addresses rise from it, and no cell holds the blank byte. -/
def Memory.wfFrom : Nat → Memory → Bool
  | _, [] => true
  | lo, (a, b) :: rest => decide (lo ≤ a) && decide (b ≠ Memory.blank) && Memory.wfFrom (a + 1) rest

/-- The canonical form. -/
def Memory.wf (m : Memory) : Bool := Memory.wfFrom 0 m

/-- The size of the EEPROM and of the mirror (R175). -/
def eepromSize : Nat := 4096

/-- The size of a page (R175). -/
def pageSize : Nat := 32

end Sys2Proof.Machine
end

