-- ==== Sys2Proof/Machine/PlantMap.lean ====
section
/-! DEFINITION. The plant layout: which channels, units and groups belong together (Tables 0-3, 1-1, 3-3, 4-1). -/

namespace Sys2Proof.Machine

/-- The port of a master: LP1 FIELD, LP2 TURBINE, LP3 HEAT. -/
def masterIdx : Master → Fin 3
  | .field => 0
  | .turbine => 1
  | .heat => 2

/-- The master of a port. -/
def masterAt (i : Fin 3) : Master :=
  match i.val with
  | 0 => .field
  | 1 => .turbine
  | _ => .heat

/-- The place of a group: its code in Table 9-4. -/
def groupIdx : Group → Fin 3
  | .field => 0
  | .turbine => 1
  | .heat => 2

/-- The group of a code. -/
def groupAt (i : Fin 3) : Group :=
  match i.val with
  | 0 => .field
  | 1 => .turbine
  | _ => .heat

/-- The three masters, LP1 to LP3. -/
def masters : List Master := [.field, .turbine, .heat]

/-- The three groups, in the order of their codes. -/
def allGroups : List Group := [.field, .turbine, .heat]

/-- OC0 to OC15. -/
def channels : List ChanId := [0, 1, 2, 3, 4, 5, 6, 7, 8, 9, 10, 11, 12, 13, 14, 15]

/-- The twelve units, by number. -/
def allUnits : List UnitId := [0, 1, 2, 3, 4, 5, 6, 7, 8, 9, 10, 11]

/-- The twelve pulse inputs. -/
def pulses : List PulseId := [0, 1, 2, 3, 4, 5, 6, 7, 8, 9, 10, 11]

/-- The separator. -/
def unitSP : UnitId := 8
/-- Reinjection. -/
def unitRI : UnitId := 9
/-- The turbine-generator. -/
def unitTG : UnitId := 10
/-- Heat exchange. -/
def unitHX : UnitId := 11

/-- The unit a channel belongs to (Table 1-1). -/
def unitOf (c : ChanId) : UnitId :=
  match c.val with
  | 0 => 0 | 1 => 1 | 2 => 2 | 3 => 3 | 4 => 4 | 5 => 5 | 6 => 6 | 7 => 7
  | 8 => unitTG | 9 => unitTG | 10 => unitSP | 11 => unitHX | 12 => unitHX
  | 13 => unitRI | 14 => unitRI | _ => unitTG

/-- The channels of a unit (Table 4-1). -/
def unitChannels (u : UnitId) : List ChanId :=
  match u.val with
  | 0 => [0] | 1 => [1] | 2 => [2] | 3 => [3] | 4 => [4] | 5 => [5] | 6 => [6] | 7 => [7]
  | 8 => [10] | 9 => [13, 14] | 10 => [8, 9, 15] | _ => [11, 12]

/-- The principal channel of a unit (Table 0-3). -/
def principal (u : UnitId) : ChanId :=
  match u.val with
  | 0 => 0 | 1 => 1 | 2 => 2 | 3 => 3 | 4 => 4 | 5 => 5 | 6 => 6 | 7 => 7
  | 8 => 10 | 9 => 13 | 10 => 8 | _ => 11

/-- The group of a unit (Table 4-1). -/
def unitGroup (u : UnitId) : Group :=
  if u = unitTG then .turbine else if u = unitHX then .heat else .field

/-- The units of a group, by number (Table 4-1). -/
def groupUnits : Group → List UnitId
  | .field => [0, 1, 2, 3, 4, 5, 6, 7, 8, 9]
  | .turbine => [10]
  | .heat => [11]

/-- The group of a channel: that of its unit. -/
def chanGroup (c : ChanId) : Group := unitGroup (unitOf c)

/-- All channels of a group (Table 3-3). -/
def groupChannels : Group → List ChanId
  | .field => [0, 1, 2, 3, 4, 5, 6, 7, 10, 13, 14]
  | .turbine => [8, 9, 15]
  | .heat => [11, 12]

/-- The principal channels of a group (Table 3-3). -/
def groupPrincipals : Group → List ChanId
  | .field => [0, 1, 2, 3, 4, 5, 6, 7, 10, 13]
  | .turbine => [8]
  | .heat => [11]

/-- The well of a unit, if the unit is a well. -/
def wellOf (u : UnitId) : Option (Fin 8) :=
  if h : u.val < 8 then some ⟨u.val, h⟩ else none

/-- The channel, and the unit, of a well (Table 4-1). -/
def wellChan (i : Fin 8) : ChanId := ⟨i.val, Nat.lt_trans i.isLt (by decide)⟩
def wellUnit (i : Fin 8) : UnitId := ⟨i.val, Nat.lt_trans i.isLt (by decide)⟩

/-- The wells. -/
def wells : List (Fin 8) := [0, 1, 2, 3, 4, 5, 6, 7]

/-- The unit whose drain condition reads a pulse input (Table 4-6). -/
def pulseUnit (p : PulseId) : Option UnitId :=
  match p.val with
  | 0 => some 0 | 1 => some 1 | 2 => some 2 | 3 => some 3 | 4 => some 4 | 5 => some 5 | 6 => some 6 | 7 => some 7
  | 10 => some unitRI | 11 => some unitTG | _ => none

/-- The exchanger brine flowmeter, the district flowmeter, the reinjection flowmeter and the speed pickup (Table 0-4). -/
def piBrine : PulseId := 8
def piDistrict : PulseId := 9
def piReinjection : PulseId := 10
def piSpeed : PulseId := 11

/-- The exchanger and district temperatures (Table 0-4). -/
def aiBrineIn : Fin 16 := 8
def aiBrineOut : Fin 16 := 9
def aiSupply : Fin 16 := 10
def aiReturn : Fin 16 := 11

/-- The intake pressure input of a well (Table 0-4). -/
def wellInput (i : Fin 8) : Fin 16 := ⟨i.val, Nat.lt_trans i.isLt (by decide)⟩

end Sys2Proof.Machine
end

