-- ==== Sys2Proof/Machine/Defaults.lean ====
section
/-! DEFINITION. The defaults of a BAD profile (Table 10-4 and the tables it names), and the records of every block as
set-up leaves them (R26, R45, R46, R85, R107, R122, R148, R157, R174). -/

namespace Sys2Proof.Machine

/-! ### Parameters (Table 10-4) -/

/-- The mode of a channel in the plant layout (Table 1-1). -/
def defaultMode (c : ChanId) : ChanMode :=
  match c.val with
  | 8 | 9 | 10 | 11 => .waveform
  | 15 => .oneshot
  | _ => .frequency

def ChanParams.default (c : ChanId) : ChanParams where
  mode := defaultMode c
  safe := 0
  fallback := 0
  slew := 10
  presc := 0
  ffs := 10000
  pw := 10000
  delay := 0
  pulse := 500

def Readers.all : Readers := ⟨true, true, true⟩

/-- Table 10-4: a default limit check is OFF. DESIGN CHOICE (log 40): its threshold, hysteresis, cause group and class, which
the manual leaves open, are 0, 0, Field and ALARM. -/
def CheckParams.default : CheckParams where
  dir := .off
  threshold := 0
  hysteresis := 0
  group := .field
  cls := .alarm

/-- The SENSOR_BAD group of an analog input (Table 10-4). -/
def defaultBadGroup (n : Fin 16) : Group :=
  match n.val with
  | 8 | 9 | 10 | 11 => .heat
  | 12 | 13 | 15 => .turbine
  | _ => .field

def AnalogParams.default (n : Fin 16) : AnalogParams where
  lo := 0
  hi := if n = 15 then 1000 else 20000
  shift := 0
  badGroup := defaultBadGroup n
  check0 := .default
  check1 := .default

def PulseParams.default (p : PulseId) : PulseParams where
  presc := if p = piSpeed then 0 else 3
  falling := false
  k := if p = piSpeed then 100000000 else 1000000000
  shift := 0
  timeout := if p = piSpeed then 500 else 2000

/-- Table 4-2. -/
def UnitParams.default : UnitParams where
  idleFlow := 0
  drainSpeed := 0
  drainTimeout := 60
  tripState := .standby

/-- Table 5-5. -/
def defaultTripList : Group → List TripItem
  | .field => (groupChannels .field).map (fun c => ⟨c, 0⟩)
  | .turbine => [⟨8, 0⟩, ⟨9, 0⟩, ⟨15, 1000⟩]
  | .heat => [⟨11, 0⟩, ⟨12, 0⟩]

/-- The trip period of R114. -/
def tripPeriodOf (k threshold : Nat) : Nat := k / threshold

/-- Table 6-2, with the trip period computed from the default K-factor of PI11 (R109). -/
def TsmParams.default : TsmParams where
  sequenced := false
  s := 600
  v := 50
  threshold := 33000
  tripPeriod := tripPeriodOf (PulseParams.default piSpeed).k 33000

/-- Tables 7-2 and 7-3. -/
def SwuParams.default : SwuParams where
  interval := 10
  cpB := 4100
  uaClean := 1000000
  cleanAlarm := 800
  mAlarm := 100
  nSt := 10
  calAlarm := 300
  calHyst := 100
  table := [⟨100, 4000⟩, ⟨200, 4650⟩, ⟨300, 5300⟩, ⟨400, 5800⟩, ⟨500, 6800⟩, ⟨600, 7400⟩, ⟨700, 8000⟩, ⟨800, 8500⟩]
  silGuard := ⟨300, 500, 20, 300⟩
  calGuards := vec8 (fun _ => ⟨600, 900, 25, 400⟩)

/-- The sixteen analog inputs in order, and the default scan list (Table 10-4). -/
def analogs : List (Fin 16) := channels

/-- Table 10-4. -/
def Profile.default : Profile where
  chans := vec16 ChanParams.default
  writers := vec16 (fun _ => none)
  readers := vec16 (fun _ => .all)
  ais := vec16 AnalogParams.default
  pis := vec12 PulseParams.default
  activeLow := vec12 (fun _ => false)
  scanList := analogs
  scanPeriod := 100
  units := vec12 (fun _ => .default)
  tripLists := vec3 (fun g => defaultTripList (groupAt g))
  silence := vec3 (fun _ => 30)
  offerTimeout := 10
  actions := []
  tsm := .default
  swu := .default
  cSil := 0
  pBub := vec8 (fun _ => 0)
  cpW := 4180

/-! ### Records with given parameters, as reset and set-up leave them -/

/-- R26: a channel record from the reset until set-up. -/
def Channel.init (p : ChanParams) : Channel where
  params := p
  base := 0
  stack := []
  target := 0
  applied := 0
  pair := .staticLow
  wave := .static
  count := 0
  sub := 0
  pendingPair := none
  lowLimit := false
  oneShot := .idle
  timer := none

/-- R65. -/
def MapEntry.init (writer : Option Master) (readers : Readers) : MapEntry where
  writer := writer
  readers := readers
  locked := false
  offer := none

/-- R45. -/
def Analog.init (p : AnalogParams) : Analog where
  params := p
  code := 0
  value := 0
  quality := .unknown
  acc := none
  age := 0
  active0 := false
  active1 := false

/-- R46, with the timeout timer stopped: set-up starts it. -/
def Pulse.init (p : PulseParams) : Pulse where
  params := p
  quality := .unknown
  running := false
  count := 0
  sub := 0
  latched := 0
  rate := 0
  acc := none
  timer := none
  timerSub := 0

/-- R42, R46. -/
def Discrete.init (activeLow : Bool) : Discrete where
  activeLow := activeLow
  history := []
  filtered := false

/-- R85. -/
def UnitRec.init (p : UnitParams) : UnitRec where
  params := p
  state := .isolated
  next := .isolated
  phase := .none
  dest := none
  timer := none
  protAltered := false

/-- R107, with the log still empty: set-up makes the RESET record. -/
def GroupRec.init (tripList : List TripItem) : GroupRec where
  level := .trip
  log := []
  unrecorded := []
  logFull := false
  tripList := tripList
  busy := false
  started := 0

/-- R34. -/
def Snapshot.init : Snapshot where
  time := 0
  ai := vec16 (fun _ => ⟨0, .unknown⟩)
  pi := vec12 (fun _ => ⟨0, .unknown⟩)

/-- R122. -/
def Tsm.init (p : TsmParams) : Tsm where
  params := p
  demand := 0
  speed := 0
  quality := .unknown
  overspeed := false
  run := 0
  speedLost := false

def Guard.init : Guard := ⟨.clear, none, 0, .none⟩

/-- R148. -/
def Swu.init (p : SwuParams) (cSil : Nat) (pBub : Vector Nat 8) : Swu where
  params := p
  counter := 0
  lastTime := 0
  cSil := cSil
  pBub := pBub
  ex := ⟨.none, 0, 0, 0, 0, 0, 0, none, 0, false⟩
  sil := ⟨.none, 0, 0, false, false, 0⟩
  cal := vec8 (fun _ => ⟨.none, 0, 0, false⟩)
  silGuard := .init
  calGuards := vec8 (fun _ => .init)

/-- R157, power-on reset. -/
def Hmt.init (cpW : Nat) : Hmt where
  kwh := 0
  residue := 0
  reverse := false
  unmeteredS := 0
  unmeteredMs := 0
  outcome := .none
  power := 0
  lastTime := 0
  cpW := cpW

/-- R174. -/
def Port.init (timeout : Nat) : Port where
  buffer := .empty
  partialFlag := false
  received := []
  queue := []
  lost := false
  silent := false
  silentSince := 0
  timer := none
  timeout := timeout
  sdo := []

/-- R29, R45: no scan in progress. -/
def Asu.init (list : List (Fin 16)) (period : Nat) : Asu where
  list := list
  period := period
  pos := none
  nextScan := 0

/-- R178, with nothing known of the EEPROM (log 10). -/
def Pfl.init : Pfl where
  state := .loading
  failing := 0
  mirror := []
  busy := none
  write := none
  eeprom := []

end Sys2Proof.Machine
end

