-- ==== Sys2Proof/Machine/State.lean ====
section
/-! DEFINITION. The state of the part, the reasons a step could stop, and the state after a power-on reset. -/

namespace Sys2Proof.Machine

/-- The reasons the machine could stop with a fault. There is none: the part answers what it refuses with a result
code, and plant faults are causes in its logs. -/
inductive Fault where
  deriving DecidableEq, Repr

/-- The reasons a command could have no meaning in the model. -/
inductive Refusal where
  /-- Raised by `exec` alone, for a command without a meaning; no arm raises it. Safe: the run stops. -/
  | notModelled (mnemonic : String)
  deriving DecidableEq, Repr

/-- The state of the part, block by block (Table 0-1). -/
structure State where
  /-- The commands that wait, first in first out. The model's own. -/
  pending : List Instr
  /-- Advanced wherever a free value is drawn, so that each draw is free on its own. The model's own (log 27). -/
  draws : Nat
  /-- R178, R181: in reset, in start-up or in operation. -/
  run : RunPhase
  /-- TBS: 10 MHz ticks of the current millisecond. -/
  tick : Nat
  /-- TBS: the millisecond counter. -/
  ms : Word
  /-- LP1 to LP3. -/
  ports : Vector Port 3
  /-- AMAP: the authority entries, and the offer timeout in seconds. -/
  map : Vector MapEntry 16
  offerTimeout : Nat
  /-- OCB. -/
  ch : Vector Channel 16
  /-- ASU. -/
  asu : Asu
  ai : Vector Analog 16
  snap : Snapshot
  /-- PCU. -/
  pi : Vector Pulse 12
  /-- DIF. -/
  di : Vector Discrete 12
  /-- USQ. -/
  units : Vector UnitRec 12
  /-- PCT, and the busy flags of USQ. -/
  groups : Vector GroupRec 3
  actions : List ActionRec
  tsm : Tsm
  swu : Swu
  hmt : Hmt
  pfl : Pfl
  deriving DecidableEq, Repr

/-- A state whose blocks hold the reset records with the parameters of `p` (R26, R45, R46, R65, R85, R107, R122, R148,
R174, R178). -/
def State.initial (p : Profile) : State where
  pending := []
  draws := 0
  run := .inReset
  tick := 0
  ms := 0
  ports := vec3 (fun m => Port.init p.silence[m])
  map := vec16 (fun c => MapEntry.init p.writers[c] p.readers[c])
  offerTimeout := p.offerTimeout
  ch := vec16 (fun c => Channel.init p.chans[c])
  asu := Asu.init p.scanList p.scanPeriod
  ai := vec16 (fun n => Analog.init p.ais[n])
  snap := .init
  pi := vec12 (fun j => Pulse.init p.pis[j])
  di := vec12 (fun d => Discrete.init p.activeLow[d])
  units := vec12 (fun u => UnitRec.init p.units[u])
  groups := vec3 (fun g => GroupRec.init p.tripLists[g])
  actions := p.actions
  tsm := Tsm.init p.tsm
  swu := Swu.init p.swu p.cSil p.pBub
  hmt := Hmt.init p.cpW
  pfl := Pfl.init

/-- The machine right after a power-on reset, still in reset (R178): the parameters are those of Table 10-4 until set-up
loads the profile's (DESIGN CHOICE, log 12). -/
def State.reset : State := State.initial Profile.default

end Sys2Proof.Machine
end

