-- ==== Sys2Proof/Machine/Ops.lean ====
section
/-! DEFINITION. The named reads and updates of State's records, and the queuing of event records (R165, R166). -/

namespace Sys2Proof.Machine

/-! ### Records by name -/

def State.port (s : State) (m : Master) : Port := s.ports[masterIdx m]
def State.modPort (s : State) (m : Master) (f : Port → Port) : State :=
  { s with ports := s.ports.set (masterIdx m) (f (s.port m)) }

def State.entry (s : State) (c : ChanId) : MapEntry := s.map[c]
def State.modEntry (s : State) (c : ChanId) (f : MapEntry → MapEntry) : State :=
  { s with map := s.map.set c (f (s.entry c)) }

def State.chan (s : State) (c : ChanId) : Channel := s.ch[c]
def State.modChan (s : State) (c : ChanId) (f : Channel → Channel) : State :=
  { s with ch := s.ch.set c (f (s.chan c)) }

def State.analog (s : State) (n : Fin 16) : Analog := s.ai[n]
def State.modAnalog (s : State) (n : Fin 16) (f : Analog → Analog) : State :=
  { s with ai := s.ai.set n (f (s.analog n)) }

def State.pulse (s : State) (j : PulseId) : Pulse := s.pi[j]
def State.modPulse (s : State) (j : PulseId) (f : Pulse → Pulse) : State :=
  { s with pi := s.pi.set j (f (s.pulse j)) }

def State.unit (s : State) (u : UnitId) : UnitRec := s.units[u]
def State.modUnit (s : State) (u : UnitId) (f : UnitRec → UnitRec) : State :=
  { s with units := s.units.set u (f (s.unit u)) }

def State.group (s : State) (g : Group) : GroupRec := s.groups[groupIdx g]
def State.modGroup (s : State) (g : Group) (f : GroupRec → GroupRec) : State :=
  { s with groups := s.groups.set (groupIdx g) (f (s.group g)) }

def State.modTsm (s : State) (f : Tsm → Tsm) : State := { s with tsm := f s.tsm }
def State.modSwu (s : State) (f : Swu → Swu) : State := { s with swu := f s.swu }
def State.modPfl (s : State) (f : Pfl → Pfl) : State := { s with pfl := f s.pfl }

/-- Applies an update to the state for each item of a list, in list order. -/
def State.each {α : Type} (s : State) (l : List α) (f : α → State → State) : State :=
  l.foldl (fun s x => f x s) s

/-! ### Event records -/

/-- The most records a queue holds (R165). -/
def queueSize : Nat := 16

/-- R165: a record is appended, or dropped with LOST set when the queue is full. -/
def Port.append (p : Port) (e : Event) : Port :=
  if p.queue.length < queueSize then { p with queue := p.queue ++ [e] } else { p with lost := true }

/-- Queues a record to the ports of the masters named by `who`, a copy each (R165, R166). -/
def State.queue (s : State) (who : Master → Bool) (b : EventBody) : State :=
  { s with ports := vec3 fun i =>
      if who (masterAt i) then s.ports[i].append ⟨s.ms, b⟩ else s.ports[i] }

/-- Whether a master is in a reader set. -/
def Readers.has (r : Readers) : Master → Bool
  | .field => r.field
  | .turbine => r.turbine
  | .heat => r.heat

/-- The reader set with a master added (R47). -/
def Readers.add (r : Readers) : Master → Readers
  | .field => { r with field := true }
  | .turbine => { r with turbine := true }
  | .heat => { r with heat := true }

/-- R166: to every port (GO_DONE, GROUP_LEVEL, CAUSE_NEW, PROFILE_DONE). -/
def State.queueAll (s : State) (b : EventBody) : State := s.queue (fun _ => true) b

/-- R166: to the readers of a channel as they stand (OVERRIDE_LOST, RAMP_DONE, GUARD_STATE). -/
def State.queueReaders (s : State) (c : ChanId) (b : EventBody) : State :=
  s.queue (fun m => (s.entry c).readers.has m) b

/-- R82, R166: to the readers of a unit's principal channel (UNIT_STATE, UNIT_FORCED). -/
def State.queueUnit (s : State) (u : UnitId) (b : EventBody) : State := s.queueReaders (principal u) b

/-- R166: to the two ports other than the subject's (PORT_SILENT, PORT_HEARD). -/
def State.queueOthers (s : State) (m : Master) (b : EventBody) : State := s.queue (fun x => decide (x ≠ m)) b

/-- To the parties named; a party that is NONE receives nothing (R52). -/
def State.queueParties (s : State) (parties : List (Option Master)) (b : EventBody) : State :=
  s.queue (fun m => parties.contains (some m)) b

/-! ### Free orders (log 3) -/

/-- Inserts an item by its rank. -/
def insertRanked {α : Type} (r : Nat) (x : α) : List (Nat × α) → List (Nat × α)
  | [] => [(r, x)]
  | (q, y) :: rest => if r < q then (r, x) :: (q, y) :: rest else (q, y) :: insertRanked r x rest

/-- The items in the order of the ranks that `Config.arrivalRank` gives their places at this draw. -/
def rankedFrom {α : Type} (draw : Nat) : Nat → List α → List (Nat × α)
  | _, [] => []
  | n, x :: rest => insertRanked (Config.arrivalRank draw n) x (rankedFrom draw (n + 1) rest)

/-- Arrivals that fall together, in an order nothing fixes (R99); one arrival, or none, needs no order. -/
def freeOrder {α : Type} (draw : Nat) : List α → List α
  | [] => []
  | [x] => [x]
  | l => (rankedFrom draw 0 l).map Prod.snd

/-! ### Arithmetic -/

/-- A non-negative product of the 64-bit signed arithmetic; one that leaves it has no stated value (log 7). -/
def prod64 (x : Nat) : Nat := if x < 2 ^ 63 then x else (Config.overflow64 x).toNat

/-- Round half up of a quotient of naturals: floor (a / b + 1/2). -/
def roundHalfUp (a b : Nat) : Nat := (2 * a + b) / (2 * b)

/-- The filter of R32: the accumulator after a raw value. -/
def filterAcc (k : Nat) (acc : Option Int) (r : Int) : Int :=
  match acc with
  | none => r * 2 ^ k
  | some a => a - a / 2 ^ k + r

/-- The filter of R32: the value of an accumulator, floor (acc / 2^k). -/
def filterValue (k : Nat) (acc : Int) : Int := acc / 2 ^ k

/-- The largest reading of a 32-bit counter that saturates. -/
def max32 : Nat := 4294967295

end Sys2Proof.Machine
end

