-- ==== Sys2Proof/Machine/Operands.lean ====
section
/-! DEFINITION. The enumerated request fields, checked against Table 9-4 (R162): a code out of range gives none. -/

namespace Sys2Proof.Machine

/-- channel: 0 to 15. -/
def channelField (b : Byte) : Option ChanId := if h : b.toNat < 16 then some ⟨b.toNat, h⟩ else none

/-- unit: 0 to 11. -/
def unitField (b : Byte) : Option UnitId := if h : b.toNat < 12 then some ⟨b.toNat, h⟩ else none

/-- group: 0 to 2. -/
def groupField (b : Byte) : Option Group :=
  if b = 0 then some .field else if b = 1 then some .turbine else if b = 2 then some .heat else none

/-- master: 1 to 3; the code 0 is out of range in a request. -/
def masterField (b : Byte) : Option Master :=
  if b = 1 then some .field else if b = 2 then some .turbine else if b = 3 then some .heat else none

/-- kind: 0 to 2. -/
def kindField (b : Byte) : Option Kind :=
  if b = 0 then some .value else if b = 1 then some .ceiling else if b = 2 then some .floor else none

/-- state: 0 to 3. -/
def stateField (b : Byte) : Option UState :=
  if b = 0 then some .isolated else if b = 1 then some .standby
  else if b = 2 then some .running else if b = 3 then some .paused else none

/-- An input named by READ_INPUT (R44). -/
inductive InputName where
  | analog (n : Fin 16)
  | pulse (j : PulseId)
  | discrete (d : Fin 12)
  deriving DecidableEq, Repr

/-- class and number: AI 0 to 15, PI and DI 0 to 11. -/
def inputField (cls number : Byte) : Option InputName :=
  if cls = 0 then (if h : number.toNat < 16 then some (.analog ⟨number.toNat, h⟩) else none)
  else if cls = 1 then (if h : number.toNat < 12 then some (.pulse ⟨number.toNat, h⟩) else none)
  else if cls = 2 then (if h : number.toNat < 12 then some (.discrete ⟨number.toNat, h⟩) else none)
  else none

/-- A lab value (R124). -/
inductive LabItem where
  | silica
  | bubble (i : Fin 8)
  deriving DecidableEq, Repr

/-- item: 0 for C_sil, 1 to 8 for the bubble pressures. -/
def itemField (b : Byte) : Option LabItem :=
  if b = 0 then some .silica
  else if h : b.toNat - 1 < 8 then some (.bubble ⟨b.toNat - 1, h⟩) else none

/-- A section of the scaling state (R147). -/
inductive ScalePart where
  | exchanger
  | silica
  | well (i : Fin 8)
  deriving DecidableEq, Repr

/-- section: 0 EXCHANGER, 1 SILICA, 2 to 9 the wells. -/
def partField (b : Byte) : Option ScalePart :=
  if b = 0 then some .exchanger else if b = 1 then some .silica
  else if h : b.toNat - 2 < 8 then some (.well ⟨b.toNat - 2, h⟩) else none

/-- offset: 0 to 4064, a multiple of 32. -/
def offsetField (w : Half) : Option Nat :=
  if w.toNat ≤ 4064 ∧ w.toNat % 32 = 0 then some w.toNat else none

end Sys2Proof.Machine
end

