-- ==== Sys2Proof/Machine/Flags.lean ====
section
/-! DEFINITION. The codes, flag bytes and field layouts of payloads and event details (R173, Tables 9-4 to 9-7, 9-10). -/

namespace Sys2Proof.Machine

/-! ### Numbers, high byte first (R173) -/

def byte1 (n : Nat) : List Byte := [BitVec.ofNat 8 n]

def word2 (w : Half) : List Byte := [w.extractLsb' 8 8, w.extractLsb' 0 8]

def word4 (w : Word) : List Byte :=
  [w.extractLsb' 24 8, w.extractLsb' 16 8, w.extractLsb' 8 8, w.extractLsb' 0 8]

def byte2 (n : Nat) : List Byte := word2 (BitVec.ofNat 16 n)

def byte4 (n : Nat) : List Byte := word4 (BitVec.ofNat 32 n)

def byte8 (n : Nat) : List Byte := byte4 (n / 2 ^ 32) ++ byte4 n

/-- A signed quantity in four bytes, two's complement. -/
def signed4 (n : Int) : List Byte := word4 (BitVec.ofInt 32 n)

/-- A flag in a byte of its own (Table 9-10). -/
def flag1 (b : Bool) : List Byte := [if b then 1 else 0]

/-- A flags byte: the flags fill it from bit 0 (R173). -/
def flagsNat : List Bool → Nat
  | [] => 0
  | b :: bs => (if b then 1 else 0) + 2 * flagsNat bs

def flags1 (l : List Bool) : List Byte := byte1 (flagsNat l)

/-! ### Codes (Tables 9-4 to 9-6, 9-10, R173) -/

def masterCode : Master → Nat
  | .field => 1
  | .turbine => 2
  | .heat => 3

def writerCode : Option Master → Nat
  | none => 0
  | some m => masterCode m

def groupCode (g : Group) : Nat := (groupIdx g).val

def Kind.code : Kind → Nat
  | .value => 0
  | .ceiling => 1
  | .floor => 2

def UState.code : UState → Nat
  | .isolated => 0
  | .standby => 1
  | .running => 2
  | .paused => 3

def Phase.code : Phase → Nat
  | .none => 0
  | .starting => 1
  | .draining => 2
  | .isolating => 3

def Level.code : Level → Nat
  | .normal => 0
  | .alarm => 1
  | .trip => 2

def Quality.code : Quality → Nat
  | .unknown => 0
  | .good => 1
  | .limited => 2
  | .bad => 3
  | .noSignal => 4

def ChanMode.code : ChanMode → Nat
  | .frequency => 0
  | .waveform => 1
  | .oneshot => 2

def OneShot.code : OneShot → Nat
  | .idle => 0
  | .delay => 1
  | .pulse => 2
  | .done => 3

def GuardState.code : GuardState → Nat
  | .clear => 0
  | .lowering => 1
  | .holding => 2
  | .raising => 3

def GuardReason.code : GuardReason → Nat
  | .evaluation => 0
  | .service => 1
  | .overflow => 2

def MarginStatus.code : MarginStatus → Nat
  | .none => 0
  | .current => 1
  | .held => 2

def ExOutcome.code : ExOutcome → Nat
  | .none => 0
  | .evaluated => 1
  | .notEvaluable => 2
  | .skipped => 3

def SilOutcome.code : SilOutcome → Nat
  | .none => 0
  | .evaluated => 1
  | .skipped => 2

def CalOutcome.code : CalOutcome → Nat
  | .none => 0
  | .evaluated => 1
  | .skipped => 2
  | .notRun => 3

def MeterOutcome.code : MeterOutcome → Nat
  | .none => 0
  | .metered => 1
  | .reverse => 2
  | .unmetered => 3

def ProfileState.code : ProfileState → Nat
  | .good => 0
  | .bad => 1
  | .loading => 2

def CauseClass.isTrip : CauseClass → Bool
  | .alarm => false
  | .trip => true

def StateReason.code : StateReason → Nat
  | .go => 0
  | .drainEnd => 1
  | .drainTimeout => 2
  | .forced => 3

def ExpiryReason.code : ExpiryReason → Nat
  | .timeout => 0
  | .replaced => 1
  | .locked => 2
  | .silent => 3
  | .portReset => 4

def Source.code : Source → Nat
  | .trip => 1
  | .scale => 2
  | .alarm _ => 3
  | .force => 4
  | .link => 5

/-- The cause number: the row of Table 5-3, from 1 (R173). -/
def Cause.number : Cause → Nat
  | .reset => 1
  | .profileBad => 2
  | .estop => 3
  | .vfdFault _ => 4
  | .extOverspeed => 5
  | .sepLevelHH => 6
  | .hxLeak => 7
  | .overspeed => 8
  | .speedLost => 9
  | .limit _ _ => 10
  | .sensorBad _ => 11
  | .calcite _ => 12
  | .silicaMargin => 13
  | .silicaTrip => 14
  | .hxFouling => 15
  | .guardLost _ => 16
  | .drainTimeout _ => 17
  | .linkSilent _ => 18
  | .tgTripped => 19
  | .hxTripped => 20
  | .fieldTripped => 21

/-- The argument byte of a cause (R173). -/
def Cause.argument : Cause → Nat
  | .vfdFault i => i.val
  | .limit n k => 2 * n.val + k.val
  | .sensorBad n => n.val
  | .calcite i => i.val
  | .guardLost c => c.val
  | .drainTimeout u => u.val
  | .linkSilent m => masterCode m
  | _ => 0

/-- The two-byte cause code as a number: cause number, then argument (R173). -/
def Cause.code (c : Cause) : Nat := 256 * c.number + c.argument

def causeCode (c : Cause) : List Byte := byte2 c.code

/-- A field shown as "none" is sent as all bits one (R173). -/
def none1 : List Byte := [0xFF]
def none2 : List Byte := [0xFF, 0xFF]

/-- The source identity and, for ALARM, its cause code (R173, Table 9-6). -/
def Source.bytes (x : Source) : List Byte :=
  byte1 x.code ++ (match x with | .alarm c => causeCode c | _ => byte2 0)

/-- An override entry in ten bytes (R173). -/
def Entry.bytes (e : Entry) : List Byte :=
  e.source.bytes ++ byte1 e.kind.code ++ byte2 e.value ++ word4 e.stamp

def Readers.code (r : Readers) : Nat := flagsNat [r.field, r.turbine, r.heat]

def ceilingBytes : Option Nat → List Byte
  | none => none2
  | some v => byte2 v

def Result.code : Result → Byte
  | .ok => 0x00
  | .clamped => 0x01
  | .starting => 0x02
  | .badFrame => 0x10
  | .unknownRequest => 0x11
  | .badIndex => 0x12
  | .notWriter => 0x20
  | .notReader => 0x21
  | .slaved => 0x22
  | .locked => 0x23
  | .heldByOther => 0x24
  | .notOffered => 0x25
  | .busy => 0x30
  | .groupTripped => 0x31
  | .unitIsolated => 0x32
  | .causeActive => 0x33
  | .notAllTripped => 0x34
  | .queueEmpty => 0x40
  | .noRequest => 0x41

/-! ### Event records (Table 9-6, R173) -/

/-- A detail: its fields fill four bytes from the first, and unused bytes are 0. -/
def detail (l : List Byte) : List Byte := (l ++ [0, 0, 0, 0]).take 4

/-- Kind, subject, detail 1 and detail 2 of a record. -/
def EventBody.fields : EventBody → Nat × Nat × List Byte × List Byte
  | .overrideLost c src kind v => (0x01, c.val, src.bytes, byte1 kind.code ++ byte2 v)
  | .rampDone c v => (0x02, c.val, byte2 v, [])
  | .unitState u st r => (0x03, u.val, byte1 st.code, byte1 r.code)
  | .unitForced u ph st entered => (0x04, u.val, byte1 ph.code ++ byte1 st.code, byte1 entered.code)
  | .goDone g abandoned n => (0x05, groupCode g, flag1 abandoned, byte1 n)
  | .groupLevel g l first =>
    (0x06, groupCode g, byte1 l.code, match first with | none => none2 | some c => causeCode c)
  | .causeNew g c cls mom rec =>
    (0x07, groupCode g, causeCode c, flag1 cls.isTrip ++ flag1 mom ++ flag1 (!rec))
  | .handoverOffered c m secs => (0x08, c.val, byte1 (masterCode m), byte1 secs)
  | .handoverDone c old new => (0x09, c.val, byte1 (writerCode old), byte1 (writerCode new))
  | .handoverExpired c m r => (0x0A, c.val, byte1 (masterCode m), byte1 r.code)
  | .guardState c st r ceil => (0x0B, c.val, byte1 st.code ++ byte1 r.code, ceilingBytes ceil)
  | .portSilent m t => (0x0C, masterCode m, byte1 t, [])
  | .portHeard m d => (0x0D, masterCode m, word4 d, [])
  | .profileDone st item => (0x0E, 0, byte1 st.code, byte1 item)

/-- An event record in the payload of READ_EVENT (Table 9-7), without the records left. -/
def Event.bytes (e : Event) : List Byte :=
  let f := e.body.fields
  byte1 f.1 ++ word4 e.stamp ++ byte1 f.2.1 ++ detail f.2.2.1 ++ detail f.2.2.2

end Sys2Proof.Machine
end

