-- ==== Sys2Proof/Machine/Channels.lean ====
section
/-! DEFINITION. One output channel: waveform pairs (R2 to R7), one-shots (R8 to R10), the fold (R20), how a new target
is handled (R12, R14, R21), and the override stack as a list (R16, R17, R19). -/

namespace Sys2Proof.Machine

/-! ### Waveform (R2 to R7) -/

/-- The divisor v x f_fs x 2^p of R3. -/
def freqDivisor (p : ChanParams) (v : Nat) : Nat := v * p.ffs * 2 ^ p.presc

/-- The unclamped period count of R3 for a nonzero value. -/
def freqPeriod (p : ChanParams) (v : Nat) : Nat := roundHalfUp (10 ^ 10) (freqDivisor p v)

/-- R3: the pair of a FREQUENCY channel. -/
def freqPair (p : ChanParams) (v : Nat) : Pair :=
  if v = 0 then .staticLow
  else
    let n := max 2 (min 65535 (freqPeriod p v))
    .counts ((n + 1) / 2) (n / 2)

/-- R4: whether the period was clamped at the top. -/
def freqClamped (p : ChanParams) (v : Nat) : Bool := decide (v ≠ 0) && decide (65535 < freqPeriod p v)

/-- R5: the pair of a WAVEFORM channel. -/
def wavePair (p : ChanParams) (v : Nat) : Pair :=
  let high := v * p.pw / 1000
  if high = 0 then .staticLow
  else if p.pw - high = 0 then .staticHigh
  else .counts high (p.pw - high)

/-- The pair of an applied value; a ONESHOT channel has none and stays static low (1.3). -/
def ChanParams.pairOf (p : ChanParams) (v : Nat) : Pair :=
  match p.mode with
  | .frequency => freqPair p v
  | .waveform => wavePair p v
  | .oneshot => .staticLow

/-- R4: LOW_LIMIT after a pair is computed. -/
def ChanParams.lowLimitOf (p : ChanParams) (v : Nat) : Bool :=
  match p.mode with
  | .frequency => freqClamped p v
  | _ => false

/-- The phase a pair starts with (R2, R6). -/
def Pair.start : Pair → WavePhase
  | .counts _ _ => .high
  | _ => .static

/-- A pair becomes current: a non-static pair starts a fresh period with its high phase, a static one sets the pin. -/
def Channel.startPair (ch : Channel) (p : Pair) : Channel :=
  { ch with pair := p, wave := p.start, count := 0, sub := 0, pendingPair := none }

/-- R6: the applied value changes; its pair is pending until the period boundary, or current at once when the output is
static. -/
def Channel.setApplied (ch : Channel) (v : Nat) : Channel :=
  if v = ch.applied then ch
  else
    let p := ch.params.pairOf v
    let ch' := { ch with applied := v, lowLimit := ch.params.lowLimitOf v }
    if ch.wave = .static then ch'.startPair p else { ch' with pendingPair := some p }

/-- R7: the applied value changes by a TRIP jump; its pair is current at once. An unchanged value computes no pair
(R2, R7; DEDUCED, log 16). -/
def Channel.jumpApplied (ch : Channel) (v : Nat) : Channel :=
  if v = ch.applied then ch
  else { ch with applied := v, lowLimit := ch.params.lowLimitOf v }.startPair (ch.params.pairOf v)

/-- The level of the output pin: high in the high phase, under a static high pair and in a one-shot's pulse (R2, 1.3). -/
def Channel.pin (ch : Channel) : Bool :=
  match ch.params.mode with
  | .oneshot => decide (ch.oneShot = .pulse)
  | _ => decide (ch.wave = .high) || (decide (ch.wave = .static) && decide (ch.pair = .staticHigh))

/-! ### One-shot (R8 to R10) -/

/-- Entry to PULSE starts the pulse timer (R9). -/
def Channel.startPulse (ch : Channel) : Channel := { ch with oneShot := .pulse, timer := some ch.params.pulse }

/-- R8: arming, with a nonzero or a zero delay. -/
def Channel.arm (ch : Channel) : Channel :=
  if ch.params.delay = 0 then ch.startPulse else { ch with oneShot := .delay, timer := some ch.params.delay }

/-- R8 to R10: the effective target of a ONESHOT channel becomes `t`, and with it the applied value. -/
def Channel.oneShotTarget (ch : Channel) (t : Nat) : Channel :=
  let ch' := { ch with target := t, applied := t }
  if t = 0 then { ch' with oneShot := .idle, timer := none }
  else if ch.target = 0 ∧ ch.oneShot = .idle then ch'.arm
  else ch'

/-! ### Fold (R20) -/

/-- What an applied entry makes of the running value (R20). -/
def Entry.apply (e : Entry) (v : Nat) : Nat :=
  match e.kind with
  | .value => e.value
  | .ceiling => min v e.value
  | .floor => max v e.value

/-- R20: the entries applied bottom to top; all of them from the base, the TRIP entry alone from the safe level. -/
def foldStack (fromBase : Bool) (v : Nat) (stack : List Entry) : Nat :=
  stack.foldl (fun v e => if fromBase || decide (e.source = .trip) then e.apply v else v) v

/-- R20, Table 1-6: the states and phases in which the fold starts from the base. -/
def UnitRec.foldsFromBase (u : UnitRec) : Bool :=
  match u.phase with
  | .starting => true
  | .none => decide (u.state = .running) || decide (u.state = .paused)
  | _ => false

/-- R12, R67: the unit is STANDBY or ISOLATED. -/
def UnitRec.atRest (u : UnitRec) : Bool :=
  decide (u.phase = .none) && (decide (u.state = .standby) || decide (u.state = .isolated))

/-- R67: the unit is RUNNING or PAUSED. -/
def UnitRec.inUse (u : UnitRec) : Bool :=
  decide (u.phase = .none) && (decide (u.state = .running) || decide (u.state = .paused))

/-- R67: the unit is ISOLATED. -/
def UnitRec.isIsolated (u : UnitRec) : Bool := decide (u.phase = .none) && decide (u.state = .isolated)

/-- R20: the effective target of a channel. -/
def Channel.fold (ch : Channel) (fromBase : Bool) : Nat :=
  foldStack fromBase (if fromBase then ch.base else ch.params.safe) ch.stack

/-- R21: a recomputed target. A ONESHOT channel takes it at once; a FREQUENCY or WAVEFORM channel ramps to it, or is set
to it at once when its unit is STANDBY or ISOLATED (R12). -/
def Channel.retarget (ch : Channel) (atRest : Bool) (t : Nat) : Channel :=
  if ch.params.mode = .oneshot then (if t = ch.target then ch else ch.oneShotTarget t)
  else if atRest then { ch with target := t }.setApplied t
  else { ch with target := t }

/-- R14: a TRIP entry is topmost; the target and the applied value are its value at once. -/
def Channel.tripJump (ch : Channel) (t : Nat) : Channel :=
  if ch.params.mode = .oneshot then (if t = ch.target then ch else ch.oneShotTarget t)
  else { ch with target := t }.jumpApplied t

/-- R13: ramp done; a ONESHOT channel has it at all times. -/
def Channel.rampDone (ch : Channel) : Bool :=
  decide (ch.params.mode = .oneshot) || decide (ch.applied = ch.target)

/-- R11: the applied value after one ramp tick, toward the target at the slew; upward only where the unit lets it. -/
def Channel.rampValue (ch : Channel) (up : Bool) : Nat :=
  if ch.applied < ch.target then (if up then min ch.target (ch.applied + ch.params.slew) else ch.applied)
  else if ch.target < ch.applied then max ch.target (ch.applied - ch.params.slew)
  else ch.applied

/-! ### The stack as a list (R16, R17, R19) -/

/-- The most entries a stack holds (R16). -/
def stackSize : Nat := 4

/-- Whether an entry of an identity is present. -/
def hasSource (x : Source) (l : List Entry) : Bool := l.any (fun e => decide (e.source = x))

/-- R16 case 1: the entry with that identity is replaced in place. -/
def replaceEntry (e : Entry) (l : List Entry) : List Entry :=
  l.map (fun x => if x.source = e.source then e else x)

/-- R16 case 2: directly beneath the TRIP entry if one is present, and otherwise on top. -/
def insertBelowTrip (e : Entry) : List Entry → List Entry
  | [] => [e]
  | x :: rest => if x.source = .trip then e :: x :: rest else x :: insertBelowTrip e rest

/-- R16 cases 2 and 3. -/
def insertEntry (e : Entry) (l : List Entry) : List Entry :=
  if e.source = .trip then l ++ [e] else insertBelowTrip e l

/-- R16, R17: the entry a push discards, if any. -/
def discardedBy (e : Entry) (l : List Entry) : Option Entry :=
  if hasSource e.source l then none
  else if stackSize ≤ l.length then l.head? else none

/-- R16, R17: the stack after a push. -/
def pushEntry (e : Entry) (l : List Entry) : List Entry :=
  if hasSource e.source l then replaceEntry e l
  else if stackSize ≤ l.length then insertEntry e l.tail
  else insertEntry e l

/-- R19: the entry of an identity is deleted, and the entries above it move down. -/
def removeEntry (x : Source) (l : List Entry) : List Entry := l.filter (fun e => decide (e.source ≠ x))

/-! ### A channel of the state -/

/-- R21: the fold of a channel is recomputed. -/
def State.refold (s : State) (c : ChanId) : State :=
  let u := s.unit (unitOf c)
  s.modChan c fun ch => ch.retarget u.atRest (ch.fold u.foldsFromBase)

/-- R67: each channel of a unit recomputes its fold. -/
def State.refoldUnit (s : State) (u : UnitId) : State := s.each (unitChannels u) fun c s => s.refold c

end Sys2Proof.Machine
end

