-- ==== Sys2Proof/Machine/Sequencer.lean ====
section
/-! DEFINITION. How a phase of a unit ends by itself (R73, R75, R76), and how a path and a GO end (R78). -/

namespace Sys2Proof.Machine

/-- R73, R75: every FREQUENCY and WAVEFORM channel of the unit has ramp done. -/
def State.unitRampDone (s : State) (u : UnitId) : Bool := (unitChannels u).all (fun c => (s.chan c).rampDone)

/-- R75: a flow term: NO_SIGNAL, or a GOOD rate below the limit. -/
def Pulse.below (p : Pulse) (limit : Nat) : Bool :=
  decide (p.quality = .noSignal) || (decide (p.quality = .good) && decide (p.rate < limit))

/-- R75: the speed term of TG. -/
def State.speedBelow (s : State) (limit : Nat) : Bool :=
  decide ((s.pulse piSpeed).quality = .noSignal) ||
    (decide (s.tsm.quality = .good) && decide (s.tsm.speed < limit))

/-- R75, Table 4-6: the drain condition of a unit. -/
def State.drainMet (s : State) (u : UnitId) : Bool :=
  s.unitRampDone u &&
    (if h : u.val < 8 then (s.pulse ⟨u.val, Nat.lt_trans h (by decide)⟩).below (s.unit u).params.idleFlow
     else if u = unitRI then (s.pulse piReinjection).below (s.unit u).params.idleFlow
     else if u = unitTG then s.speedBelow (s.unit u).params.drainSpeed
     else true)

/-- R83: UNIT_STATE. -/
def State.queueUnitState (s : State) (u : UnitId) (st : UState) (r : StateReason) : State :=
  s.queueUnit u (.unitState u st r)

/-- R71: an immediate step: the STATE changes at once, the channels recompute, UNIT_STATE is queued. -/
def State.stepTo (s : State) (u : UnitId) (st : UState) (r : StateReason) : State :=
  ((s.modUnit u fun x => { x with state := st, phase := .none }).refoldUnit u).queueUnitState u st r

/-- Some unit of the group is in a phase. -/
def State.pathInFlight (s : State) (g : Group) : Bool :=
  (groupUnits g).any (fun u => decide ((s.unit u).phase ≠ .none))

/-- R78: at the end of the last path in flight of a busy group the flag clears and GO_DONE COMPLETE is queued. -/
def State.pathEnd (s : State) (g : Group) : State :=
  if (s.group g).busy && !s.pathInFlight g then
    (s.modGroup g fun x => { x with busy := false }).queueAll (.goDone g false (s.group g).started)
  else s

/-- A path is over: its destination and drain timer are gone (Table 4-3). -/
def State.clearPath (s : State) (u : UnitId) : State :=
  (s.modUnit u fun x => { x with dest := none, timer := none }).pathEnd (unitGroup u)

/-- R73: STARTING ends in RUNNING, and on a path to PAUSED steps there at once. -/
def State.endStarting (s : State) (u : UnitId) : State :=
  let dest := (s.unit u).dest
  let s := s.stepTo u .running .go
  let s := if dest = some .paused then s.stepTo u .paused .go else s
  s.clearPath u

/-- R76, R77: a drain ends in STANDBY, and ISOLATING steps on to ISOLATED at once; `mid` is what happens between. -/
def State.endDrain (s : State) (u : UnitId) (r : StateReason) (mid : State → State) : State :=
  let isolating := (s.unit u).phase = .isolating
  let s := (s.modUnit u fun x => { x with timer := none }).stepTo u .standby r
  let s := mid s
  let s := if isolating then s.stepTo u .isolated .go else s
  s.clearPath u

/-- R73, R76: tests the end of STARTING, or of a drain whose timer runs. -/
def State.testUnit (s : State) (u : UnitId) : State :=
  match (s.unit u).phase with
  | .none => s
  | .starting => if s.unitRampDone u then s.endStarting u else s
  | .draining => if (s.unit u).timer.isSome && s.drainMet u then s.endDrain u .drainEnd id else s
  | .isolating => if (s.unit u).timer.isSome && s.drainMet u then s.endDrain u .drainEnd id else s

end Sys2Proof.Machine
end

