-- ==== Sys2Proof/Machine/Logs.lean ====
section
/-! DEFINITION. A group's cause log, unrecorded set and level (R86 to R92). -/

namespace Sys2Proof.Machine

/-- The most records of a log (R88). -/
def logSize : Nat := 8

/-- The saturation of a record's count (Table 5-2). -/
def countMax : Nat := 255

/-- Whether the log holds a record of a cause. -/
def GroupRec.has (g : GroupRec) (c : Cause) : Bool := g.log.any (fun r => decide (r.cause = c))

/-- Whether the unrecorded set holds a cause. -/
def GroupRec.hasUnrecorded (g : GroupRec) (c : Cause) : Bool := g.unrecorded.any (fun r => decide (r.cause = c))

/-- Updates the record of a cause in place. -/
def GroupRec.modRecord (g : GroupRec) (c : Cause) (f : CauseRec → CauseRec) : GroupRec :=
  { g with log := g.log.map (fun r => if r.cause = c then f r else r) }

/-- R91: the set is kept in the order of Table 5-3 and, within a name, of the argument, each code at most once. -/
def insertUnrecorded (x : Unrecorded) : List Unrecorded → List Unrecorded
  | [] => [x]
  | y :: rest =>
    if x.cause = y.cause then y :: rest
    else if x.cause.code < y.cause.code then x :: y :: rest
    else y :: insertUnrecorded x rest

/-- Whether CAUSE_NEW is due, and as which: nothing, appended, or not recorded for a full log (R105). -/
inductive Recorded where
  | none
  | appended
  | unrecorded
  deriving DecidableEq, Repr

/-- R88: the record of a non-momentary arrival. -/
def GroupRec.arrive (g : GroupRec) (c : Cause) (cls : CauseClass) (now : Word) : GroupRec × Recorded :=
  if g.has c then
    (g.modRecord c fun r =>
      { r with active := true, acknowledged := false, count := min countMax (r.count + 1), lastChange := now }, .none)
  else if g.log.length < logSize then
    ({ g with log := g.log ++ [⟨c, cls, false, now, now, 1, true, false⟩] }, .appended)
  else
    ({ g with unrecorded := insertUnrecorded ⟨c, cls⟩ g.unrecorded, logFull := true },
      if g.hasUnrecorded c then .none else .unrecorded)

/-- R89: the record of a momentary arrival. -/
def GroupRec.arriveMomentary (g : GroupRec) (c : Cause) (cls : CauseClass) (now : Word) : GroupRec × Recorded :=
  if g.has c then
    (g.modRecord c fun r =>
      { r with acknowledged := false, count := min countMax (r.count + 1), lastChange := now }, .none)
  else if g.log.length < logSize then
    ({ g with log := g.log ++ [⟨c, cls, true, now, now, 1, false, false⟩] }, .appended)
  else ({ g with logFull := true }, .unrecorded)

/-- R90: the record of a deactivation. -/
def GroupRec.deactivate (g : GroupRec) (c : Cause) (now : Word) : GroupRec :=
  if g.has c then
    g.modRecord c fun r => if r.active then { r with active := false, lastChange := now } else r
  else { g with unrecorded := g.unrecorded.filter (fun x => decide (x.cause ≠ c)) }

/-- R92: the level the log asks for outside TRIP. -/
def GroupRec.quietLevel (g : GroupRec) : Level :=
  if g.log.any (fun r => r.active || (r.momentary && !r.acknowledged)) || !g.unrecorded.isEmpty || g.logFull
  then .alarm else .normal

/-- The first-out cause (R88). -/
def GroupRec.firstOut (g : GroupRec) : Option Cause := g.log.head?.map (·.cause)

/-- R100: a trip-class cause is active, in the log or in the unrecorded set. -/
def GroupRec.tripActive (g : GroupRec) : Bool :=
  g.log.any (fun r => r.active && r.cls.isTrip) || g.unrecorded.any (fun x => x.cls.isTrip)

/-- A level is entered, and GROUP_LEVEL queued with the first-out cause as it stands (R86, R105). -/
def State.setLevel (s : State) (g : Group) (l : Level) : State :=
  (s.modGroup g fun x => { x with level := l }).queueAll (.groupLevel g l (s.group g).firstOut)

/-- R92: the level is recomputed outside TRIP. -/
def State.relevel (s : State) (g : Group) : State :=
  let x := s.group g
  if x.level = .trip ∨ x.quietLevel = x.level then s else s.setLevel g x.quietLevel

/-- Stores a group's record of an arrival and queues CAUSE_NEW where it is due (R105). -/
def State.recordWith (s : State) (g : Group) (c : Cause) (cls : CauseClass) (momentary : Bool)
    (r : GroupRec × Recorded) : State :=
  let s := s.modGroup g fun _ => r.1
  match r.2 with
  | .none => s
  | .appended => s.queueAll (.causeNew g c cls momentary true)
  | .unrecorded => s.queueAll (.causeNew g c cls momentary false)

/-- R88 cases 1 to 3. -/
def State.record (s : State) (g : Group) (c : Cause) (cls : CauseClass) : State :=
  s.recordWith g c cls false ((s.group g).arrive c cls s.ms)

/-- R89: a momentary cause of ALARM class arrives (GUARD_LOST, DRAIN_TIMEOUT). -/
def State.momentary (s : State) (g : Group) (c : Cause) : State :=
  (s.recordWith g c .alarm true ((s.group g).arriveMomentary c .alarm s.ms)).relevel g

end Sys2Proof.Machine
end

