-- ==== Sys2Proof/Machine/Stacks.lean ====
section
/-! DEFINITION. Pushes onto and removals from a channel's override stack (R16 to R19), with the guard a discarded SCALE
entry belongs to (R144), and the guards of the scaling watch by channel (Table 4-1). -/

namespace Sys2Proof.Machine

/-! ### Guards by channel -/

/-- A guard: the silica guard on OC12, or the calcite guard of a well on its channel (Table 7-1). -/
inductive GuardId where
  | silica
  | calcite (i : Fin 8)
  deriving DecidableEq, Repr

def GuardId.chan : GuardId → ChanId
  | .silica => 12
  | .calcite i => wellChan i

/-- The guard of a channel, if it has one. -/
def guardOf (c : ChanId) : Option GuardId :=
  if h : c.val < 8 then some (.calcite ⟨c.val, h⟩) else if c = 12 then some .silica else none

/-- The guards of a unit (Table 4-1). -/
def unitGuard (u : UnitId) : Option GuardId :=
  if u = unitHX then some .silica else (wellOf u).map .calcite

def State.guard (s : State) : GuardId → Guard
  | .silica => s.swu.silGuard
  | .calcite i => s.swu.calGuards[i]

def State.guardParams (s : State) : GuardId → GuardParams
  | .silica => s.swu.params.silGuard
  | .calcite i => s.swu.params.calGuards[i]

def State.setGuard (s : State) (k : GuardId) (x : Guard) : State :=
  match k with
  | .silica => s.modSwu fun w => { w with silGuard := x }
  | .calcite i => s.modSwu fun w => { w with calGuards := w.calGuards.set i x }

/-- R145: a guard whose state is no longer the old one queues GUARD_STATE. -/
def State.tellGuard (s : State) (k : GuardId) (old : GuardState) (r : GuardReason) : State :=
  let x := s.guard k
  if x.state = old then s else s.queueReaders k.chan (.guardState k.chan x.state r x.ceiling)

/-- R143, R144: a guard in state CLEAR has no ceiling and keeps its last margin. -/
def Guard.cleared (x : Guard) : Guard := { x with state := .clear, ceiling := none }

/-- R144: the guard of a discarded SCALE entry takes CLEAR; one already CLEAR queues nothing. -/
def State.loseGuard (s : State) (k : GuardId) : State :=
  (s.setGuard k (s.guard k).cleared).tellGuard k (s.guard k).state .overflow

/-! ### Stack -/

/-- R18: the discard of an entry is handed to its owner. -/
def State.discarded (s : State) (c : ChanId) (e : Entry) : State :=
  if e.source = .scale then
    let s := match guardOf c with
      | some k => s.loseGuard k
      | none => s
    s.momentary (chanGroup c) (.guardLost c)
  else s.queueReaders c (.overrideLost c e.source e.kind e.value)

/-- R16, R17: the stack takes a push, and a discarded entry goes to its owner first; the fold is the caller's. -/
def State.pushRaw (s : State) (c : ChanId) (e : Entry) : State :=
  let s' := match discardedBy e (s.chan c).stack with
    | some x => s.discarded c x
    | none => s
  s'.modChan c fun ch => { ch with stack := pushEntry e ch.stack }

/-- R16, R21, R73, R75: a push of an identity other than TRIP. -/
def State.push (s : State) (c : ChanId) (e : Entry) : State :=
  ((s.pushRaw c e).refold c).testUnit (unitOf c)

/-- R14, R97 step 2: the push of a TRIP entry is a TRIP jump. The phases of the unit are not tested on it: the forcing
of the same trip entry decides them (DEDUCED from 4.15, log 17). -/
def State.pushTrip (s : State) (c : ChanId) (v : Nat) : State :=
  (s.pushRaw c ⟨.trip, .value, v, s.ms⟩).modChan c fun ch => ch.tripJump v

/-- R19: a removal of an absent identity changes nothing; a removal recomputes the fold. -/
def State.remove (s : State) (c : ChanId) (x : Source) : State :=
  if hasSource x (s.chan c).stack then
    ((s.modChan c fun ch => { ch with stack := removeEntry x ch.stack }).refold c).testUnit (unitOf c)
  else s

end Sys2Proof.Machine
end

