-- ==== Sys2Proof/Machine/Causes.lean ====
section
/-! DEFINITION. Arrivals and deactivations of causes short of a trip (R87 to R95), the service of a unit as the scaling
watch and the speed monitor see it (R81, R118, R139, R143). -/

namespace Sys2Proof.Machine

/-- R87, Table 5-3: the class of a cause; of LIMIT(n, k) the class of its check. -/
def State.classOf (s : State) : Cause → CauseClass
  | .limit n k => if k = 0 then (s.analog n).params.check0.cls else (s.analog n).params.check1.cls
  | .reset | .profileBad | .estop | .extOverspeed | .sepLevelHH | .hxLeak | .overspeed | .silicaTrip
  | .fieldTripped => .trip
  | .vfdFault _ | .speedLost | .sensorBad _ | .calcite _ | .silicaMargin | .hxFouling | .guardLost _
  | .drainTimeout _ | .linkSilent _ | .tgTripped | .hxTripped => .alarm

/-- R94: the actions of a cause's record whose channels lie in a group, in the order of the record. -/
def State.actionsIn (s : State) (g : Group) (c : Cause) : List Action :=
  match s.actions.find? (fun r => decide (r.cause = c)) with
  | none => []
  | some r => r.actions.filter (fun a => decide (chanGroup a.channel = g))

/-- R94: the ALARM entries of an alarm-class arrival are pushed. -/
def State.applyActions (s : State) (g : Group) (c : Cause) : State :=
  s.each (s.actionsIn g c) fun a s => s.push a.channel ⟨.alarm c, a.kind, a.value, s.ms⟩

/-- R90, R95: a deactivation: the record, the ALARM entries, the level. DESIGN CHOICE (log 44): R90 and R95 name several
channels without an order; their entries are removed in the order of the actions in the cause action record. -/
def State.deactivate (s : State) (g : Group) (c : Cause) : State :=
  let s := s.modGroup g fun x => x.deactivate c s.ms
  (s.each (s.actionsIn g c) fun a s => s.remove a.channel (.alarm c)).relevel g

/-- R88: an arrival of an alarm-class cause. -/
def State.arriveAlarm (s : State) (g : Group) (c : Cause) : State :=
  ((s.record g c .alarm).applyActions g c).relevel g

/-- R88: an arrival of a cause by its class, with the trip entry its group would make. -/
def State.arriveWith (s : State) (tripEntry : State → State) (g : Group) (c : Cause) : State :=
  match s.classOf c with
  | .alarm => s.arriveAlarm g c
  | .trip =>
    let s := s.record g c .trip
    (if (s.group g).level = .trip then s else tripEntry s).relevel g

/-! ### Service of a unit -/

/-- R139: an ACTIVE calcite cause of a well that leaves service is deactivated. -/
def State.calciteOff (s : State) (i : Fin 8) : State :=
  if (s.swu.cal[i]).active then
    (s.modSwu fun w => { w with cal := w.cal.set i { w.cal[i] with active := false } }).deactivate .field (.calcite i)
  else s

/-- R143: a guard that is not CLEAR removes its SCALE entry, takes CLEAR and queues GUARD_STATE. -/
def State.guardOff (s : State) (k : GuardId) : State :=
  let g := s.guard k
  if g.state = .clear then s
  else ((s.setGuard k g.cleared).remove k.chan .scale).tellGuard k g.state .service

/-- R81: the guards of a unit that leaves RUNNING or PAUSED are cleared, and then its calcite cause (R139). -/
def State.leaveService (s : State) (u : UnitId) : State :=
  let s := match unitGuard u with
    | some k => s.guardOff k
    | none => s
  match wellOf u with
  | some i => s.calciteOff i
  | none => s

/-- R118: TG is RUNNING, PAUSED or STARTING. -/
def UnitRec.inSpeedService (u : UnitRec) : Bool := u.inUse || decide (u.phase = .starting)

/-- R118: SPEED_LOST arrives in the Turbine group. -/
def State.loseSpeed (s : State) : State :=
  (s.modTsm fun t => { t with speedLost := true }).arriveAlarm .turbine .speedLost

/-- R118: an ACTIVE SPEED_LOST is deactivated. -/
def State.regainSpeed (s : State) : State :=
  if s.tsm.speedLost then (s.modTsm fun t => { t with speedLost := false }).deactivate .turbine .speedLost else s

/-- R118: TG enters service from outside it while the speed quality is NO_SIGNAL. -/
def State.speedEnter (s : State) (u : UnitId) : State :=
  if u = unitTG ∧ s.tsm.quality = .noSignal then s.loseSpeed else s

/-- R118: TG leaves service. -/
def State.speedLeave (s : State) (u : UnitId) : State := if u = unitTG then s.regainSpeed else s

end Sys2Proof.Machine
end

