-- ==== Sys2Proof/Machine/Trip.lean ====
section
/-! DEFINITION. Trip entry: the trip list, the forcing of the group's units, propagation (R79, R97, R98), and the release
of a trip (R101). -/

namespace Sys2Proof.Machine

/-! ### Forcing (R79) -/

/-- R79 steps 1 and 2: a unit that is RUNNING, PAUSED or in a phase enters its trip-list state; its path and its drain
timer are gone, and its channels recompute. -/
def State.enterTripState (s : State) (u : UnitId) : State :=
  if (s.unit u).atRest then s
  else
    (s.modUnit u fun x =>
      { x with state := x.params.tripState, phase := .none, dest := none, timer := none }).refoldUnit u

/-- R79 steps 3 to 5, R83: what follows the forcing of a unit that was `r`. -/
def State.forced (s : State) (u : UnitId) (r : UnitRec) : State :=
  if r.atRest then s
  else
    let entered := r.params.tripState
    let s := (s.leaveService u).speedLeave u
    let s := s.modUnit u fun x => { x with protAltered := true }
    let s := if entered = r.state then s else s.queueUnitState u entered .forced
    s.queueUnit u (.unitForced u r.phase r.state entered)

/-- R78, R79: the units of a group are forced at once, so no phase of one ends while another is forced; what follows is
taken in order of number, and a GO in flight ends ABANDONED. -/
def State.forceGroup (s : State) (g : Group) : State :=
  let units := s.units
  let s := s.each (groupUnits g) fun u s => s.enterTripState u
  let s := s.each (groupUnits g) fun u s => s.forced u units[u]
  if (s.group g).busy then
    (s.modGroup g fun x => { x with busy := false }).queueAll (.goDone g true (s.group g).started)
  else s

/-! ### Trip entry (R97) -/

/-- R97 step 2: the trip list is pushed, in list order. -/
def State.pushTripList (s : State) (g : Group) : State :=
  s.each (s.group g).tripList fun e s => s.pushTrip e.channel e.value

/-- R98: the propagated arrivals of the Turbine and the Heat group, which are alarm-class in the Field group. -/
def State.propagateAlarm (s : State) : Group → State
  | .field => s
  | .turbine => s.arriveAlarm .field .tgTripped
  | .heat => s.arriveAlarm .field .hxTripped

/-- R97 steps 1 to 3. -/
def State.tripSteps (s : State) (g : Group) : State := ((s.setLevel g .trip).pushTripList g).forceGroup g

/-- R97: the trip entry of the Turbine or the Heat group. -/
def State.tripAlarm (s : State) (g : Group) : State := (s.tripSteps g).propagateAlarm g

/-- R98, Table 5-6: FIELD_TRIPPED goes to the Turbine group and then to the Heat group, each taken whole. -/
def State.propagateField (s : State) : State :=
  let s := s.arriveWith (fun s => s.tripAlarm .turbine) .turbine .fieldTripped
  s.arriveWith (fun s => s.tripAlarm .heat) .heat .fieldTripped

/-- R98: the propagated causes of a group in TRIP are handed as arrivals. -/
def State.propagate (s : State) (g : Group) : State :=
  if g = .field then s.propagateField else s.propagateAlarm g

/-- R97: trip entry. -/
def State.tripEntry (s : State) (g : Group) : State := (s.tripSteps g).propagate g

/-- R88: an arrival of a non-momentary cause. -/
def State.arrive (s : State) (g : Group) (c : Cause) : State := s.arriveWith (fun s => s.tripEntry g) g c

/-- An arrival or a deactivation, as a condition became or ceased to be true. -/
def State.handOver (s : State) (g : Group) (c : Cause) (arrives : Bool) : State :=
  if arrives then s.arrive g c else s.deactivate g c

/-! ### Release (R101) -/

/-- R98, R101 step 3: the propagated causes are handed as deactivations, in the order of Table 5-6. -/
def State.propagateEnd (s : State) : Group → State
  | .field => (s.deactivate .turbine .fieldTripped).deactivate .heat .fieldTripped
  | .turbine => s.deactivate .field .tgTripped
  | .heat => s.deactivate .field .hxTripped

/-- R101 step 1: the TRIP entries of the channels of a group are removed. -/
def State.dropTrips (s : State) (g : Group) : State := s.each (groupChannels g) fun c s => s.remove c .trip

/-- R101: an accepted release. -/
def State.release (s : State) (g : Group) : State :=
  let s := s.dropTrips g
  (s.setLevel g (s.group g).quietLevel).propagateEnd g

end Sys2Proof.Machine
end

