-- ==== Sys2Proof/Machine/Link.lean ====
section
/-! DEFINITION. The taking of a request: its order of decision (R161), the valid-frame effects (R62, R170, R171), the
response (R163, R164) and the authority checks (R48 to R51). -/

namespace Sys2Proof.Machine

/-- The outcome of a command. -/
abbrev Out := Host.Outcome State Fault Refusal

/-- What the owner of a request makes of it: the state after it, the result and the payload. -/
abbrev Answer := State × Result × List Byte

def State.answer (s : State) (r : Result) (payload : List Byte := []) : Answer := (s, r, payload)

/-! ### Response buffer (R163) -/

/-- The oldest received frame is the one taken. -/
def State.takeFrame (s : State) (m : Master) : State := s.modPort m fun p => { p with received := p.received.tail }

/-- R163, R164: the response is held in the port's buffer. The draw makes the open fields of each response fresh (log 6). -/
def State.respond (s : State) (m : Master) (tag : Byte) (r : Result) (payload : List Byte) : State :=
  { s.modPort m (fun p => { p with buffer := .ready ⟨tag, r, payload⟩, partialFlag := false }) with draws := s.draws + 1 }

/-! ### Valid frame -/

/-- R170: the full timeout in milliseconds, or a stopped timer when the timeout is 0. -/
def Port.fullTimer (p : Port) : Option Nat := if p.timeout = 0 then none else some (p.timeout * 100)

def Port.reload (p : Port) : Port := { p with timer := p.fullTimer }

/-- Whether a master writes a channel. -/
def State.writes (s : State) (m : Master) (c : ChanId) : Bool := decide ((s.entry c).writer = some m)

/-- Whether a master writes a channel of a list. -/
def State.writesAny (s : State) (m : Master) (l : List ChanId) : Bool := l.any (s.writes m)

/-- The channels a master writes. -/
def State.written (s : State) (m : Master) : List ChanId := channels.filter (s.writes m)

/-- R61: the groups that hold a channel the master writes. -/
def State.writtenGroups (s : State) (m : Master) : List Group :=
  allGroups.filter (fun g => s.writesAny m (groupChannels g))

/-- R62: the return of a master to ACTIVE acts on the map. -/
def State.recoverMap (s : State) (m : Master) : State :=
  let s := s.each (s.written m) fun c s => s.remove c .link
  s.each (s.writtenGroups m) fun g s => s.deactivate g (.linkSilent m)

/-- R171: a SILENT port returns to ACTIVE on a valid frame. -/
def State.hear (s : State) (m : Master) : State :=
  let d := s.ms - (s.port m).silentSince
  let s := s.modPort m fun p => { p with silent := false }
  (s.queueOthers m (.portHeard m d)).recoverMap m

/-- R161 step 5: a valid frame returns a SILENT port to ACTIVE and reloads the silence timer. -/
def State.validFrame (s : State) (m : Master) : State :=
  (if (s.port m).silent then s.hear m else s).modPort m Port.reload

/-! ### Deciding a request (R161) -/

/-- R161: STARTING until the ports leave start-up; then a valid frame, and what the owner makes of the request. -/
def State.takeRequest (s : State) (m : Master) (tag : Byte) (owner : State → Answer) : State :=
  let s := s.takeFrame m
  if s.run = .running then
    let a := owner (s.validFrame m)
    a.1.respond m tag a.2.1 a.2.2
  else s.respond m tag .starting []

/-- A field checked against Table 9-4: BAD_INDEX when out of range (R162). -/
def State.index {α : Type} (s : State) (field : Option α) (k : α → Answer) : Answer :=
  match field with
  | none => s.answer .badIndex
  | some x => k x

/-- R48: a write check: NOT_WRITER unless it passes. -/
def State.needWriter (s : State) (ok : Bool) (k : Answer) : Answer := if ok then k else s.answer .notWriter

/-- R48: a read check against a channel's reader set: NOT_READER unless it passes. -/
def State.needReader (s : State) (m : Master) (c : ChanId) (k : Answer) : Answer :=
  if (s.entry c).readers.has m then k else s.answer .notReader

end Sys2Proof.Machine
end

