-- ==== Sys2Proof/Machine/Scaling.lean ====
section
/-! DEFINITION. The scaling watch: the evaluation (R125 to R141) and the requests SET_LAB and READ_SCALE (R146, R147). -/

namespace Sys2Proof.Machine

/-! ### Inputs of an evaluation (R126, Table 7-4) -/

/-- R126: an analog input of the snapshot is usable. -/
def Sample.usable (x : Sample) : Bool := decide (x.quality = .good) || decide (x.quality = .limited)

/-- R126, R149: a pulse input of the snapshot is usable. -/
def Sample.pulseUsable (x : Sample) : Bool := decide (x.quality = .good) || decide (x.quality = .noSignal)

/-- R40, R126: the rate of a usable pulse input, 0 in NO_SIGNAL. -/
def Sample.rate (x : Sample) : Nat := if x.quality = .noSignal then 0 else x.value.toNat

/-! ### Exchanger (R127 to R132) -/

/-- R128: the duty, W. -/
def dutyOf (m cp : Nat) (tIn tOut : Int) : Nat :=
  if tIn ≤ tOut then 0 else prod64 (m * cp * (tIn - tOut).toNat) / 10000

/-- R130: UA, W/K. -/
def uaOf (q : Nat) (dTm : Int) : Nat := prod64 (q * 100) / dTm.toNat

/-- R130: the cleanliness. -/
def cleanOf (ua uaClean : Nat) : Nat := min 1500 (prod64 (ua * 1000) / uaClean)

/-- R131: the shift of the cleanliness filter. -/
def cleanShift : Nat := 4

/-- Steps E1 to E5 (R128 to R131), with the five inputs usable. -/
def Exchanger.evaluate (x : Exchanger) (p : SwuParams) (m : Nat) (tBi tBo tWs tWr : Int) : Exchanger :=
  let q := dutyOf m p.cpB tBi tBo
  let d1 := tBi - tWs
  let d2 := tBo - tWr
  let x := { x with q := q, dT1 := d1, dT2 := d2 }
  if d1 < 50 ∨ d2 < 50 ∨ m = 0 then { x with outcome := .notEvaluable }
  else
    let dTm := (d1 + d2) / 2
    let ua := uaOf q dTm
    let c := cleanOf ua p.uaClean
    let acc := filterAcc cleanShift x.acc c
    { x with outcome := .evaluated, dTm := dTm, ua := ua, c := c, acc := some acc,
             cf := (filterValue cleanShift acc).toNat }

/-- R132: HX_FOULING after step E6. -/
def foulingNext (active : Bool) (cf alarm : Nat) : Bool :=
  if active then !decide (alarm + 10 ≤ cf) else decide (cf < alarm)

def State.modEx (s : State) (f : Exchanger → Exchanger) : State := s.modSwu fun w => { w with ex := f w.ex }

/-- Step E6 (R132). -/
def State.stepFouling (s : State) : State :=
  let x := s.swu.ex
  let next := foulingNext x.fouling x.cf s.swu.params.cleanAlarm
  if next = x.fouling then s else (s.modEx fun x => { x with fouling := next }).handOver .heat .hxFouling next

/-- The exchanger steps (R126, R127). -/
def State.evalExchanger (s : State) : State :=
  let w := s.snap
  let m := w.pi[piBrine]
  let a (n : Fin 16) : Sample := w.ai[n]
  if m.pulseUsable && (a aiBrineIn).usable && (a aiBrineOut).usable && (a aiSupply).usable && (a aiReturn).usable then
    let s := s.modEx fun x => x.evaluate s.swu.params m.rate (a aiBrineIn).value (a aiBrineOut).value
      (a aiSupply).value (a aiReturn).value
    if s.swu.ex.outcome = .evaluated then s.stepFouling else s
  else s.modEx fun x => { x with outcome := .skipped }

/-! ### Guards (R140, R141) -/

/-- What the guard rule does with the SCALE entry. -/
inductive GuardMove where
  /-- The entry is pushed, or replaced in place. -/
  | put (ceiling : Nat) (state : GuardState)
  /-- The entry, if any, stays. -/
  | keep (state : GuardState)
  /-- The entry is removed. -/
  | drop
  deriving DecidableEq, Repr

/-- Table 7-9. -/
def guardRule (p : GuardParams) (state : GuardState) (ceiling applied : Nat) (margin : Int) : GuardMove :=
  if state = .clear then
    if margin < p.clamp then .put (max p.floor (applied - p.step)) .lowering else .keep .clear
  else if margin < p.clamp then .put (max p.floor (ceiling - p.step)) .lowering
  else if margin < p.release then .keep .holding
  else if ceiling + p.step ≤ 999 then .put (ceiling + p.step) .raising
  else .drop

/-- R140: the guard rule with a margin: the SCALE entry moves with the guard, and GUARD_STATE follows (R145). DEDUCED
(log 45): "applied" of Table 7-9 is read at the guard's own step, after the actions of the causes that earlier steps of the
evaluation handed over; R140 says "when the evaluation is taken". -/
def State.runGuard (s : State) (k : GuardId) (margin : Int) : State :=
  let g := s.guard k
  let x := { g with margin := margin, status := .current }
  match guardRule (s.guardParams k) g.state (g.ceiling.getD 0) (s.chan k.chan).applied margin with
  | .put v st =>
    ((s.setGuard k { x with state := st, ceiling := some v }).push k.chan ⟨.scale, .ceiling, v, s.ms⟩).tellGuard k
      g.state .evaluation
  | .keep st => (s.setGuard k { x with state := st }).tellGuard k g.state .evaluation
  | .drop => ((s.setGuard k x.cleared).remove k.chan .scale).tellGuard k g.state .evaluation

/-- R141: a held guard keeps all but its margin status. -/
def State.holdGuard (s : State) (k : GuardId) : State := s.setGuard k { s.guard k with status := .held }

/-! ### Silica (R133 to R137) -/

/-- R133: the limit temperature above the first point, from the segment that holds the concentration. -/
def limitFrom (c : Nat) : SilicaPoint → List SilicaPoint → Int
  | p, [] => p.t
  | p, q :: rest =>
    if c ≤ p.c then p.t
    else if c < q.c then p.t + Int.tdiv ((c - p.c : Nat) * (q.t - p.t)) (q.c - p.c : Nat)
    else limitFrom c q rest

/-- Step S1 (R133). -/
def limitOf (table : List SilicaPoint) (c : Nat) : Int :=
  match table with
  | [] => 0
  | p :: rest => limitFrom c p rest

def State.modSil (s : State) (f : Silica → Silica) : State := s.modSwu fun w => { w with sil := f w.sil }

/-- R135: SILICA_MARGIN after step S3. -/
def marginNext (active : Bool) (sm alarm : Int) : Bool :=
  if active then decide (sm < alarm + 50) else decide (sm < alarm)

/-- R136: SILICA_TRIP and the trip counter after step S3. -/
def tripNext (active : Bool) (counter : Nat) (sm : Int) (n : Nat) : Bool × Nat :=
  if active then (decide (sm < 0), counter)
  else if sm < 0 then (if counter + 1 < n then (false, counter + 1) else (true, 0))
  else (false, 0)

/-- Step S3, SILICA_MARGIN (R135). -/
def State.stepMargin (s : State) : State :=
  let x := s.swu.sil
  let next := marginNext x.margin x.sm s.swu.params.mAlarm
  if next = x.margin then s else (s.modSil fun x => { x with margin := next }).handOver .heat .silicaMargin next

/-- Step S3, SILICA_TRIP (R136). -/
def State.stepTrip (s : State) : State :=
  let x := s.swu.sil
  let next := tripNext x.trip x.counter x.sm s.swu.params.nSt
  let s := s.modSil fun x => { x with trip := next.1, counter := next.2 }
  if next.1 = x.trip then s else s.handOver .heat .silicaTrip next.1

/-- The silica steps (R134, R137). DEDUCED (log 47): step S4 reads the live state of HX (R125), so that its guard runs in the
very evaluation inside which HX has reached RUNNING or PAUSED, by an action of an earlier step that ends STARTING (R73). -/
def State.evalSilica (s : State) : State :=
  let t := s.snap.ai[aiBrineOut]
  if t.usable then
    let tLim := limitOf s.swu.params.table s.swu.cSil
    let s := s.modSil fun x => { x with outcome := .evaluated, tLim := tLim, sm := t.value - tLim }
    let s := s.stepMargin.stepTrip
    if (s.unit unitHX).inUse then s.runGuard .silica s.swu.sil.sm else s
  else
    let s := s.modSil fun x => { x with outcome := .skipped, counter := 0 }
    if (s.unit unitHX).inUse then s.holdGuard .silica else s

/-! ### Calcite (R138) -/

def State.modCal (s : State) (i : Fin 8) (f : Calcite → Calcite) : State :=
  s.modSwu fun w => { w with cal := w.cal.set i (f w.cal[i]) }

/-- R138: CALCITE(i) after step K2. -/
def calciteNext (active : Bool) (cm alarm : Int) (hyst : Nat) : Bool :=
  if active then decide (cm < alarm + hyst) else decide (cm < alarm)

/-- Step K2 (R138). -/
def State.stepCalcite (s : State) (i : Fin 8) : State :=
  let x := s.swu.cal[i]
  let next := calciteNext x.active x.cm s.swu.params.calAlarm s.swu.params.calHyst
  if next = x.active then s else (s.modCal i fun x => { x with active := next }).handOver .field (.calcite i) next

/-- The calcite steps of a well (R138, R141). DEDUCED (log 47): they read the live state of the well (R125), so that they, and
its guard, run in the very evaluation inside which the well has reached RUNNING or PAUSED, by an action of an earlier step that
ends STARTING (R73). -/
def State.evalCalcite (s : State) (i : Fin 8) : State :=
  let p := s.snap.ai[wellInput i]
  if (s.unit (wellUnit i)).inUse then
    if p.usable then
      let cm := p.value - (s.swu.pBub[i] : Nat)
      let s := s.modCal i fun x => { x with outcome := .evaluated, pInt := p.value, cm := cm }
      (s.stepCalcite i).runGuard (.calcite i) cm
    else (s.modCal i fun x => { x with outcome := .skipped }).holdGuard (.calcite i)
  else s.modCal i fun x => { x with outcome := .notRun }

/-! ### Schedule (R125) -/

/-- R125, R126: an evaluation. -/
def State.evaluate (s : State) : State :=
  let s := s.modSwu fun w => { w with counter := 0, lastTime := s.snap.time }
  s.evalExchanger.evalSilica.each wells fun i s => s.evalCalcite i

/-- R125: the scaling watch takes a scan completion. -/
def State.countScan (s : State) : State :=
  if s.swu.params.interval ≤ s.swu.counter + 1 then s.evaluate
  else s.modSwu fun w => { w with counter := w.counter + 1 }

/-! ### Requests -/

/-- The channel whose writer sets a lab value (R50). -/
def LabItem.chan : LabItem → ChanId
  | .silica => 10
  | .bubble i => wellChan i

/-- The maximum of a lab value (R146). -/
def LabItem.max : LabItem → Nat
  | .silica => 2000
  | .bubble _ => 200000

def State.setLab (s : State) (item : LabItem) (v : Nat) : State :=
  match item with
  | .silica => s.modSwu fun w => { w with cSil := v }
  | .bubble i => s.modSwu fun w => { w with pBub := w.pBub.set i v }

/-- SET_LAB (R50, R146). -/
def ownSetLab (m : Master) (item : Byte) (value : Word) (s : State) : Answer :=
  s.index (itemField item) fun x =>
  s.needWriter (s.writes m x.chan) <|
  (s.setLab x (min x.max value.toNat)).answer (if x.max < value.toNat then .clamped else .ok)

def execSetLab (port : Master) (tag item : Byte) (value : Word) (s : State) : Out :=
  .next (s.takeRequest port tag (ownSetLab port item value))

/-- The guard fields of READ_SCALE (Table 9-7). -/
def Guard.bytes (g : Guard) : List Byte :=
  byte1 g.state.code ++ ceilingBytes g.ceiling ++ signed4 g.margin ++ byte1 g.status.code

/-- The fields of READ_SCALE (R147, Table 9-7). -/
def State.scaleBytes (s : State) : ScalePart → List Byte
  | .exchanger =>
    let x := s.swu.ex
    word4 s.swu.lastTime ++ byte1 (s.swu.params.interval - s.swu.counter) ++ byte1 x.outcome.code ++ byte8 x.q ++
    signed4 x.dT1 ++ signed4 x.dT2 ++ signed4 x.dTm ++ byte8 x.ua ++ byte2 x.c ++ byte2 x.cf ++ flag1 x.acc.isSome ++
    flag1 x.fouling
  | .silica =>
    let x := s.swu.sil
    byte2 s.swu.cSil ++ byte1 x.outcome.code ++ signed4 x.tLim ++ signed4 x.sm ++ flags1 [x.margin, x.trip] ++
    byte1 x.counter ++ s.swu.silGuard.bytes
  | .well i =>
    let x := s.swu.cal[i]
    byte4 s.swu.pBub[i] ++ byte1 x.outcome.code ++ signed4 x.pInt ++ signed4 x.cm ++ flag1 x.active ++
    (s.swu.calGuards[i]).bytes

/-- READ_SCALE (R51, R147). -/
def ownReadScale (part : Byte) (s : State) : Answer :=
  s.index (partField part) fun x => s.answer .ok (s.scaleBytes x)

def execReadScale (port : Master) (tag part : Byte) (s : State) : Out :=
  .next (s.takeRequest port tag (ownReadScale part))

end Sys2Proof.Machine
end

