-- ==== Sys2Proof/Machine/Meter.lean ====
section
/-! DEFINITION. The district heat meter (R149 to R156). -/

namespace Sys2Proof.Machine

/-- One kilowatt-hour in 10^-7 J (R151). -/
def kwhUnits : Nat := 36000000000000

/-- R151: energy enters the residue and is carried into kWh. DESIGN CHOICE (log 48): the sum, its quotient and the carry in
units are taken exact, also past 2^63 - 1, where an energy just below that bound, or one that log 7 leaves open, can bring
them. -/
def Hmt.integrate (h : Hmt) (e : Nat) : Hmt :=
  let sum := h.residue + e
  let carry := sum / kwhUnits
  { h with kwh := min max32 (h.kwh + carry), residue := sum - carry * kwhUnits }

/-- R154: unmetered time. -/
def Hmt.addUnmetered (h : Hmt) (dt : Nat) : Hmt :=
  let r := h.unmeteredMs + dt
  if 1000 ≤ r then { h with unmeteredMs := r - 1000, unmeteredS := min max32 (h.unmeteredS + 1) }
  else { h with unmeteredMs := r }

/-- R150 to R155: one interval of length `dt` from a snapshot. -/
def Hmt.interval (h : Hmt) (snap : Snapshot) (dt : Nat) : Hmt :=
  let m := snap.pi[piDistrict]
  let tWs := snap.ai[aiSupply]
  let tWr := snap.ai[aiReturn]
  let h := { h with lastTime := snap.time }
  if !(m.pulseUsable && tWs.usable && tWr.usable) then { h.addUnmetered dt with outcome := .unmetered, power := 0 }
  else if tWs.value < tWr.value then { h with outcome := .reverse, reverse := true, power := 0 }
  else
    let flow := m.rate * h.cpW * (tWs.value - tWr.value).toNat
    { h.integrate (prod64 (flow * dt)) with outcome := .metered, power := prod64 flow / 10000 }

/-- R150: the meter takes a scan completion. -/
def State.meterScan (s : State) : State := { s with hmt := s.hmt.interval s.snap s.asu.period }

/-- The fields of READ_METER (R156, Table 9-7). -/
def Hmt.bytes (h : Hmt) : List Byte :=
  byte4 h.kwh ++ byte4 (h.residue / 10000000) ++ byte8 h.power ++ byte1 h.outcome.code ++ flag1 h.reverse ++
  byte4 h.unmeteredS ++ byte2 h.unmeteredMs ++ word4 h.lastTime ++ byte2 h.cpW

/-- READ_METER (R51, R156). -/
def ownReadMeter (s : State) : Answer :=
  { s with hmt := { s.hmt with reverse := false } }.answer .ok s.hmt.bytes

def execReadMeter (port : Master) (tag : Byte) (s : State) : Out :=
  .next (s.takeRequest port tag ownReadMeter)

end Sys2Proof.Machine
end

