-- ==== Sys2Proof/Machine/Inputs.lean ====
section
/-! DEFINITION. The measurement inputs: conversions and scan completion (R29 to R36), pulse inputs (R38 to R41) with the
turbine speed monitor (R113 to R118), discrete inputs (R42, R43), and READ_INPUT (R44). -/

namespace Sys2Proof.Machine

/-! ### Analog conversions (R30 to R33, R36) -/

/-- Table 2-3. -/
def gradeOf (code : Nat) : Quality :=
  if code ≤ 575 then .bad
  else if code ≤ 639 then .limited
  else if code ≤ 3200 then .good
  else if code ≤ 3360 then .limited
  else .bad

/-- Table 2-3: the code passed to scaling. -/
def clampCode (code : Nat) : Nat := max 640 (min 3200 code)

/-- R31: the raw value of a clamped code. -/
def AnalogParams.raw (p : AnalogParams) (c : Nat) : Int := p.lo + (((c : Int) - 640) * (p.hi - p.lo) + 1280) / 2560

/-- R30 to R33: the record after a conversion. -/
def Analog.convert (a : Analog) (code : Nat) : Analog :=
  let a := { a with code := code, quality := gradeOf code }
  if gradeOf code = .bad then { a with acc := none }
  else
    let acc := filterAcc a.params.shift a.acc (a.params.raw (clampCode code))
    { a with acc := some acc, value := filterValue a.params.shift acc, age := 0 }

/-- R36: SENSOR_BAD follows a change of quality to or from BAD. -/
def State.sensorChange (s : State) (n : Fin 16) (old : Quality) : State :=
  let a := s.analog n
  if old ≠ .bad ∧ a.quality = .bad then s.handOver a.params.badGroup (.sensorBad n) true
  else if old = .bad ∧ a.quality ≠ .bad then s.handOver a.params.badGroup (.sensorBad n) false
  else s

/-- R30 to R36: the conversion of one scan list entry ends. -/
def State.convert (s : State) (n : Fin 16) (code : Nat) : State :=
  (s.modAnalog n fun a => a.convert code).sensorChange n (s.analog n).quality

/-! ### Scan completion (R34, R35) -/

/-- R34: the scan snapshot. -/
def State.takeSnapshot (s : State) : State :=
  { s with snap :=
      { time := s.ms
        ai := vec16 fun n => ⟨(s.analog n).value, (s.analog n).quality⟩
        pi := vec12 fun j => ⟨(s.pulse j).rate, (s.pulse j).quality⟩ } }

/-- R35: the state of a check after its evaluation on a usable value. -/
def CheckParams.next (p : CheckParams) (active : Bool) (v : Int) : Bool :=
  match p.dir with
  | .off => active
  | .high => if active then !decide (v < p.threshold - p.hysteresis) else decide (p.threshold < v)
  | .low => if active then !decide (p.threshold + p.hysteresis < v) else decide (v < p.threshold)

/-- A limit check by its number (R35). -/
def Analog.check (a : Analog) (k : Fin 2) : CheckParams := if k = 0 then a.params.check0 else a.params.check1
def Analog.active (a : Analog) (k : Fin 2) : Bool := if k = 0 then a.active0 else a.active1
def Analog.setActive (a : Analog) (k : Fin 2) (b : Bool) : Analog :=
  if k = 0 then { a with active0 := b } else { a with active1 := b }

/-- R35: one limit check. -/
def State.limitCheck (s : State) (n : Fin 16) (k : Fin 2) : State :=
  let x := s.snap.ai[n]
  let a := s.analog n
  let p := a.check k
  let next := p.next (a.active k) x.value
  if x.usable && decide (next ≠ a.active k) then
    (s.modAnalog n fun a => a.setActive k next).handOver p.group (.limit n k) next
  else s

/-- R34, R35: the 32 checks, input 0 check 0 first. -/
def State.limitChecks (s : State) : State :=
  s.each analogs fun n s => (s.limitCheck n 0).limitCheck n 1

/-- R34: scan completion, and its users in the order of the table. -/
def State.completeScan (s : State) : State := s.takeSnapshot.limitChecks.meterScan.countScan

/-! ### Scan schedule (R29) -/

/-- R29: a scan starts, and the next is due one scan period later. -/
def State.startScan (s : State) : State :=
  { s with asu := { s.asu with pos := some 0, nextScan := s.ms + BitVec.ofNat 32 s.asu.period } }

/-- SCAN_START (R29): in operation, with no scan in progress (log 1). -/
def execScanStart (s : State) : Out := .next (if s.run = .running ∧ s.asu.pos = none then s.startScan else s)

/-- The input being converted (R29). -/
def Asu.converting (a : Asu) : Option (Fin 16) :=
  match a.pos with
  | none => none
  | some p => a.list[p]?

/-- R29: the scan goes on to its next entry, or is complete (R34). -/
def State.nextEntry (s : State) (p : Nat) : State :=
  if p + 1 < s.asu.list.length then { s with asu := { s.asu with pos := some (p + 1) } }
  else { s with asu := { s.asu with pos := none } }.completeScan

/-- CONVERSION_END (R29, R30): it finds a conversion in progress, or does nothing (log 1). -/
def execConversionEnd (code : BitVec 12) (s : State) : Out :=
  .next (match s.asu.pos with
    | none => s
    | some p =>
      match s.asu.list[p]? with
      | none => s
      | some n => (s.convert n code.toNat).nextEntry p)

/-! ### Turbine speed monitor (R113 to R118) -/

/-- Table 6-1, R115: OVERSPEED and the run counter after a period, fast or slow. -/
def overspeedNext (active : Bool) (run : Nat) (fast : Bool) : Bool × Nat :=
  if active = fast then (active, 0)
  else if run < 2 then (active, run + 1)
  else (fast, 0)

/-- R113: the speed of a period, GOOD. -/
def State.setSpeed (s : State) (k period : Nat) : State :=
  s.modTsm fun t => { t with speed := roundHalfUp k period, quality := .good }

/-- R115: a period is compared with the trip period. -/
def State.comparePeriod (s : State) (period : Nat) : State :=
  let t := s.tsm
  let next := overspeedNext t.overspeed t.run (decide (period ≤ t.params.tripPeriod))
  let s := s.modTsm fun t => { t with overspeed := next.1, run := next.2 }
  if next.1 = t.overspeed then s else s.handOver .turbine .overspeed next.1

/-- R113, R115, R118: the monitor takes a period latched on PI11. -/
def State.speedPeriod (s : State) (period : Nat) : State :=
  ((s.setSpeed (s.pulse piSpeed).params.k period).regainSpeed).comparePeriod period

/-- R116: OVERSPEED at PI11's entry to NO_SIGNAL. -/
def State.stopOverspeed (s : State) : State :=
  let active := s.tsm.overspeed
  let s := s.modTsm fun t => { t with overspeed := false, run := 0 }
  if active then s.deactivate .turbine .overspeed else s

/-- R113, R116, R118: the monitor takes PI11's entry to NO_SIGNAL. -/
def State.speedLoss (s : State) : State :=
  let s := (s.modTsm fun t => { t with speed := 0, quality := .noSignal }).stopOverspeed
  if (s.unit unitTG).inSpeedService then s.loseSpeed else s

/-! ### Pulse inputs (R38 to R41) -/

/-- The counts of the 24-bit period counter (R38). -/
def counterSpan : Nat := 2 ^ 24

/-- R38: the period an edge latches. -/
def Pulse.period (p : Pulse) (draw : Nat) : Nat :=
  if counterSpan ≤ p.count then max 1 (Config.longPeriod draw).toNat else max 1 p.count

/-- R38: a period is latched, and the rate computed and filtered. -/
def Pulse.latch (p : Pulse) (period : Nat) : Pulse :=
  let acc := filterAcc p.params.shift p.acc (roundHalfUp p.params.k period)
  { p with
    latched := period
    count := 0
    sub := 0
    timer := some 0
    timerSub := 0
    acc := some acc
    rate := (filterValue p.params.shift acc).toNat
    quality := .good }

/-- R39: a first edge starts timing. -/
def Pulse.first (p : Pulse) : Pulse :=
  { p with running := true, count := 0, sub := 0, timer := some 0, timerSub := 0 }

/-- R40: entry to NO_SIGNAL. DESIGN CHOICE (log 43): the period counter, of which R40 says nothing, keeps its last count,
2^24 after an overflow; nothing reads it before R39 starts it again from 0. -/
def Pulse.lose (p : Pulse) : Pulse :=
  { p with quality := .noSignal, rate := 0, acc := none, running := false, timer := none, timerSub := 0 }

/-- R41, R75: the drain condition that reads a pulse input is tested. -/
def State.testPulse (s : State) (j : PulseId) : State :=
  match pulseUnit j with
  | some u => s.testUnit u
  | none => s

/-- R38, R41: a period is latched on an input; the speed monitor takes it before the sequencer tests. -/
def State.latchPulse (s : State) (j : PulseId) : State :=
  let period := (s.pulse j).period s.draws
  let s := { s.modPulse j (fun p => p.latch period) with draws := s.draws + 1 }
  (if j = piSpeed then s.speedPeriod period else s).testPulse j

/-- PULSE_ACTIVE_EDGE (R38, R39): counted in operation (R46, R181). -/
def execPulseActiveEdge (input : PulseId) (s : State) : Out :=
  .next (if s.run ≠ .running then s
    else if (s.pulse input).running then s.latchPulse input
    else s.modPulse input Pulse.first)

/-- R40, R41: an input enters NO_SIGNAL. -/
def State.losePulse (s : State) (j : PulseId) : State :=
  let s := s.modPulse j Pulse.lose
  (if j = piSpeed then s.speedLoss else s).testPulse j

/-- SIGNAL_TIMEOUT (R40): it finds the timer running; in NO_SIGNAL it changes nothing (log 9). -/
def execSignalTimeout (input : PulseId) (s : State) : Out :=
  let p := s.pulse input
  .next (if p.timer.isSome ∧ p.quality ≠ .noSignal then s.losePulse input else s)

/-- PERIOD_COUNTER_OVERFLOW (R40): it finds timing RUNNING; in NO_SIGNAL it changes nothing (log 9). -/
def execPeriodCounterOverflow (input : PulseId) (s : State) : Out :=
  let p := s.pulse input
  .next (if p.running = true ∧ p.quality ≠ .noSignal then s.losePulse input else s)

/-! ### Discrete inputs (R42, R43) -/

/-- R42: a sample through the polarity. -/
def Discrete.asserted (d : Discrete) (high : Bool) : Bool := high != d.activeLow

/-- R42: the history after a sample. -/
def historyNext (h : List Bool) (b : Bool) : List Bool :=
  let l := h ++ [b]
  l.drop (l.length - 3)

/-- R42: the record after a sample. -/
def Discrete.sample (d : Discrete) (high : Bool) : Discrete :=
  let h := historyNext d.history (d.asserted high)
  { d with
    history := h
    filtered := if h.length = 3 ∧ h.all (fun b => b != d.filtered) then !d.filtered else d.filtered }

/-- What one sample of the discrete inputs hands to the protection controller. -/
structure Hand where
  group : Group
  cause : Cause
  arrives : Bool
  deriving DecidableEq, Repr

/-- R43: the cause of an input and its groups. -/
def discreteCauses (d : Fin 12) : List (Group × Cause) :=
  if h : d.val < 8 then [(.field, .vfdFault ⟨d.val, h⟩)]
  else match d.val with
    | 8 => [(.turbine, .extOverspeed)]
    | 9 => [(.turbine, .sepLevelHH)]
    | 10 => [(.heat, .hxLeak)]
    | _ => [(.field, .estop), (.turbine, .estop), (.heat, .estop)]

/-- The discrete inputs in order. -/
def discretes : List (Fin 12) := [0, 1, 2, 3, 4, 5, 6, 7, 8, 9, 10, 11]

/-- R43: what an input's change hands over. -/
def handsOf (old new : Vector Discrete 12) (d : Fin 12) : List Hand :=
  if old[d].filtered = new[d].filtered then []
  else (discreteCauses d).map (fun x => ⟨x.1, x.2, new[d].filtered⟩)

/-- R42, R43: a sample of the twelve inputs; what it hands over is taken in an order that R99 leaves free (log 3). -/
def State.sampleDiscretes (s : State) (levels : BitVec 12) : State :=
  let new := vec12 fun d => (s.di[d]).sample (levels.getLsbD d.val)
  let hands := discretes.flatMap (handsOf s.di new)
  let s := { s with di := new, draws := s.draws + 1 }
  s.each (freeOrder s.draws hands) fun x s => s.handOver x.group x.cause x.arrives

/-- DI_SAMPLE (R42): in operation (R181). -/
def execDiSample (levels : BitVec 12) (s : State) : Out :=
  .next (if s.run = .running then s.sampleDiscretes levels else s)

/-! ### READ_INPUT (R44) -/

/-- R173: the history byte: samples newest in bit 0, and their number in bits 4 and 3. -/
def historyByte (h : List Bool) : List Byte := byte1 (8 * h.length + flagsNat h.reverse)

/-- The fields of READ_INPUT (R44, Table 9-7). -/
def State.inputBytes (s : State) : InputName → List Byte
  | .analog n =>
    let a := s.analog n
    byte2 a.code ++ signed4 a.value ++ byte1 a.quality.code ++ byte4 a.age ++ flags1 [a.active0, a.active1]
  | .pulse j =>
    let p := s.pulse j
    byte4 p.latched ++ byte4 p.rate ++ byte1 p.quality.code ++ flag1 p.running
  | .discrete d =>
    let x := s.di[d]
    historyByte x.history ++ flag1 x.filtered ++ flag1 x.activeLow

/-- READ_INPUT (R44, R51). -/
def ownReadInput (cls number : Byte) (s : State) : Answer :=
  s.index (inputField cls number) fun x => s.answer .ok (s.inputBytes x)

def execReadInput (port : Master) (tag cls number : Byte) (s : State) : Out :=
  .next (s.takeRequest port tag (ownReadInput cls number))

end Sys2Proof.Machine
end

