-- ==== Sys2Proof/Machine/Crc.lean ====
section
/-! DEFINITION. The two checksums: the frame CRC-16 (R160) and the image CRC-32 (R175). -/

namespace Sys2Proof.Machine

/-- One bit of the frame CRC: shift left, and take in the polynomial 0x1021 when the top bit leaves (R160). -/
def crc16Bit (c : BitVec 16) : BitVec 16 :=
  if c.msb then (c <<< 1) ^^^ 0x1021#16 else c <<< 1

/-- One byte into the frame CRC, most significant bit first (R160). -/
def crc16Byte (c : BitVec 16) (b : Byte) : BitVec 16 :=
  let c := c ^^^ (b.zeroExtend 16 <<< 8)
  crc16Bit (crc16Bit (crc16Bit (crc16Bit (crc16Bit (crc16Bit (crc16Bit (crc16Bit c)))))))

/-- The frame CRC of R160: polynomial 0x1021, initial value 0xFFFF, no reflection, no final inversion. -/
def crc16 (bytes : List Byte) : BitVec 16 := bytes.foldl crc16Byte 0xFFFF#16

/-- The two bytes of a CRC-16, high byte first (R160). -/
def crc16Tail (bytes : List Byte) : List Byte :=
  let c := crc16 bytes
  [(c >>> 8).truncate 8, c.truncate 8]

/-- One bit of the image CRC, held bit-reversed (R175: each byte is fed least significant bit first, and the result is
bit-reversed, so the register is kept reversed with the reversed polynomial 0xEDB88320). -/
def crc32Bit (c : BitVec 32) : BitVec 32 :=
  if c.getLsbD 0 then (c >>> 1) ^^^ 0xEDB88320#32 else c >>> 1

/-- One byte into the image CRC. -/
def crc32Byte (c : BitVec 32) (b : Byte) : BitVec 32 :=
  let c := c ^^^ b.zeroExtend 32
  crc32Bit (crc32Bit (crc32Bit (crc32Bit (crc32Bit (crc32Bit (crc32Bit (crc32Bit c)))))))

/-- The image CRC of R175: polynomial 0x04C11DB7, initial value and final XOR 0xFFFFFFFF. -/
def crc32 (bytes : List Byte) : BitVec 32 := (bytes.foldl crc32Byte 0xFFFFFFFF#32) ^^^ 0xFFFFFFFF#32

end Sys2Proof.Machine
end

