-- ==== Sys2Proof/Machine/Frames.lean ====
section
/-! DEFINITION. Request frames: what makes one faulted (R160), which command a received frame is (R161 steps 2 to 4, Table
9-3), and the frame of a request command. -/

namespace Sys2Proof.Machine

/-- R160: the most bytes of a payload. -/
def maxPayload : Nat := 48

/-- R160: the frame is faulted. -/
def faulted (bytes : List Byte) : Bool :=
  let n := (bytes.getD 2 0).toNat
  decide (bytes.length < 5) || decide (maxPayload < n) || decide (bytes.length ≠ n + 5) ||
    decide (bytes.drop (bytes.length - 2) ≠ crc16Tail (bytes.take (bytes.length - 2)))

/-- R160: the tag echo of a frame answered BAD_FRAME. -/
def tagEcho (bytes : List Byte) : Byte := bytes.getD 1 0

/-- Two bytes, high byte first (R173). -/
def half (a b : Byte) : Half := a ++ b

/-- Four bytes, high byte first (R173). -/
def word (a b c d : Byte) : Word := a ++ b ++ c ++ d

/-- The bytes of a payload of a fixed length (Table 9-3); none for a payload of another length. -/
def payload0 (i : Instr) : List Byte → Option Instr
  | [] => some i
  | _ => none

def payload1 (f : Byte → Instr) : List Byte → Option Instr
  | [a] => some (f a)
  | _ => none

def payload2 (f : Byte → Byte → Instr) : List Byte → Option Instr
  | [a, b] => some (f a b)
  | _ => none

def payload3 (f : Byte → Byte → Byte → Instr) : List Byte → Option Instr
  | [a, b, c] => some (f a b c)
  | _ => none

def payload4 (f : Byte → Byte → Byte → Byte → Instr) : List Byte → Option Instr
  | [a, b, c, d] => some (f a b c d)
  | _ => none

def payload5 (f : Byte → Byte → Byte → Byte → Byte → Instr) : List Byte → Option Instr
  | [a, b, c, d, e] => some (f a b c d e)
  | _ => none

/-- An offset and a page of 32 bytes. -/
def payloadPage (f : Byte → Byte → List Byte → Instr) : List Byte → Option Instr
  | a :: b :: data => if data.length = 32 then some (f a b data) else none
  | _ => none

/-- Table 9-3: the command of a request code with its payload; none where the payload has another length. -/
def requestOf (m : Master) (code tag : Byte) (payload : List Byte) : Option Instr :=
  match code.toNat with
  | 0x01 => payload0 (.status m tag) payload
  | 0x02 => payload0 (.portReset m tag) payload
  | 0x03 => payload0 (.readEvent m tag) payload
  | 0x10 => payload3 (fun c v1 v0 => .setPoint m tag c (half v1 v0)) payload
  | 0x11 => payload4 (fun c k v1 v0 => .force m tag c k (half v1 v0)) payload
  | 0x12 => payload1 (.unforce m tag) payload
  | 0x13 => payload1 (.readChannel m tag) payload
  | 0x18 => payload2 (.readInput m tag) payload
  | 0x20 => payload1 (.claim m tag) payload
  | 0x21 => payload1 (.releaseCh m tag) payload
  | 0x22 => payload2 (.offer m tag) payload
  | 0x23 => payload1 (.accept m tag) payload
  | 0x24 => payload1 (.lock m tag) payload
  | 0x25 => payload1 (.readMap m tag) payload
  | 0x30 => payload2 (.setNext m tag) payload
  | 0x31 => payload1 (.go m tag) payload
  | 0x32 => payload1 (.readUnit m tag) payload
  | 0x38 => payload1 (.releaseTrip m tag) payload
  | 0x39 => payload1 (.ack m tag) payload
  | 0x3A => payload1 (.readLog m tag) payload
  | 0x40 => payload5 (fun i v3 v2 v1 v0 => .setLab m tag i (word v3 v2 v1 v0)) payload
  | 0x41 => payload1 (.readScale m tag) payload
  | 0x48 => payload0 (.readMeter m tag) payload
  | 0x50 => payload2 (fun o1 o0 => .profileRead m tag (half o1 o0)) payload
  | 0x51 => payloadPage (fun o1 o0 data => .profileWrite m tag (half o1 o0) data) payload
  | 0x52 => payload0 (.profileCheck m tag) payload
  | _ => none

/-- The request codes of Table 9-3. -/
def requestCodes : List Nat :=
  [0x01, 0x02, 0x03, 0x10, 0x11, 0x12, 0x13, 0x18, 0x20, 0x21, 0x22, 0x23, 0x24, 0x25, 0x30, 0x31, 0x32, 0x38, 0x39,
   0x3A, 0x40, 0x41, 0x48, 0x50, 0x51, 0x52]

/-- R161 step 3: the code is one of Table 9-3. -/
def knownCode (code : Byte) : Bool := requestCodes.contains code.toNat

/-- R161: the command of a received frame. -/
def decodeFrame (m : Master) (bytes : List Byte) : Instr :=
  if faulted bytes then .badFrame m bytes
  else
    let code := bytes.getD 0 0
    if !knownCode code then .unknownRequest m (tagEcho bytes) code
    else (requestOf m code (tagEcho bytes) ((bytes.drop 3).take (bytes.length - 5))).getD (.badFrame m bytes)

/-- Table 9-3: code, tag and payload of a request command; none for the other commands. -/
def requestFields : Instr → Option (Byte × Byte × List Byte)
  | .status _ t => some (0x01, t, [])
  | .portReset _ t => some (0x02, t, [])
  | .readEvent _ t => some (0x03, t, [])
  | .setPoint _ t c v => some (0x10, t, c :: word2 v)
  | .force _ t c k v => some (0x11, t, c :: k :: word2 v)
  | .unforce _ t c => some (0x12, t, [c])
  | .readChannel _ t c => some (0x13, t, [c])
  | .readInput _ t k n => some (0x18, t, [k, n])
  | .claim _ t c => some (0x20, t, [c])
  | .releaseCh _ t c => some (0x21, t, [c])
  | .offer _ t c o => some (0x22, t, [c, o])
  | .accept _ t c => some (0x23, t, [c])
  | .lock _ t c => some (0x24, t, [c])
  | .readMap _ t c => some (0x25, t, [c])
  | .setNext _ t u st => some (0x30, t, [u, st])
  | .go _ t g => some (0x31, t, [g])
  | .readUnit _ t u => some (0x32, t, [u])
  | .releaseTrip _ t g => some (0x38, t, [g])
  | .ack _ t g => some (0x39, t, [g])
  | .readLog _ t g => some (0x3A, t, [g])
  | .setLab _ t i v => some (0x40, t, i :: word4 v)
  | .readScale _ t p => some (0x41, t, [p])
  | .readMeter _ t => some (0x48, t, [])
  | .profileRead _ t o => some (0x50, t, word2 o)
  | .profileWrite _ t o data => some (0x51, t, word2 o ++ data)
  | .profileCheck _ t => some (0x52, t, [])
  | .requestTransactionEnd .. | .fetch .. | .badFrame .. | .unknownRequest .. | .silenceTimerExpiry .. | .offerExpiry ..
  | .rampTick | .diSample .. | .scanStart | .conversionEnd .. | .pulseActiveEdge .. | .signalTimeout ..
  | .periodCounterOverflow .. | .highPhaseEnd .. | .periodBoundary .. | .oneshotDelayExpiry .. | .oneshotPulseExpiry ..
  | .drainTimerExpiry .. | .pageWriteEnd | .powerOnReset | .warmReset | .startUpBegin | .profileLoadComplete .. => none

/-- R160: the frame of a code, a tag and a payload. -/
def frameOf (code tag : Byte) (payload : List Byte) : List Byte :=
  let body := code :: tag :: BitVec.ofNat 8 payload.length :: payload
  body ++ crc16Tail body

/-- The frame of a request command. -/
def encodeFrame (i : Instr) : Option (List Byte) := (requestFields i).map (fun f => frameOf f.1 f.2.1 f.2.2)

/-- The port of a request command. -/
def requestPort : Instr → Option Master
  | .status m _ | .portReset m _ | .readEvent m _ | .setPoint m _ _ _ | .force m _ _ _ _ | .unforce m _ _
  | .readChannel m _ _ | .readInput m _ _ _ | .claim m _ _ | .releaseCh m _ _ | .offer m _ _ _ | .accept m _ _
  | .lock m _ _ | .readMap m _ _ | .setNext m _ _ _ | .go m _ _ | .readUnit m _ _ | .releaseTrip m _ _ | .ack m _ _
  | .readLog m _ _ | .setLab m _ _ _ | .readScale m _ _ | .readMeter m _ | .profileRead m _ _
  | .profileWrite m _ _ _ | .profileCheck m _ => some m
  | .requestTransactionEnd .. | .fetch .. | .badFrame .. | .unknownRequest .. | .silenceTimerExpiry .. | .offerExpiry ..
  | .rampTick | .diSample .. | .scanStart | .conversionEnd .. | .pulseActiveEdge .. | .signalTimeout ..
  | .periodCounterOverflow .. | .highPhaseEnd .. | .periodBoundary .. | .oneshotDelayExpiry .. | .oneshotPulseExpiry ..
  | .drainTimerExpiry .. | .pageWriteEnd | .powerOnReset | .warmReset | .startUpBegin | .profileLoadComplete .. => none

end Sys2Proof.Machine
end

