-- ==== Sys2Proof/Machine/MapRequests.lean ====
section
/-! DEFINITION. The authority map: writer changes and offers (R52 to R59, R64), silence (R60, R61, R170) and the offers'
expiry (R58). -/

namespace Sys2Proof.Machine

/-! ### Change of the writer (R52) -/

/-- R61: LINK_SILENT of a silent old writer is deactivated in the channel's group when it writes no channel of it. -/
def State.reviewLink (s : State) (c : ChanId) : Option Master → State
  | none => s
  | some w =>
    if (s.port w).silent && !s.writesAny w (groupChannels (chanGroup c)) then
      s.deactivate (chanGroup c) (.linkSilent w)
    else s

/-- R52 step 2: the FORCE and the LINK entry are removed, and the fold recomputed once when one was (log 21). -/
def State.dropWriterEntries (s : State) (c : ChanId) : State :=
  let stack := (s.chan c).stack
  if hasSource .force stack || hasSource .link stack then
    ((s.modChan c fun ch => { ch with stack := removeEntry .link (removeEntry .force ch.stack) }).refold c).testUnit
      (unitOf c)
  else s

/-- R47, R52: the writer of a channel changes. -/
def State.changeWriter (s : State) (c : ChanId) (new : Option Master) : State :=
  let old := (s.entry c).writer
  let s := s.modEntry c fun e => { e with
    writer := new
    readers := match new with
      | some m => e.readers.add m
      | none => e.readers }
  let s := s.dropWriterEntries c
  let s := s.modEntry c fun e => { e with offer := none }
  let s := s.reviewLink c old
  s.queue (fun m => [old, new].contains (some m) || (s.entry c).readers.has m) (.handoverDone c old new)

/-! ### Requests -/

/-- CLAIM (R53). -/
def ownClaim (m : Master) (channel : Byte) (s : State) : Answer :=
  s.index (channelField channel) fun c =>
  let e := s.entry c
  if e.writer = some m then s.answer .ok
  else match e.writer with
    | none => (s.changeWriter c (some m)).answer .ok
    | some w =>
      if e.locked then s.answer .locked
      else if (s.port w).silent = false then s.answer .heldByOther
      else if e.readers.has m = false then s.answer .heldByOther
      else (s.changeWriter c (some m)).answer .ok

def execClaim (port : Master) (tag channel : Byte) (s : State) : Out :=
  .next (s.takeRequest port tag (ownClaim port channel))

/-- RELEASE_CH (R55). -/
def ownReleaseCh (m : Master) (channel : Byte) (s : State) : Answer :=
  s.index (channelField channel) fun c =>
  s.needWriter (s.writes m c) <|
  if (s.entry c).locked then s.answer .locked else (s.changeWriter c none).answer .ok

def execReleaseCh (port : Master) (tag channel : Byte) (s : State) : Out :=
  .next (s.takeRequest port tag (ownReleaseCh port channel))

/-- R56: an offer to another master that finds one pending replaces it. -/
def State.replaceOffer (s : State) (c : ChanId) (offeree : Master) : State :=
  match (s.entry c).offer with
  | none => s
  | some o =>
    if o.offeree = offeree then s
    else s.queueParties [(s.entry c).writer, some o.offeree] (.handoverExpired c o.offeree .replaced)

/-- R56: the offer is set, and the writer and the offeree are told. -/
def State.setOffer (s : State) (c : ChanId) (offeree : Master) : State :=
  let s := s.replaceOffer c offeree
  let expiry := s.ms + BitVec.ofNat 32 (s.offerTimeout * 1000)
  (s.modEntry c fun e => { e with offer := some ⟨offeree, expiry⟩ }).queueParties
    [(s.entry c).writer, some offeree] (.handoverOffered c offeree s.offerTimeout)

/-- OFFER (R56). -/
def ownOffer (m : Master) (channel offeree : Byte) (s : State) : Answer :=
  s.index (channelField channel) fun c =>
  s.index (masterField offeree) fun o =>
  s.needWriter (s.writes m c) <|
  if (s.entry c).locked then s.answer .locked
  else if o = m then s.answer .badIndex
  else if (s.entry c).readers.has o = false then s.answer .notReader
  else (s.setOffer c o).answer .ok

def execOffer (port : Master) (tag channel offeree : Byte) (s : State) : Out :=
  .next (s.takeRequest port tag (ownOffer port channel offeree))

/-- ACCEPT (R57). -/
def ownAccept (m : Master) (channel : Byte) (s : State) : Answer :=
  s.index (channelField channel) fun c =>
  match (s.entry c).offer with
  | none => s.answer .notOffered
  | some o => if o.offeree = m then (s.changeWriter c (some m)).answer .ok else s.answer .notOffered

def execAccept (port : Master) (tag channel : Byte) (s : State) : Out :=
  .next (s.takeRequest port tag (ownAccept port channel))

/-- An offer is cleared, and HANDOVER_EXPIRED queued to the parties named (Table 3-5). -/
def State.endOffer (s : State) (c : ChanId) (parties : Option Master → Master → List (Option Master))
    (r : ExpiryReason) : State :=
  match (s.entry c).offer with
  | none => s
  | some o =>
    (s.modEntry c fun e => { e with offer := none }).queueParties
      (parties (s.entry c).writer o.offeree) (.handoverExpired c o.offeree r)

/-- LOCK (R59). -/
def ownLock (m : Master) (channel : Byte) (s : State) : Answer :=
  s.index (channelField channel) fun c =>
  s.needWriter (s.writes m c) <|
  if (s.entry c).locked then s.answer .ok
  else ((s.modEntry c fun e => { e with locked := true }).endOffer c (fun w o => [w, some o]) .locked).answer .ok

def execLock (port : Master) (tag channel : Byte) (s : State) : Out :=
  .next (s.takeRequest port tag (ownLock port channel))

/-- The fields of READ_MAP (R64, Table 9-7). -/
def State.mapBytes (s : State) (c : ChanId) : List Byte :=
  let e := s.entry c
  byte1 (writerCode e.writer) ++ byte1 e.readers.code ++ flag1 e.locked ++
  (match e.offer with
   | some o => byte1 (masterCode o.offeree) ++ word4 (o.expiry - s.ms)
   | none => byte1 0 ++ word4 (Config.openField s.draws .absentOfferExpiry)) ++
  (match e.writer with
   | some w => flag1 (s.port w).silent
   | none => none1)

/-- READ_MAP (R64). -/
def ownReadMap (m : Master) (channel : Byte) (s : State) : Answer :=
  s.index (channelField channel) fun c => s.needReader m c <| s.answer .ok (s.mapBytes c)

def execReadMap (port : Master) (tag channel : Byte) (s : State) : Out :=
  .next (s.takeRequest port tag (ownReadMap port channel))

/-! ### Timers -/

/-- OFFER_EXPIRY (R58). -/
def execOfferExpiry (channel : ChanId) (s : State) : Out :=
  .next (s.endOffer channel (fun w o => [w, some o]) .timeout)

/-- R60 step 1: the offers to a master that falls silent are cleared. -/
def State.dropOffersTo (s : State) (m : Master) : State :=
  s.each channels fun c s =>
    if (s.entry c).offer.any (fun o => decide (o.offeree = m)) then s.endOffer c (fun w _ => [w]) .silent else s

/-- R60, R61: the map and the stacks when the port of a master becomes SILENT. -/
def State.silenceMap (s : State) (m : Master) : State :=
  let s := s.dropOffersTo m
  let s := s.each (s.written m) fun c s => s.push c ⟨.link, .value, (s.chan c).params.fallback, s.ms⟩
  s.each (s.writtenGroups m) fun g s => s.arriveAlarm g (.linkSilent m)

/-- R170: the silence timer of an ACTIVE port expires. -/
def State.fallSilent (s : State) (m : Master) : State :=
  ((s.modPort m fun p => { p with silent := true, timer := none, silentSince := s.ms }).queueOthers m
    (.portSilent m (s.port m).timeout)).silenceMap m

/-- SILENCE_TIMER_EXPIRY (R170): it finds the timer running and the port ACTIVE, or does nothing (log 1). -/
def execSilenceTimerExpiry (port : Master) (s : State) : Out :=
  .next (if (s.port port).timer.isSome && !(s.port port).silent then s.fallSilent port else s)

end Sys2Proof.Machine
end

