-- ==== Sys2Proof/Machine/LinkPort.lean ====
section
/-! DEFINITION. The link ports: transactions and fetches (R159, R163, R164), the frames answered at the port (R160, R161),
STATUS, READ_EVENT and PORT_RESET (R167 to R169, R172). -/

namespace Sys2Proof.Machine

/-! ### Transactions (R159, R163) -/

/-- A response frame (R164): marker READY, tag, result, length, payload, CRC. -/
def Response.frame (r : Response) (partialFlag : Bool) : List Byte :=
  let body := (if partialFlag then 0xA4 else 0xA5) :: r.tag :: r.result.code :: BitVec.ofNat 8 r.payload.length ::
    r.payload
  body ++ crc16Tail body

/-- R163: the NO_REQUEST frame. -/
def noRequest : Response := ⟨0x00, .noRequest, []⟩

/-- What `n` clocked bytes show of a frame: bytes after its end read 0xFF (R163). -/
def shiftOut (frame : List Byte) (n : Nat) : List Byte := frame.take n ++ List.replicate (n - frame.length) 0xFF

/-- R163: a fetch of `n` whole bytes. -/
def Port.fetch (p : Port) (n : Nat) : Port :=
  match p.buffer with
  | .empty => { p with sdo := shiftOut (noRequest.frame false) n }
  | .pending => { p with sdo := List.replicate n 0xFF }
  | .ready r =>
    let frame := r.frame p.partialFlag
    if frame.length ≤ n then { p with sdo := shiftOut frame n, buffer := .empty, partialFlag := false }
    else { p with sdo := shiftOut frame n, partialFlag := true }

/-- R159, R163: a request transaction ends; the held response is discarded. -/
def Port.receive (p : Port) (bytes : List Byte) : Port :=
  { p with
    received := p.received ++ [bytes]
    buffer := .pending
    partialFlag := false
    sdo := List.replicate bytes.length 0xFF }

/-- R159: the first byte decides the kind of the transaction; one without a whole byte has no effect. -/
def Port.transact (p : Port) (bytes : List Byte) : Port :=
  match bytes with
  | [] => p
  | b :: _ => if b = 0 then p.fetch bytes.length else p.receive bytes

/-- REQUEST_TRANSACTION_END (R159, R163). -/
def execRequestTransactionEnd (port : Master) (bytes : List Byte) (s : State) : Out :=
  .next (s.modPort port fun p => p.transact bytes)

/-- FETCH (R159, R163): of no whole byte it has no effect. -/
def execFetch (port : Master) (clocked : Nat) (s : State) : Out :=
  .next (if clocked = 0 then s else s.modPort port fun p => p.fetch clocked)

/-! ### Frames answered at the port (R160, R161) -/

/-- R160, R161: what BAD_FRAME does: a frame faulted by R160 is not a valid frame; one of a wrong length for its code is
(step 4, log 29). DESIGN CHOICE (log 39): the tag of a STARTING answer to a transaction of fewer than two bytes, in which no
tag byte was received, is 0x00, the tag that R160 gives BAD_FRAME there. -/
def State.badFrame (s : State) (m : Master) (bytes : List Byte) : State :=
  if faulted bytes then
    let s := s.takeFrame m
    s.respond m (tagEcho bytes) (if s.run = .running then .badFrame else .starting) []
  else s.takeRequest m (tagEcho bytes) fun s => s.answer .badFrame

def execBadFrame (port : Master) (bytes : List Byte) (s : State) : Out := .next (s.badFrame port bytes)

/-- UNKNOWN_REQUEST (R161 step 3). -/
def execUnknownRequest (port : Master) (tag _code : Byte) (s : State) : Out :=
  .next (s.takeRequest port tag fun s => s.answer .unknownRequest)

/-! ### STATUS, READ_EVENT, PORT_RESET -/

/-- The fields of STATUS (R169, Table 9-7). DEDUCED (log 46): R184 speaks of a first failing item "reported by STATUS"; R169
and Table 9-7 give STATUS no such field, and are followed. -/
def State.statusBytes (s : State) (m : Master) : List Byte :=
  let p := s.port m
  byte1 (masterCode m) ++ word4 s.ms ++ byte1 p.queue.length ++ flag1 p.lost ++
  flags1 [(s.port .field).silent, (s.port .turbine).silent, (s.port .heat).silent] ++ byte1 p.timeout ++
  byte1 (s.group .field).level.code ++ byte1 (s.group .turbine).level.code ++ byte1 (s.group .heat).level.code ++
  flags1 [(s.group .field).logFull, (s.group .turbine).logFull, (s.group .heat).logFull] ++
  byte1 s.pfl.state.code ++ flag1 s.pfl.busy.isSome

/-- STATUS (R51, R169). -/
def ownStatus (m : Master) (s : State) : Answer :=
  (s.modPort m fun p => { p with lost := false }).answer .ok (s.statusBytes m)

def execStatus (port : Master) (tag : Byte) (s : State) : Out := .next (s.takeRequest port tag (ownStatus port))

/-- READ_EVENT (R51, R167). -/
def ownReadEvent (m : Master) (s : State) : Answer :=
  match (s.port m).queue with
  | [] => s.answer .queueEmpty
  | e :: rest => (s.modPort m fun p => { p with queue := rest }).answer .ok (e.bytes ++ byte1 rest.length)

def execReadEvent (port : Master) (tag : Byte) (s : State) : Out :=
  .next (s.takeRequest port tag (ownReadEvent port))

/-- R63: the offers to and from a master are withdrawn, and the other party is told. -/
def State.withdrawOffers (s : State) (m : Master) : State :=
  s.each channels fun c s =>
    if (s.entry c).writer = some m then s.endOffer c (fun _ o => [some o]) .portReset
    else if (s.entry c).offer.any (fun o => decide (o.offeree = m)) then s.endOffer c (fun w _ => [w]) .portReset
    else s

/-- R27: the FORCE entries of the channels a master writes are removed. -/
def State.dropForces (s : State) (m : Master) : State := s.each (s.written m) fun c s => s.remove c .force

/-- R172 steps 3 and 4. -/
def Port.restart (p : Port) : Port := { p with queue := [], lost := false, silent := false, timer := p.fullTimer }

/-- R172: the effect of PORT_RESET. -/
def State.portReset (s : State) (m : Master) : State :=
  ((s.withdrawOffers m).dropForces m).modPort m Port.restart

/-- PORT_RESET (R51, R172). -/
def ownPortReset (m : Master) (s : State) : Answer := (s.portReset m).answer .ok

def execPortReset (port : Master) (tag : Byte) (s : State) : Out :=
  .next (s.takeRequest port tag (ownPortReset port))

/-- ATTN# is driven low (R168). -/
def Port.attention (p : Port) : Bool := !p.queue.isEmpty

end Sys2Proof.Machine
end

