-- ==== Sys2Proof/Machine/Outputs.lean ====
section
/-! DEFINITION. The channel requests (R22 to R25, R110 to R112, R121) and the channel arrivals: the ramp tick, the phase
ends and the one-shot expiries (R2, R6, R8, R9, R11, R13). -/

namespace Sys2Proof.Machine

/-! ### Bases (R22, R110, R111) -/

/-- R22: a value over 1000 is taken as 1000. -/
def clampValue (v : Half) : Nat := min 1000 v.toNat

/-- R22, R23: CLAMPED in place of OK. -/
def clampResult (v : Half) : Result := if 1000 < v.toNat then .clamped else .ok

/-- R22, R21: a base is stored and the fold recomputed. -/
def State.setBase (s : State) (c : ChanId) (v : Nat) : State := (s.modChan c fun ch => { ch with base := v }).refold c

/-- R111: GV1. -/
def TsmParams.gv1 (p : TsmParams) (d : Nat) : Nat := min 1000 (d * 1000 / p.s)

/-- R111: GV2. -/
def TsmParams.gv2 (p : TsmParams) (d : Nat) : Nat :=
  let x := p.s - p.v
  if d ≤ x then 0 else min 1000 ((d - x) * 1000 / (1000 - x))

/-- R110: the demand sets both bases as part of one request. -/
def State.setDemand (s : State) (d : Nat) : State :=
  let p := s.tsm.params
  ((s.modTsm fun t => { t with demand := d }).setBase 8 (p.gv1 d)).setBase 9 (p.gv2 d)

/-- R22, R110: the effect of an accepted set point; the fold recomputed may end a phase (R73, R75). -/
def State.storePoint (s : State) (c : ChanId) (v : Nat) : State :=
  (if c = 8 ∧ s.tsm.params.sequenced then s.setDemand v else s.setBase c v).testUnit (unitOf c)

/-! ### Requests -/

/-- SET_POINT (R22, R49, R110, R112). -/
def ownSetPoint (m : Master) (channel : Byte) (value : Half) (s : State) : Answer :=
  s.index (channelField channel) fun c =>
  s.needWriter (s.writes m c) <|
  if c = 9 ∧ s.tsm.params.sequenced then s.answer .slaved
  else if (s.unit (unitOf c)).isIsolated then s.answer .unitIsolated
  else (s.storePoint c (clampValue value)).answer (clampResult value)

def execSetPoint (port : Master) (tag channel : Byte) (value : Half) (s : State) : Out :=
  .next (s.takeRequest port tag (ownSetPoint port channel value))

/-- FORCE (R23, R49). -/
def ownForce (m : Master) (channel kind : Byte) (value : Half) (s : State) : Answer :=
  s.index (channelField channel) fun c =>
  s.index (kindField kind) fun k =>
  s.needWriter (s.writes m c) <|
  (s.push c ⟨.force, k, clampValue value, s.ms⟩).answer (clampResult value)

def execForce (port : Master) (tag channel kind : Byte) (value : Half) (s : State) : Out :=
  .next (s.takeRequest port tag (ownForce port channel kind value))

/-- UNFORCE (R24, R49). -/
def ownUnforce (m : Master) (channel : Byte) (s : State) : Answer :=
  s.index (channelField channel) fun c =>
  s.needWriter (s.writes m c) <| (s.remove c .force).answer .ok

def execUnforce (port : Master) (tag channel : Byte) (s : State) : Out :=
  .next (s.takeRequest port tag (ownUnforce port channel))

/-- The high and low counts of a pair field (Table 9-7): high 0 reads as static low, low 0 as static high. The other
count of a static pair is (0, Pw) or (Pw, 0) in WAVEFORM mode (R5), and has no stated coding elsewhere (log 31). -/
def pairBytes (p : ChanParams) (high low : BitVec 32) : Pair → List Byte
  | .counts h l => byte2 h ++ byte2 l
  | .staticLow => byte2 0 ++ byte2 (if p.mode = .waveform then p.pw else low.toNat)
  | .staticHigh => byte2 (if p.mode = .waveform then p.pw else high.toNat) ++ byte2 0

/-- The channel fields of READ_CHANNEL (R25, Table 9-7). -/
def State.channelBytes (s : State) (c : ChanId) : List Byte :=
  let ch := s.chan c
  let cur := Config.openField s.draws .staticCurrent
  let pend := Config.openField s.draws .staticPending
  byte1 ch.params.mode.code ++ byte2 ch.base ++ byte1 ch.stack.length ++ ch.stack.flatMap Entry.bytes ++
  byte2 ch.target ++ byte2 ch.applied ++ flags1 [ch.rampDone, ch.pendingPair.isSome, ch.lowLimit] ++
  pairBytes ch.params cur cur ch.pair ++
  (match ch.pendingPair with
   | some p => pairBytes ch.params pend pend p
   | none => byte2 (Config.openField s.draws .absentPendingHigh).toNat ++
       byte2 (Config.openField s.draws .absentPendingLow).toNat) ++
  byte1 ch.oneShot.code

/-- The turbine supplement of READ_CHANNEL on OC8 (R121, Table 9-7). -/
def State.turbineBytes (s : State) : List Byte :=
  let t := s.tsm
  flag1 t.params.sequenced ++ byte2 t.params.s ++ byte2 t.params.v ++ byte2 t.demand ++ byte2 t.params.threshold ++
  byte4 t.params.tripPeriod ++ byte4 t.speed ++ byte1 t.quality.code ++ flag1 t.overspeed ++ byte1 t.run ++
  flag1 t.speedLost

/-- READ_CHANNEL (R25, R49, R121). -/
def ownReadChannel (m : Master) (channel : Byte) (s : State) : Answer :=
  s.index (channelField channel) fun c =>
  s.needReader m c <| s.answer .ok (s.channelBytes c ++ if c = 8 then s.turbineBytes else [])

def execReadChannel (port : Master) (tag channel : Byte) (s : State) : Out :=
  .next (s.takeRequest port tag (ownReadChannel port channel))

/-! ### Ramp tick (R11, R13) -/

/-- R11: one ramp tick on a channel; RAMP_DONE when the tick brings the applied value onto the target (R13). -/
def State.rampChannel (s : State) (c : ChanId) : State :=
  let ch := s.chan c
  let u := s.unit (unitOf c)
  let v := ch.rampValue (decide ¬(u.phase = .none ∧ u.state = .paused))
  if ch.params.mode = .oneshot ∨ u.atRest = true ∨ v = ch.applied then s
  else
    let s := s.modChan c fun ch => ch.setApplied v
    if v = ch.target then s.queueReaders c (.rampDone c v) else s

/-- R11: every channel moves, and then the ends of the phases are tested (R73, R75; log 20). -/
def execRampTick (s : State) : Out :=
  .next ((s.each channels fun c s => s.rampChannel c).each allUnits fun u s => s.testUnit u)

/-! ### Phases and one-shots -/

/-- R2: the high phase ends and the low phase begins. -/
def Channel.endHigh (ch : Channel) : Channel :=
  if ch.wave = .high then { ch with wave := .low, count := 0, sub := 0 } else ch

/-- R2, R6: the period boundary commits the pending pair, or starts the current pair again. -/
def Channel.boundary (ch : Channel) : Channel :=
  if ch.wave = .low then ch.startPair (ch.pendingPair.getD ch.pair) else ch

/-- R8: the delay expires. -/
def Channel.endDelay (ch : Channel) : Channel := if ch.oneShot = .delay then ch.startPulse else ch

/-- R9: the pulse expires. -/
def Channel.endPulse (ch : Channel) : Channel :=
  if ch.oneShot = .pulse then { ch with oneShot := .done, timer := none } else ch

def execHighPhaseEnd (channel : ChanId) (s : State) : Out := .next (s.modChan channel Channel.endHigh)
def execPeriodBoundary (channel : ChanId) (s : State) : Out := .next (s.modChan channel Channel.boundary)
def execOneshotDelayExpiry (channel : ChanId) (s : State) : Out := .next (s.modChan channel Channel.endDelay)
def execOneshotPulseExpiry (channel : ChanId) (s : State) : Out := .next (s.modChan channel Channel.endPulse)

end Sys2Proof.Machine
end

