-- ==== Sys2Proof/Machine/Profile.lean ====
section
/-! DEFINITION. The profile image: its fields (R175, Table 10-6), its validation (R176, Table 10-3) and the parameters a
GOOD image gives (R177). -/

namespace Sys2Proof.Machine

/-! ### Numbers of the image (R175) -/

def Memory.u8 (m : Memory) (a : Nat) : Nat := (m.read a).toNat
def Memory.u16 (m : Memory) (a : Nat) : Nat := 256 * m.u8 a + m.u8 (a + 1)
def Memory.u24 (m : Memory) (a : Nat) : Nat := 256 * m.u16 a + m.u8 (a + 2)
def Memory.u32 (m : Memory) (a : Nat) : Nat := 65536 * m.u16 a + m.u16 (a + 2)

/-- Two's complement of `2 * half` values. -/
def signedOf (half n : Nat) : Int := if n < half then n else (n : Int) - 2 * half

def Memory.s16 (m : Memory) (a : Nat) : Int := signedOf (2 ^ 15) (m.u16 a)
def Memory.s24 (m : Memory) (a : Nat) : Int := signedOf (2 ^ 23) (m.u24 a)
def Memory.s32 (m : Memory) (a : Nat) : Int := signedOf (2 ^ 31) (m.u32 a)

/-- Whether a number lies in a range. -/
def inRange (lo hi n : Nat) : Bool := decide (lo ≤ n) && decide (n ≤ hi)

/-- Whether a signed number lies in a range. -/
def inRangeS (lo hi n : Int) : Bool := decide (lo ≤ n) && decide (n ≤ hi)

/-! ### Codes -/

def modeAt (n : Nat) : ChanMode := if n = 0 then .frequency else if n = 1 then .waveform else .oneshot

def writerAt (n : Nat) : Option Master :=
  if n = 1 then some .field else if n = 2 then some .turbine else if n = 3 then some .heat else none

def readersAt (n : Nat) : Readers := ⟨n.testBit 0, n.testBit 1, n.testBit 2⟩

def groupOfCode (n : Nat) : Group := if n = 0 then .field else if n = 1 then .turbine else .heat

def directionAt (n : Nat) : Direction := if n = 1 then .high else if n = 2 then .low else .off

def classAt (n : Nat) : CauseClass := if n = 1 then .trip else .alarm

def kindAt (n : Nat) : Kind := if n = 0 then .value else if n = 1 then .ceiling else .floor

/-- A cause of a number and an argument (R173): its argument in the range of R93. -/
def causeAt (number arg : Nat) : Option Cause :=
  match number with
  | 1 => if arg = 0 then some .reset else none
  | 2 => if arg = 0 then some .profileBad else none
  | 3 => if arg = 0 then some .estop else none
  | 4 => if h : arg < 8 then some (.vfdFault ⟨arg, h⟩) else none
  | 5 => if arg = 0 then some .extOverspeed else none
  | 6 => if arg = 0 then some .sepLevelHH else none
  | 7 => if arg = 0 then some .hxLeak else none
  | 8 => if arg = 0 then some .overspeed else none
  | 9 => if arg = 0 then some .speedLost else none
  | 10 =>
    if h : arg < 32 then
      some (.limit ⟨arg / 2, by omega⟩ (if arg % 2 = 0 then 0 else 1))
    else none
  | 11 => if h : arg < 16 then some (.sensorBad ⟨arg, h⟩) else none
  | 12 => if h : arg < 8 then some (.calcite ⟨arg, h⟩) else none
  | 13 => if arg = 0 then some .silicaMargin else none
  | 14 => if arg = 0 then some .silicaTrip else none
  | 15 => if arg = 0 then some .hxFouling else none
  | 16 => if h : arg < 16 then some (.guardLost ⟨arg, h⟩) else none
  | 17 => if h : arg < 12 then some (.drainTimeout ⟨arg, h⟩) else none
  | 18 => if arg = 1 then some (.linkSilent .field) else if arg = 2 then some (.linkSilent .turbine)
          else if arg = 3 then some (.linkSilent .heat) else none
  | 19 => if arg = 0 then some .tgTripped else none
  | 20 => if arg = 0 then some .hxTripped else none
  | 21 => if arg = 0 then some .fieldTripped else none
  | _ => none

/-! ### Section fields (Table 10-6) -/

def chanBase (c : Nat) : Nat := 8 + 20 * c

def Memory.chanParams (m : Memory) (c : ChanId) : ChanParams :=
  let a := chanBase c.val
  { mode := modeAt (m.u8 a), safe := m.u16 (a + 1), fallback := m.u16 (a + 3), slew := m.u16 (a + 5),
    presc := m.u8 (a + 7), ffs := m.u16 (a + 8), pw := m.u16 (a + 10), delay := m.u16 (a + 12),
    pulse := m.u16 (a + 14) }

def Memory.writer (m : Memory) (c : ChanId) : Option Master := writerAt (m.u8 (chanBase c.val + 16))

/-- R65: a writer outside its reader set is added. -/
def Memory.readers (m : Memory) (c : ChanId) : Readers :=
  let r := readersAt (m.u8 (chanBase c.val + 17))
  match m.writer c with
  | none => r
  | some .field => { r with field := true }
  | some .turbine => { r with turbine := true }
  | some .heat => { r with heat := true }

def Memory.checkParams (m : Memory) (a : Nat) : CheckParams :=
  { dir := directionAt (m.u8 a), threshold := m.s32 (a + 1), hysteresis := m.u16 (a + 5),
    group := groupOfCode (m.u8 (a + 7)), cls := classAt (m.u8 (a + 8)) }

def aiBase (n : Nat) : Nat := 328 + 28 * n

def Memory.analogParams (m : Memory) (n : Fin 16) : AnalogParams :=
  let a := aiBase n.val
  { lo := m.s32 a, hi := m.s32 (a + 4), shift := m.u8 (a + 8), badGroup := groupOfCode (m.u8 (a + 9)),
    check0 := m.checkParams (a + 10), check1 := m.checkParams (a + 19) }

def piBase (j : Nat) : Nat := 776 + 9 * j

def Memory.pulseParams (m : Memory) (j : PulseId) : PulseParams :=
  let a := piBase j.val
  { presc := m.u8 a, falling := decide (m.u8 (a + 1) = 1), k := m.u32 (a + 2), shift := m.u8 (a + 6),
    timeout := m.u16 (a + 7) }

/-- Scan list entries as numbers. -/
def Memory.scanNumbers (m : Memory) : List Nat := (List.range (m.u8 896)).map (fun i => m.u8 (897 + i))

def Memory.scanList (m : Memory) : List (Fin 16) := m.scanNumbers.map (fun n => Fin.ofNat 16 n)

def unitBase (u : Nat) : Nat := 968 + 8 * u

def Memory.unitParams (m : Memory) (u : UnitId) : UnitParams :=
  let a := unitBase u.val
  { idleFlow := m.u16 a, drainSpeed := m.u16 (a + 2), drainTimeout := m.u16 (a + 4),
    tripState := if m.u8 (a + 6) = 0 then .isolated else .standby }

def groupBase (g : Nat) : Nat := 1064 + 37 * g

/-- The trip list entries of a group: channel number and value. -/
def Memory.tripEntries (m : Memory) (g : Nat) : List (Nat × Nat) :=
  (List.range (m.u8 (groupBase g))).map
    (fun e => (m.u8 (groupBase g + 1 + 3 * e), m.u16 (groupBase g + 2 + 3 * e)))

def Memory.tripList (m : Memory) (g : Nat) : List TripItem :=
  (m.tripEntries g).map (fun x => ⟨Fin.ofNat 16 x.1, x.2⟩)

def actionBase (r : Nat) : Nat := 1193 + 19 * r

/-- The actions of a record: channel number, kind code and value. -/
def Memory.actionEntries (m : Memory) (r : Nat) : List (Nat × Nat × Nat) :=
  (List.range (m.u8 (actionBase r + 2))).map (fun a =>
    let x := actionBase r + 3 + 4 * a
    (m.u8 x, m.u8 (x + 1), m.u16 (x + 2)))

def Memory.causeOf (m : Memory) (r : Nat) : Option Cause := causeAt (m.u8 (actionBase r)) (m.u8 (actionBase r + 1))

def Memory.actionRecord (m : Memory) (r : Nat) : Option ActionRec :=
  (m.causeOf r).map (fun c =>
    ⟨c, (m.actionEntries r).map (fun x => ⟨Fin.ofNat 16 x.1, kindAt x.2.1, x.2.2⟩)⟩)

def Memory.actionRecords (m : Memory) : List ActionRec := (List.range (m.u8 1192)).filterMap m.actionRecord

def Memory.tsmParams (m : Memory) : TsmParams :=
  { sequenced := decide (m.u8 1512 = 1), s := m.u16 1513, v := m.u16 1515, threshold := m.u16 1517,
    tripPeriod := tripPeriodOf (m.pulseParams piSpeed).k (m.u16 1517) }

def Memory.silicaPoints (m : Memory) : List SilicaPoint :=
  (List.range 8).map (fun j => ⟨m.u16 (1539 + 5 * j), m.s24 (1539 + 5 * j + 2)⟩)

def Memory.silGuard (m : Memory) : GuardParams :=
  { clamp := m.s16 1605, release := m.s16 1607, step := m.u8 1609, floor := m.u16 1610 }

def Memory.calGuard (m : Memory) (i : Fin 8) : GuardParams :=
  let a := 1612 + 9 * i.val
  { clamp := m.s24 a, release := m.s24 (a + 3), step := m.u8 (a + 6), floor := m.u16 (a + 7) }

def Memory.swuParams (m : Memory) : SwuParams :=
  { interval := m.u8 1520, cpB := m.u16 1521, uaClean := m.u32 1525, cleanAlarm := m.u16 1529, mAlarm := m.s16 1531,
    nSt := m.u8 1533, calAlarm := m.s24 1534, calHyst := m.u16 1537, table := m.silicaPoints, silGuard := m.silGuard,
    calGuards := vec8 m.calGuard }

/-- R177: the parameters of a GOOD image. -/
def Memory.profile (m : Memory) : Profile where
  chans := vec16 m.chanParams
  writers := vec16 m.writer
  readers := vec16 m.readers
  ais := vec16 m.analogParams
  pis := vec12 m.pulseParams
  activeLow := vec12 (fun d => decide (m.u8 (884 + d.val) = 1))
  scanList := m.scanList
  scanPeriod := m.u16 921
  units := vec12 m.unitParams
  tripLists := vec3 (fun g => m.tripList g.val)
  silence := vec3 (fun k => m.u16 (1175 + 2 * k.val))
  offerTimeout := m.u8 1181
  actions := m.actionRecords
  tsm := m.tsmParams
  swu := m.swuParams
  cSil := m.u16 1579
  pBub := vec8 (fun i => m.u24 (1581 + 3 * i.val))
  cpW := m.u16 1523

/-! ### Validation (R176, Table 10-3) -/

/-- Item 4: the stored CRC is the computed one (R175). -/
def Memory.crcGood (m : Memory) : Bool := decide (m.u32 1712 = (crc32 (m.readBytes 0 1712)).toNat)

/-- Item 5 for one channel (Table 1-2, R65). -/
def Memory.chanGood (m : Memory) (c : ChanId) : Bool :=
  let a := chanBase c.val
  let p := m.chanParams c
  decide (m.u8 a ≤ 2) && decide (p.safe ≤ 1000) && decide (p.fallback ≤ 1000) && inRange 1 1000 p.slew &&
  decide (p.presc ≤ 7) && inRange 100 20000 p.ffs && inRange 100 65535 p.pw && decide (p.delay ≤ 10000) &&
  inRange 1 10000 p.pulse && decide (m.u8 (a + 16) ≤ 3) && decide (m.u8 (a + 17) ≤ 7)

/-- Item 6 (R119). -/
def Memory.coilGood (m : Memory) : Bool :=
  let p := m.chanParams 15
  decide (p.mode = .oneshot) && decide (p.safe = 0) && decide (p.fallback = 0)

/-- A limit check of item 7 (Table 2-2). -/
def Memory.checkGood (m : Memory) (a : Nat) : Bool :=
  decide (m.u8 a ≤ 2) && inRangeS (-200000) 200000 (m.s32 (a + 1)) && decide (m.u8 (a + 7) ≤ 2) &&
  decide (m.u8 (a + 8) ≤ 1)

/-- One analog input of item 7 (Table 2-2). -/
def Memory.analogGood (m : Memory) (n : Fin 16) : Bool :=
  let a := aiBase n.val
  let p := m.analogParams n
  decide (-200000 ≤ p.lo) && decide (p.lo < p.hi) && decide (p.hi ≤ 200000) && decide (p.shift ≤ 7) &&
  decide (m.u8 (a + 9) ≤ 2) && m.checkGood (a + 10) && m.checkGood (a + 19)

/-- Item 7 (Table 2-2). -/
def Memory.analogsGood (m : Memory) : Bool :=
  analogs.all m.analogGood && inRange 1 24 (m.u8 896) && m.scanNumbers.all (fun n => decide (n ≤ 15)) &&
  inRange 10 1000 (m.u16 921) && decide (m.u16 921 % 10 = 0)

/-- One pulse input of item 8 (Table 2-5). -/
def Memory.pulseGood (m : Memory) (j : PulseId) : Bool :=
  let p := m.pulseParams j
  decide (p.presc ≤ 7) && decide (m.u8 (piBase j.val + 1) ≤ 1) && decide (1 ≤ p.k) && decide (p.shift ≤ 7) &&
  inRange 10 5000 p.timeout

/-- Item 8 (Table 2-5). -/
def Memory.pulsesGood (m : Memory) : Bool :=
  pulses.all m.pulseGood && pulses.all (fun d => decide (m.u8 (884 + d.val) ≤ 1))

/-- Item 9 for one unit (Table 4-2): idle flow where the unit has one, drain speed where it has one (R66). -/
def Memory.unitGood (m : Memory) (u : UnitId) : Bool :=
  let p := m.unitParams u
  (if u.val < 8 ∨ u = unitRI then decide (p.idleFlow ≤ 60000) else true) &&
  (if u = unitTG then decide (p.drainSpeed ≤ 60000) else true) &&
  inRange 1 600 p.drainTimeout && decide (m.u8 (unitBase u.val + 6) ≤ 1)

/-- Whether no number of a list occurs twice. -/
def distinct : List Nat → Bool
  | [] => true
  | x :: rest => !rest.contains x && distinct rest

/-- Item 10 for one group (R96). -/
def Memory.tripListGood (m : Memory) (g : Group) : Bool :=
  let n := (groupIdx g).val
  let l := m.tripEntries n
  inRange 1 12 (m.u8 (groupBase n)) &&
  l.all (fun x => ((groupChannels g).map (·.val)).contains x.1 && decide (x.2 ≤ 1000)) &&
  distinct (l.map Prod.fst) && (decide (g ≠ .turbine) || l.contains (15, 1000))

/-- Item 11 (R170, R56). -/
def Memory.timeoutsGood (m : Memory) : Bool :=
  decide (m.u16 1175 ≤ 255) && decide (m.u16 1177 ≤ 255) && decide (m.u16 1179 ≤ 255) && inRange 1 60 (m.u8 1181)

/-- R93: a cause that is momentary, or of TRIP class by Table 5-3 or by its check. -/
def Memory.causeBarred (m : Memory) : Cause → Bool
  | .reset | .profileBad | .estop | .extOverspeed | .sepLevelHH | .hxLeak | .overspeed | .silicaTrip
  | .fieldTripped | .guardLost _ | .drainTimeout _ => true
  | .limit n k =>
    let p := m.analogParams n
    decide ((if k = 0 then p.check0 else p.check1).cls = .trip)
  | .vfdFault _ | .speedLost | .sensorBad _ | .calcite _ | .silicaMargin | .hxFouling | .linkSilent _ | .tgTripped
  | .hxTripped => false

/-- R93, Table 5-3: the groups a cause can arrive in. -/
def Memory.causeGroups (m : Memory) : Cause → List Group
  | .reset | .profileBad | .estop | .linkSilent _ => allGroups
  | .vfdFault _ | .calcite _ | .tgTripped | .hxTripped => [.field]
  | .extOverspeed | .sepLevelHH | .overspeed | .speedLost => [.turbine]
  | .hxLeak | .silicaMargin | .silicaTrip | .hxFouling => [.heat]
  | .limit n k => [(if k = 0 then (m.analogParams n).check0 else (m.analogParams n).check1).group]
  | .sensorBad n => [(m.analogParams n).badGroup]
  | .guardLost c => [chanGroup c]
  | .drainTimeout u => [unitGroup u]
  | .fieldTripped => [.turbine, .heat]

/-- R93: one action of a record of a cause. -/
def Memory.actionGood (m : Memory) (c : Cause) (x : Nat × Nat × Nat) : Bool :=
  decide (x.1 ≤ 15) && decide (x.2.1 ≤ 2) && decide (x.2.2 ≤ 1000) &&
  (m.causeGroups c).any (fun g => ((groupChannels g).map (·.val)).contains x.1)

/-- Item 12 for one record (R93). -/
def Memory.recordGood (m : Memory) (r : Nat) : Bool :=
  match m.causeOf r with
  | none => false
  | some c =>
    let l := m.actionEntries r
    inRange 1 4 (m.u8 (actionBase r + 2)) && !m.causeBarred c && l.all (m.actionGood c) && distinct (l.map Prod.fst)

/-- Item 12 (R93). -/
def Memory.recordsGood (m : Memory) : Bool :=
  decide (m.u8 1192 ≤ 16) && (List.range (m.u8 1192)).all m.recordGood &&
  distinct ((List.range (m.u8 1192)).map (fun r => m.u16 (actionBase r)))

/-- Item 13 (R109). -/
def Memory.turbineGood (m : Memory) : Bool :=
  let p := m.tsmParams
  decide (m.u8 1512 ≤ 1) && inRange 100 900 p.s && decide (p.v ≤ p.s / 2) && inRange 1000 60000 p.threshold &&
  inRange 2 16777215 p.tripPeriod

/-- R123: the C values are strictly ascending. -/
def ascending : List SilicaPoint → Bool
  | p :: q :: rest => decide (p.c < q.c) && ascending (q :: rest)
  | _ => true

/-- Table 7-2: a guard's parameters, with the range of its margin. -/
def GuardParams.good (p : GuardParams) (range : Int) : Bool :=
  decide (-range ≤ p.clamp) && decide (p.clamp < p.release) && decide (p.release ≤ range) && inRange 1 100 p.step &&
  decide (p.floor ≤ 999)

/-- Item 14 (Table 7-2). -/
def Memory.scalingGood (m : Memory) : Bool :=
  let p := m.swuParams
  inRange 1 100 p.interval && inRange 3500 4400 p.cpB && inRange 1 100000000 p.uaClean &&
  decide (p.cleanAlarm ≤ 1500) && inRangeS (-20000) 20000 p.mAlarm && inRange 1 60 p.nSt &&
  inRangeS (-200000) 200000 p.calAlarm && p.table.all (fun x => decide (x.c ≤ 2000) && inRangeS (-5000) 35000 x.t) &&
  ascending p.table && p.silGuard.good 20000 && wells.all (fun i => (m.calGuard i).good 200000) &&
  decide (m.u16 1579 ≤ 2000) && wells.all (fun i => decide (m.u24 (1581 + 3 * i.val) ≤ 200000))

/-- The items of Table 10-3 in order, each with whether it passes; a later one is looked at only after those before it. -/
def Memory.item (m : Memory) (n : Nat) : Bool :=
  match n with
  | 1 => decide (m.u32 0 = 0x434A5046)
  | 2 => decide (m.u16 4 = 1)
  | 3 => decide (m.u16 6 = 1716)
  | 4 => m.crcGood
  | 5 => channels.all m.chanGood
  | 6 => m.coilGood
  | 7 => m.analogsGood
  | 8 => m.pulsesGood
  | 9 => allUnits.all m.unitGood
  | 10 => allGroups.all m.tripListGood
  | 11 => m.timeoutsGood
  | 12 => m.recordsGood
  | 13 => m.turbineGood
  | 14 => m.scalingGood
  | _ => inRange 3500 4400 (m.u16 1523)

/-- The first item that fails of those from `n` on, `fuel` of them; 0 when none does. -/
def Memory.failingFrom (m : Memory) : Nat → Nat → Nat
  | 0, _ => 0
  | fuel + 1, n => if m.item n then m.failingFrom fuel (n + 1) else n

/-- R176: the first failing item of an image, 0 when it is GOOD. -/
def Memory.validate (m : Memory) : Nat := m.failingFrom 15 1

/-- R176: the profile state of a first failing item. -/
def stateOfItem (n : Nat) : ProfileState := if n = 0 then .good else .bad

end Sys2Proof.Machine
end

