-- ==== Sys2Proof/Machine/ProfileRequests.lean ====
section
/-! DEFINITION. The profile loader: PROFILE_READ, PROFILE_WRITE, PROFILE_CHECK and the end of a page write (R182 to
R184). -/

namespace Sys2Proof.Machine

/-- Each profile request is answered BUSY during a page write (10.4). -/
def State.whenIdle (s : State) (k : Answer) : Answer := if s.pfl.busy.isSome then s.answer .busy else k

/-- PROFILE_READ (R51, R182). -/
def ownProfileRead (offset : Half) (s : State) : Answer :=
  s.index (offsetField offset) fun a => s.whenIdle <| s.answer .ok (s.pfl.mirror.readBytes a pageSize)

def execProfileRead (port : Master) (tag : Byte) (offset : Half) (s : State) : Out :=
  .next (s.takeRequest port tag (ownProfileRead offset))

/-- The length of a page write in milliseconds (R183). -/
def pageWriteTime : Nat := 5

/-- All three groups are at level TRIP. -/
def State.allTripped (s : State) : Bool := allGroups.all (fun g => decide ((s.group g).level = .trip))

/-- R183: a page write starts. -/
def State.startWrite (s : State) (a : Nat) (data : List Byte) : State :=
  s.modPfl fun p => { p with busy := some pageWriteTime, write := some ⟨a, data⟩ }

/-- PROFILE_WRITE (R51, R183). -/
def ownProfileWrite (offset : Half) (data : List Byte) (s : State) : Answer :=
  s.index (offsetField offset) fun a =>
  s.whenIdle <| if s.allTripped then (s.startWrite a data).answer .ok else s.answer .notAllTripped

def execProfileWrite (port : Master) (tag : Byte) (offset : Half) (data : List Byte) (s : State) : Out :=
  .next (s.takeRequest port tag (ownProfileWrite offset data))

/-- PROFILE_CHECK (R51, R184). -/
def ownProfileCheck (s : State) : Answer :=
  s.whenIdle <|
  let item := s.pfl.mirror.validate
  s.answer .ok (byte1 (stateOfItem item).code ++ byte1 item)

def execProfileCheck (port : Master) (tag : Byte) (s : State) : Out :=
  .next (s.takeRequest port tag ownProfileCheck)

/-- The EEPROM's write cycle ends: the EEPROM holds the page (R183). -/
def Pfl.commit (p : Pfl) : Pfl :=
  match p.write with
  | none => p
  | some w => { p with eeprom := p.eeprom.writeBytes w.offset w.data, write := none }

/-- R183: the page joins the mirror, and page-write busy returns to IDLE. -/
def Pfl.endWrite (p : Pfl) : Pfl :=
  { p.commit with
    busy := none
    mirror := match p.write with
      | none => p.mirror
      | some w => p.mirror.writeBytes w.offset w.data }

/-- PAGE_WRITE_END (R183): it finds page-write busy, or does nothing (log 1). -/
def execPageWriteEnd (s : State) : Out := .next (if s.pfl.busy.isSome then s.modPfl Pfl.endWrite else s)

end Sys2Proof.Machine
end

