-- ==== Sys2Proof/Machine/Protection.lean ====
section
/-! DEFINITION. The group requests of the protection controller: RELEASE_TRIP, ACK and READ_LOG (R100 to R103, R106). -/

namespace Sys2Proof.Machine

/-- RELEASE_TRIP (R50, R100, R101). -/
def ownReleaseTrip (m : Master) (group : Byte) (s : State) : Answer :=
  s.index (groupField group) fun g =>
  s.needWriter (s.writesAny m (groupChannels g)) <|
  if (s.group g).level ≠ .trip then s.answer .ok
  else if (s.group g).tripActive then s.answer .causeActive
  else (s.release g).answer .ok

def execReleaseTrip (port : Master) (tag group : Byte) (s : State) : Out :=
  .next (s.takeRequest port tag (ownReleaseTrip port group))

/-! ### ACK (R102, R103) -/

/-- R102 steps 1 to 3: active records are acknowledged, inactive ones removed, LOG_FULL cleared. -/
def GroupRec.acknowledge (g : GroupRec) : GroupRec :=
  { g with
    log := (g.log.filter (·.active)).map (fun r => { r with acknowledged := true })
    logFull := false }

/-- R103: the first code of the set is given a record, and CAUSE_NEW queued for it. -/
def State.giveRecord (s : State) (g : Group) (x : Unrecorded) : State :=
  (s.modGroup g fun r => { r with
    log := r.log ++ [⟨x.cause, x.cls, false, s.ms, s.ms, 1, true, false⟩]
    unrecorded := r.unrecorded.filter (fun y => decide (y.cause ≠ x.cause)) }).queueAll
      (.causeNew g x.cause x.cls false true)

/-- R103: codes are given records while the log has room, in the order of the set. -/
def State.giveRecords (s : State) (g : Group) : State :=
  let s := s.each ((s.group g).unrecorded.take (logSize - (s.group g).log.length)) fun x s => s.giveRecord g x
  s.modGroup g fun r => { r with logFull := !r.unrecorded.isEmpty }

/-- R102: the effect of ACK. -/
def State.acknowledge (s : State) (g : Group) : State :=
  ((s.modGroup g GroupRec.acknowledge).giveRecords g).relevel g

/-- ACK (R50, R102). -/
def ownAck (m : Master) (group : Byte) (s : State) : Answer :=
  s.index (groupField group) fun g =>
  s.needWriter (s.writesAny m (groupChannels g)) <| (s.acknowledge g).answer .ok

def execAck (port : Master) (tag group : Byte) (s : State) : Out :=
  .next (s.takeRequest port tag (ownAck port group))

/-! ### READ_LOG (R106) -/

/-- A record of READ_LOG in twelve bytes (Table 9-7). -/
def CauseRec.bytes (r : CauseRec) : List Byte :=
  causeCode r.cause ++ flags1 [r.cls.isTrip, r.momentary, r.active, r.acknowledged] ++ word4 r.firstSeen ++
  word4 r.lastChange ++ byte1 r.count

/-- A code of the unrecorded set in three bytes (Table 9-7). -/
def Unrecorded.bytes (x : Unrecorded) : List Byte := causeCode x.cause ++ flag1 x.cls.isTrip

/-- The fields of READ_LOG (R106, R173, Table 9-7): RELEASE_TRIP would be accepted unless the group is in TRIP with a
trip-class cause active (R100, log 23). -/
def GroupRec.bytes (g : GroupRec) : List Byte :=
  byte1 g.level.code ++ flags1 [g.logFull, !(decide (g.level = .trip) && g.tripActive)] ++
  byte1 g.log.length ++ g.log.flatMap CauseRec.bytes ++
  byte1 g.unrecorded.length ++ (g.unrecorded.take 40).flatMap Unrecorded.bytes

/-- READ_LOG (R51, R106). -/
def ownReadLog (group : Byte) (s : State) : Answer :=
  s.index (groupField group) fun g => s.answer .ok (s.group g).bytes

def execReadLog (port : Master) (tag group : Byte) (s : State) : Out :=
  .next (s.takeRequest port tag (ownReadLog group))

end Sys2Proof.Machine
end

