-- ==== Sys2Proof/Machine/Resets.lean ====
section
/-! DEFINITION. Resets and start-up (R26, R45, R46, R65, R85, R107, R122, R148, R157, R174, R178 to R181). -/

namespace Sys2Proof.Machine

/-! ### Resets (R178) -/

/-- R183: the bytes of a page write that a power-on reset cuts: which of them reached the EEPROM is open (log 11). -/
def reachedBytes (draw : Nat) (m : Memory) : Nat → List Byte → Memory
  | _, [] => m
  | a, b :: bs => reachedBytes draw (if Config.pageByteReached draw a then m.write a b else m) (a + 1) bs

/-- R183: the EEPROM after a power-on reset. DESIGN CHOICE (log 41): a write cycle that a warm reset left running still
counts as in progress, and its bytes as free, however late the power-on reset comes before the load. -/
def Pfl.cut (p : Pfl) (draw : Nat) : Memory :=
  match p.write with
  | none => p.eeprom
  | some w => reachedBytes draw p.eeprom w.offset w.data

/-- POWER_ON_RESET (R178): every block takes its reset state; the EEPROM keeps its contents. -/
def State.powerOn (s : State) : State :=
  { State.reset with
    pending := s.pending
    draws := s.draws + 1
    pfl := { Pfl.init with eeprom := s.pfl.cut s.draws } }

def execPowerOnReset (s : State) : Out := .next s.powerOn

/-- R157: what a warm reset keeps of the meter. -/
def Hmt.warm (h : Hmt) : Hmt := { h with outcome := .none, power := 0, lastTime := 0, cpW := Profile.default.cpW }

/-- WARM_RESET (R157, R178, R183): the meter keeps its counts, and a write cycle of the EEPROM runs on. DESIGN CHOICE
(log 41): it stays in progress until the load, which waits for its end; the manual gives no other moment that shows it. -/
def State.warm (s : State) : State :=
  { State.reset with
    pending := s.pending
    draws := s.draws
    hmt := s.hmt.warm
    pfl := { Pfl.init with eeprom := s.pfl.eeprom, write := s.pfl.write, mirror := s.pfl.mirror } }

def execWarmReset (s : State) : Out := .next s.warm

/-- START_UP_BEGIN (R178, R179): at the end of a reset (log 38) the millisecond counter restarts. -/
def execStartUpBegin (s : State) : Out :=
  .next (if s.run = .inReset then { s with run := .startUp, ms := 0, tick := 0 } else s)

/-! ### Load (R179) -/

/-- R179: the loader waits for the end of a write cycle, and reads the 4096 bytes the device answers (log 10). -/
def Pfl.read (p : Pfl) : Option (List Byte) → Memory
  | none => p.commit.eeprom
  | some bytes => Memory.ofBytes 0 (bytes.take eepromSize)

/-- R176, R179: the mirror, the profile state and the first failing item after the read. -/
def Pfl.load (p : Pfl) (answered : Option (List Byte)) : Pfl :=
  let m := p.read answered
  { state := stateOfItem m.validate, failing := m.validate, mirror := m, busy := none, write := none, eeprom := m }

/-- R177: the parameters of the loaded profile. -/
def Pfl.parameters (p : Pfl) : Profile := if p.state = .good then p.mirror.profile else Profile.default

/-! ### Set-up (R180) -/

/-- R26: a channel is set up: its base at the safe level, its applied value there at once. -/
def Channel.setUp (p : ChanParams) : Channel := { Channel.init p with base := p.safe }.retarget true p.safe

/-- R46: a pulse input is set up: its timeout timer starts. -/
def Pulse.setUp (p : PulseParams) : Pulse := { Pulse.init p with timer := some 0 }

/-- R107: the log of a group is one RESET record (log 32). -/
def GroupRec.setUp (l : List TripItem) (now : Word) : GroupRec :=
  { GroupRec.init l with log := [⟨.reset, .trip, true, now, now, 1, false, false⟩] }

/-- R180 steps 1 to 3, without PROFILE_BAD: each block takes its section. -/
def State.setUp (s : State) (p : Profile) : State :=
  { s with
    ports := vec3 fun i => { s.ports[i] with timeout := p.silence[i] }
    map := vec16 fun c => MapEntry.init p.writers[c] p.readers[c]
    offerTimeout := p.offerTimeout
    ch := vec16 fun c => Channel.setUp p.chans[c]
    asu := Asu.init p.scanList p.scanPeriod
    ai := vec16 fun n => Analog.init p.ais[n]
    snap := .init
    pi := vec12 fun j => Pulse.setUp p.pis[j]
    di := vec12 fun d => Discrete.init p.activeLow[d]
    units := vec12 fun u => UnitRec.init p.units[u]
    groups := vec3 fun g => GroupRec.setUp p.tripLists[g] s.ms
    actions := p.actions
    tsm := Tsm.init p.tsm
    swu := Swu.init p.swu p.cSil p.pBub
    hmt := { s.hmt with cpW := p.cpW } }

/-- R107, R177: PROFILE_BAD arrives in each group, already in TRIP, with a bad profile. -/
def State.badProfile (s : State) : State :=
  if s.pfl.state = .good then s else s.each allGroups fun g s => s.record g .profileBad .trip

/-- R107, R180 steps 4 and 5: the start-up trip entries, with the level already TRIP, and then propagation (log 37). -/
def State.startUpTrips (s : State) : State :=
  let s := s.each allGroups fun g s => (s.pushTripList g).forceGroup g
  ((s.propagateField).propagateAlarm .turbine).propagateAlarm .heat

/-- R180: no record is queued for the steps of set-up: the event queues are still empty (log 26). -/
def State.emptyQueues (s : State) : State :=
  { s with ports := vec3 fun i => { s.ports[i] with queue := [], lost := false } }

/-- R181 step 6: the first scan starts, and the silence timers start. -/
def State.startTimers (s : State) : State :=
  s.startScan.each masters fun m s => s.modPort m Port.reload

/-- R181 step 7: PROFILE_DONE is queued, and the ports leave start-up. -/
def State.leaveStartUp (s : State) : State :=
  { s.queueAll (.profileDone s.pfl.state s.pfl.failing) with run := .running }

/-- R179 to R181: the read completes, and start-up ends in the same arrival. -/
def State.loadComplete (s : State) (answered : Option (List Byte)) : State :=
  let s := s.modPfl fun p => p.load answered
  ((s.setUp s.pfl.parameters).badProfile.startUpTrips.emptyQueues.startTimers).leaveStartUp

/-- PROFILE_LOAD_COMPLETE (R179): it finds start-up in progress, or does nothing (log 1). -/
def execProfileLoadComplete (answered : Option (List Byte)) (s : State) : Out :=
  .next (if s.run = .startUp then s.loadComplete answered else s)

end Sys2Proof.Machine
end

