-- ==== Sys2Proof/Machine/UnitRequests.lean ====
section
/-! DEFINITION. The unit sequencer: SET_NEXT, GO and READ_UNIT (R68 to R74, R78, R84) and the drain timer (R77). -/

namespace Sys2Proof.Machine

/-! ### Phases begin (R72, R74) -/

/-- R72: STARTING begins: the folds start from the bases, the speed monitor sees TG enter service (R118), and the end is
tested (log 18). -/
def State.beginStarting (s : State) (u : UnitId) : State :=
  (((s.modUnit u fun x => { x with phase := .starting }).refoldUnit u).speedEnter u).testUnit u

/-- R74: DRAINING or ISOLATING begins. -/
def State.beginDrain (s : State) (u : UnitId) (phase : Phase) : State :=
  let s := (s.modUnit u fun x => { x with phase := phase, timer := none }).refoldUnit u
  let s := (s.leaveService u).speedLeave u
  (s.modUnit u fun x => { x with timer := some (x.params.drainTimeout * 1000) }).testUnit u

/-! ### GO (R69, R70, Table 4-5) -/

/-- R70: the path of one unit toward its NEXT starts. -/
def State.startPath (s : State) (u : UnitId) : State :=
  let r := s.unit u
  let s := s.modUnit u fun x => { x with dest := some x.next }
  match r.state, r.next with
  | .isolated, .isolated | .standby, .standby | .running, .running | .paused, .paused => s.clearPath u
  | .isolated, .standby => (s.stepTo u .standby .go).clearPath u
  | .isolated, .running | .isolated, .paused => (s.stepTo u .standby .go).beginStarting u
  | .standby, .isolated => (s.stepTo u .isolated .go).clearPath u
  | .standby, .running | .standby, .paused => s.beginStarting u
  | .running, .paused => (s.stepTo u .paused .go).clearPath u
  | .paused, .running => (s.stepTo u .running .go).clearPath u
  | .running, .standby | .paused, .standby => s.beginDrain u .draining
  | .running, .isolated | .paused, .isolated => s.beginDrain u .isolating

/-- R70: a GO starts the path of each unit of the group whose NEXT differs from its STATE. A unit in a phase, which only
a busy group has, is passed over (log 34). -/
def State.pathUnits (s : State) (g : Group) : List UnitId :=
  (groupUnits g).filter (fun u => decide ((s.unit u).next ≠ (s.unit u).state) && decide ((s.unit u).phase = .none))

/-- R78: the busy flag at the end of the GO arrival, or GO_DONE COMPLETE at once. -/
def State.endGo (s : State) (g : Group) (started : Nat) : State :=
  if s.pathInFlight g then s.modGroup g fun x => { x with busy := true, started := started }
  else s.queueAll (.goDone g false started)

/-- R70, R78, R83: an accepted GO, unit by unit in order of number. -/
def State.startGo (s : State) (g : Group) : State :=
  let l := s.pathUnits g
  (s.each l fun u s => s.startPath u).endGo g l.length

/-- R69 step 2: a unit of the group has a NEXT of RUNNING or PAUSED that differs from its STATE. -/
def State.goTripped (s : State) (g : Group) : Bool :=
  decide ((s.group g).level = .trip) && (groupUnits g).any (fun u =>
    (decide ((s.unit u).next = .running) || decide ((s.unit u).next = .paused)) &&
      decide ((s.unit u).next ≠ (s.unit u).state))

/-- GO (R50, R69). -/
def ownGo (m : Master) (group : Byte) (s : State) : Answer :=
  s.index (groupField group) fun g =>
  s.needWriter (s.writesAny m (groupPrincipals g)) <|
  if (s.group g).busy then s.answer .busy
  else if s.goTripped g then s.answer .groupTripped
  else (s.startGo g).answer .ok

def execGo (port : Master) (tag group : Byte) (s : State) : Out :=
  .next (s.takeRequest port tag (ownGo port group))

/-! ### SET_NEXT and READ_UNIT -/

/-- SET_NEXT (R49, R68, R80). -/
def ownSetNext (m : Master) (unit state : Byte) (s : State) : Answer :=
  s.index (unitField unit) fun u =>
  s.index (stateField state) fun st =>
  s.needWriter (s.writes m (principal u)) <|
  (s.modUnit u fun x => { x with next := st, protAltered := false }).answer .ok

def execSetNext (port : Master) (tag unit state : Byte) (s : State) : Out :=
  .next (s.takeRequest port tag (ownSetNext port unit state))

/-- The fields of READ_UNIT (R84, Table 9-7). -/
def State.unitBytes (s : State) (u : UnitId) : List Byte :=
  let x := s.unit u
  byte1 x.state.code ++ byte1 x.next.code ++ byte1 x.phase.code ++
  (match x.dest with
   | some d => byte1 d.code
   | none => none1) ++
  (match x.timer with
   | some t => byte4 t
   | none => word4 (Config.openField s.draws .stoppedDrainTimer)) ++
  flags1 [x.protAltered, (s.group (unitGroup u)).busy, s.unitRampDone u, s.drainMet u]

/-- READ_UNIT (R49, R84). -/
def ownReadUnit (m : Master) (unit : Byte) (s : State) : Answer :=
  s.index (unitField unit) fun u => s.needReader m (principal u) <| s.answer .ok (s.unitBytes u)

def execReadUnit (port : Master) (tag unit : Byte) (s : State) : Out :=
  .next (s.takeRequest port tag (ownReadUnit port unit))

/-! ### Drain timer (R77) -/

/-- R77: the drain ends by its timer, and DRAIN_TIMEOUT is recorded before an ISOLATING unit steps on (log 22). -/
def State.drainExpired (s : State) (u : UnitId) : State :=
  s.endDrain u .drainTimeout fun s => s.momentary (unitGroup u) (.drainTimeout u)

/-- DRAIN_TIMER_EXPIRY (R77): it finds the drain in progress, or does nothing (log 1). -/
def execDrainTimerExpiry (unit : UnitId) (s : State) : Out :=
  .next (if (s.unit unit).timer.isSome then s.drainExpired unit else s)

end Sys2Proof.Machine
end

