-- ==== Sys2Proof/Machine/Dispatch.lean ====
section
/-! DEFINITION. The meaning of each command: one call per constructor. -/

namespace Sys2Proof.Machine

def exec (i : Instr) (s : State) : Host.Outcome State Fault Refusal :=
  match i with
  | .requestTransactionEnd port bytes => Sys2Proof.Machine.execRequestTransactionEnd port bytes s
  | .fetch port clocked => Sys2Proof.Machine.execFetch port clocked s
  | .badFrame port bytes => Sys2Proof.Machine.execBadFrame port bytes s
  | .unknownRequest port tag code => Sys2Proof.Machine.execUnknownRequest port tag code s
  | .status port tag => Sys2Proof.Machine.execStatus port tag s
  | .portReset port tag => Sys2Proof.Machine.execPortReset port tag s
  | .readEvent port tag => Sys2Proof.Machine.execReadEvent port tag s
  | .setPoint port tag channel value => Sys2Proof.Machine.execSetPoint port tag channel value s
  | .force port tag channel kind value => Sys2Proof.Machine.execForce port tag channel kind value s
  | .unforce port tag channel => Sys2Proof.Machine.execUnforce port tag channel s
  | .readChannel port tag channel => Sys2Proof.Machine.execReadChannel port tag channel s
  | .readInput port tag cls number => Sys2Proof.Machine.execReadInput port tag cls number s
  | .claim port tag channel => Sys2Proof.Machine.execClaim port tag channel s
  | .releaseCh port tag channel => Sys2Proof.Machine.execReleaseCh port tag channel s
  | .offer port tag channel offeree => Sys2Proof.Machine.execOffer port tag channel offeree s
  | .accept port tag channel => Sys2Proof.Machine.execAccept port tag channel s
  | .lock port tag channel => Sys2Proof.Machine.execLock port tag channel s
  | .readMap port tag channel => Sys2Proof.Machine.execReadMap port tag channel s
  | .setNext port tag unit state => Sys2Proof.Machine.execSetNext port tag unit state s
  | .go port tag group => Sys2Proof.Machine.execGo port tag group s
  | .readUnit port tag unit => Sys2Proof.Machine.execReadUnit port tag unit s
  | .releaseTrip port tag group => Sys2Proof.Machine.execReleaseTrip port tag group s
  | .ack port tag group => Sys2Proof.Machine.execAck port tag group s
  | .readLog port tag group => Sys2Proof.Machine.execReadLog port tag group s
  | .setLab port tag item value => Sys2Proof.Machine.execSetLab port tag item value s
  | .readScale port tag part => Sys2Proof.Machine.execReadScale port tag part s
  | .readMeter port tag => Sys2Proof.Machine.execReadMeter port tag s
  | .profileRead port tag offset => Sys2Proof.Machine.execProfileRead port tag offset s
  | .profileWrite port tag offset data => Sys2Proof.Machine.execProfileWrite port tag offset data s
  | .profileCheck port tag => Sys2Proof.Machine.execProfileCheck port tag s
  | .silenceTimerExpiry port => Sys2Proof.Machine.execSilenceTimerExpiry port s
  | .offerExpiry channel => Sys2Proof.Machine.execOfferExpiry channel s
  | .rampTick => Sys2Proof.Machine.execRampTick s
  | .diSample levels => Sys2Proof.Machine.execDiSample levels s
  | .scanStart => Sys2Proof.Machine.execScanStart s
  | .conversionEnd code => Sys2Proof.Machine.execConversionEnd code s
  | .pulseActiveEdge input => Sys2Proof.Machine.execPulseActiveEdge input s
  | .signalTimeout input => Sys2Proof.Machine.execSignalTimeout input s
  | .periodCounterOverflow input => Sys2Proof.Machine.execPeriodCounterOverflow input s
  | .highPhaseEnd channel => Sys2Proof.Machine.execHighPhaseEnd channel s
  | .periodBoundary channel => Sys2Proof.Machine.execPeriodBoundary channel s
  | .oneshotDelayExpiry channel => Sys2Proof.Machine.execOneshotDelayExpiry channel s
  | .oneshotPulseExpiry channel => Sys2Proof.Machine.execOneshotPulseExpiry channel s
  | .drainTimerExpiry unit => Sys2Proof.Machine.execDrainTimerExpiry unit s
  | .pageWriteEnd => Sys2Proof.Machine.execPageWriteEnd s
  | .powerOnReset => Sys2Proof.Machine.execPowerOnReset s
  | .warmReset => Sys2Proof.Machine.execWarmReset s
  | .startUpBegin => Sys2Proof.Machine.execStartUpBegin s
  | .profileLoadComplete answered => Sys2Proof.Machine.execProfileLoadComplete answered s

end Sys2Proof.Machine
end

