-- ==== Sys2Proof/Machine/Timebase.lean ====
section
/-! DEFINITION. What the part does by itself when no command waits (log 2): it takes a request frame that has been
received (R161), or one 10 MHz tick of the timebase passes, with the arrivals that the tick makes due. -/

namespace Sys2Proof.Machine

/-- The ticks of a millisecond. -/
def ticksPerMs : Nat := 10000

/-! ### Counters of one tick (R2, R38, R40) -/

/-- A counter behind a prescaler of 2^presc: the two counts after a tick. -/
def prescaled (presc count sub : Nat) : Nat × Nat :=
  if sub + 1 < 2 ^ presc then (count, sub + 1) else (count + 1, 0)

/-- R2: the phase counter of a channel whose output has phases. -/
def Channel.clock (ch : Channel) : Channel :=
  if ch.wave = .static then ch
  else
    let n := prescaled ch.params.presc ch.count ch.sub
    { ch with count := n.1, sub := n.2 }

/-- R38: the period counter of a pulse input whose timing is RUNNING. -/
def Pulse.clockPeriod (p : Pulse) : Pulse :=
  if p.running then
    let n := prescaled p.params.presc p.count p.sub
    { p with count := min counterSpan n.1, sub := n.2 }
  else p

/-- R40, Table 2-6: the timeout timer counts whole milliseconds from the active edge, wherever the edge lies in a
millisecond of the timebase (Figure 2-3). -/
def Pulse.clockTimer (p : Pulse) : Pulse :=
  match p.timer with
  | none => p
  | some t =>
    if p.timerSub + 1 < ticksPerMs then { p with timerSub := p.timerSub + 1 }
    else { p with timer := some (t + 1), timerSub := 0 }

/-- R38, R40: the two counters of a pulse input. -/
def Pulse.clock (p : Pulse) : Pulse := p.clockPeriod.clockTimer

/-! ### Millisecond timers -/

/-- A timer that runs down. -/
def down (t : Option Nat) : Option Nat := t.map (· - 1)

/-- The timers of every block that count the milliseconds of the timebase (R8, R9, R33, R74, R170, R183; log 42). -/
def State.millisecond (s : State) : State :=
  { s with
    ms := s.ms + 1
    tick := 0
    ports := vec3 fun i => { s.ports[i] with timer := down s.ports[i].timer }
    ch := vec16 fun c => { s.ch[c] with timer := down s.ch[c].timer }
    ai := vec16 fun n => { s.ai[n] with age := min max32 (s.ai[n].age + 1) }
    units := vec12 fun u => { s.units[u] with timer := down s.units[u].timer }
    pfl := { s.pfl with busy := down s.pfl.busy } }

/-- One 10 MHz tick: the counters, and the millisecond timers when a millisecond is complete. -/
def State.clock (s : State) : State :=
  let s := { s with
    tick := s.tick + 1
    ch := vec16 fun c => s.ch[c].clock
    pi := vec12 fun j => s.pi[j].clock }
  if ticksPerMs ≤ s.tick then s.millisecond else s

/-! ### Arrivals a tick makes due -/

/-- The current phase of a channel has run its counts (R2). -/
def Channel.phaseOver (ch : Channel) (w : WavePhase) : Bool :=
  decide (ch.wave = w) && (match ch.pair with
    | .counts h l => decide ((if w = .high then h else l) ≤ ch.count)
    | _ => true)

/-- A one-shot timer has run out in a one-shot state (R8, R9). -/
def Channel.timerOver (ch : Channel) (o : OneShot) : Bool := decide (ch.oneShot = o) && decide (ch.timer = some 0)

/-- The arrivals a tick can make due at any time. -/
def tickArrivals : List Instr :=
  channels.map .highPhaseEnd ++ channels.map .periodBoundary ++ pulses.map .periodCounterOverflow ++
  pulses.map .signalTimeout

/-- The arrivals that a complete millisecond can make due. -/
def msArrivals : List Instr :=
  masters.map .silenceTimerExpiry ++ channels.map .offerExpiry ++ [.rampTick] ++ [.scanStart] ++
  channels.map .oneshotDelayExpiry ++ channels.map .oneshotPulseExpiry ++ allUnits.map .drainTimerExpiry ++ [.pageWriteEnd]

/-- A time of the millisecond counter has come: the difference is taken modulo 2^32 (Table 0-8). -/
def reached (t now : Word) : Bool := decide ((now - t).toNat < 2 ^ 31)

/-- Whether an arrival of the timebase is due as the state stands. -/
def State.due (s : State) : Instr → Bool
  | .highPhaseEnd c => (s.chan c).phaseOver .high
  | .periodBoundary c => (s.chan c).phaseOver .low
  | .periodCounterOverflow j =>
    (s.pulse j).running && decide ((s.pulse j).quality ≠ .noSignal) && decide (counterSpan ≤ (s.pulse j).count)
  | .silenceTimerExpiry m => decide ((s.port m).timer = some 0)
  | .offerExpiry c => (s.entry c).offer.any (fun o => decide (o.expiry = s.ms))
  | .rampTick => decide (s.ms.toNat % 100 = 0)
  | .scanStart => decide (s.run = .running) && decide (s.asu.pos = none) && reached s.asu.nextScan s.ms
  | .signalTimeout j => decide ((s.pulse j).timer = some (s.pulse j).params.timeout ∧ (s.pulse j).timerSub = 0)
  | .oneshotDelayExpiry c => (s.chan c).timerOver .delay
  | .oneshotPulseExpiry c => (s.chan c).timerOver .pulse
  | .drainTimerExpiry u => decide ((s.unit u).timer = some 0)
  | .pageWriteEnd => decide (s.pfl.busy = some 0)
  | .requestTransactionEnd .. | .fetch .. | .badFrame .. | .unknownRequest .. | .status .. | .portReset ..
  | .readEvent .. | .setPoint .. | .force .. | .unforce .. | .readChannel .. | .readInput .. | .claim ..
  | .releaseCh .. | .offer .. | .accept .. | .lock .. | .readMap .. | .setNext .. | .go .. | .readUnit ..
  | .releaseTrip .. | .ack .. | .readLog .. | .setLab .. | .readScale .. | .readMeter .. | .profileRead ..
  | .profileWrite .. | .profileCheck .. | .diSample .. | .conversionEnd .. | .pulseActiveEdge .. | .powerOnReset
  | .warmReset | .startUpBegin | .profileLoadComplete .. => false

/-- One arrival after what came before it, if it is still due. -/
def fireDue (o : Out) (i : Instr) : Out :=
  match o with
  | .next s => if s.due i then exec i s else .next s
  | .fault f => .fault f
  | .refused r => .refused r

/-- The arrivals that a tick has made due, in an order that nothing fixes (log 3). -/
def State.fireAll (s : State) : Out :=
  let candidates := if s.tick = 0 then tickArrivals ++ msArrivals else tickArrivals
  (freeOrder s.draws (candidates.filter s.due)).foldl fireDue (.next { s with draws := s.draws + 1 })

/-- R178: one tick; in reset nothing counts (log 15). -/
def State.runTick (s : State) : Out := if s.run = .inReset then .next s else s.clock.fireAll

/-! ### Waiting requests (R161) -/

/-- The ports that hold a received frame which waits to be taken. -/
def State.waiting (s : State) : List Master := masters.filter (fun m => !(s.port m).received.isEmpty)

/-- The part by itself: the request of one port is taken, in an order that nothing fixes between ports, or a tick
passes. -/
def State.idle (s : State) : Out :=
  match freeOrder s.draws s.waiting with
  | [] => s.runTick
  | m :: _ => exec (decodeFrame m ((s.port m).received.headD [])) s

end Sys2Proof.Machine
end

