-- ==== Sys2Proof/Safety.lean ====
section
/-! DEFINITION. What counts as a safe run, and the laws of the manual that hold in every state a run reaches. -/

namespace Sys2Proof.Machine

/-- The outcome is a next state. -/
def Ran (o : Host.Outcome State Fault Refusal) : Prop := ∃ t, o = .next t

/-- The state after at most `n` steps, each of which gives a next state; none where one does not. -/
def stepsFrom : Nat → State → Option State
  | 0, s => some s
  | n + 1, s =>
    match step s with
    | .next t => stepsFrom n t
    | .fault _ => none
    | .refused _ => none

/-- A state from which no run stops. -/
def Safe (s : State) : Prop := ∀ n, stepsFrom n s ≠ none

/-! ### Laws of a state -/

/-- A cause that is recorded without an active period (Table 5-3). -/
def Cause.isMomentary : Cause → Bool
  | .reset | .guardLost _ | .drainTimeout _ => true
  | _ => false

/-- R165: no event queue holds more than 16 records. -/
def State.QueuesFit (s : State) : Prop := ∀ m, (s.port m).queue.length ≤ 16

/-- R14, R16: at most 4 entries, no two with one identity, and a TRIP entry, of kind VALUE, only on top. -/
def StackOk (l : List Entry) : Prop :=
  l.length ≤ 4 ∧ (l.map (·.source)).Nodup ∧ (∀ e ∈ l.dropLast, e.source ≠ .trip) ∧
    ∀ e ∈ l, e.source = .trip → e.kind = .value

/-- R16: every stack is in its form. -/
def State.StacksOk (s : State) : Prop := ∀ c, StackOk (s.chan c).stack

/-- R8 to R10, R12, R14, R20, R21: the target of every channel is its fold; the applied value of a ONESHOT channel is its
target, and its one-shot is IDLE while that is 0; the applied value of a channel whose unit is STANDBY or ISOLATED is
its target; and where a TRIP entry stands, the applied value is that entry's. -/
def State.ChannelsFollow (s : State) : Prop := ∀ c,
  (s.chan c).target = (s.chan c).fold (s.unit (unitOf c)).foldsFromBase ∧
  ((s.chan c).params.mode = .oneshot → (s.chan c).applied = (s.chan c).target ∧
    ((s.chan c).target = 0 → (s.chan c).oneShot = .idle)) ∧
  ((s.unit (unitOf c)).atRest = true → (s.chan c).applied = (s.chan c).target) ∧
  ∀ e ∈ (s.chan c).stack, e.source = .trip → (s.chan c).applied = e.value

/-- R47, R56, R59: a writer is one of the channel's readers; a pending offer stands on an OPEN entry, is the writer's, and
names another reader; a LOCKED entry has a writer. -/
def State.MapOk (s : State) : Prop := ∀ c,
  (∀ m, (s.entry c).writer = some m → (s.entry c).readers.has m = true) ∧
  (∀ o, (s.entry c).offer = some o → (s.entry c).locked = false ∧ (s.entry c).readers.has o.offeree = true ∧
    (s.entry c).writer ≠ none ∧ (s.entry c).writer ≠ some o.offeree) ∧
  ((s.entry c).locked = true → (s.entry c).writer ≠ none)

/-- R88, R89, R91: the form of a group's log and unrecorded set, whose records have the classes of their causes. -/
def GroupRec.LogOk (classOf : Cause → CauseClass) (g : GroupRec) : Prop :=
  g.log.length ≤ 8 ∧ (g.log.map (·.cause)).Nodup ∧
  (∀ r ∈ g.log, r.cls = classOf r.cause ∧ r.momentary = r.cause.isMomentary ∧ (r.momentary = true → r.active = false) ∧
    1 ≤ r.count ∧ r.count ≤ 255) ∧
  g.unrecorded.Pairwise (fun x y => x.cause.code < y.cause.code) ∧
  (∀ x ∈ g.unrecorded, x.cls = classOf x.cause ∧ x.cause.isMomentary = false ∧ ∀ r ∈ g.log, r.cause ≠ x.cause) ∧
  (g.unrecorded ≠ [] → g.logFull = true ∧ g.log.length = 8)

def State.LogsOk (s : State) : Prop := ∀ g, (s.group g).LogOk s.classOf

/-- R92: the level a log asks for outside TRIP. -/
def GroupRec.asksAlarm (x : GroupRec) : Prop :=
  (∃ r ∈ x.log, r.active = true ∨ r.momentary = true ∧ r.acknowledged = false) ∨ x.unrecorded ≠ [] ∨ x.logFull = true

/-- R86, R92: outside TRIP, a group is in ALARM exactly while its log, its unrecorded set or LOG_FULL asks for it. -/
def State.LevelsFollow (s : State) : Prop :=
  ∀ g, (s.group g).level ≠ .trip → ((s.group g).level = .alarm ↔ (s.group g).asksAlarm)

/-- R97: while a trip-class cause of a group is active, the group is in TRIP. -/
def State.TripsHold (s : State) : Prop := ∀ g, (s.group g).tripActive = true → (s.group g).level = .trip

/-- R66: the trip-list state of every unit is STANDBY or ISOLATED. -/
def State.TripStatesOk (s : State) : Prop :=
  ∀ u, (s.unit u).params.tripState = .standby ∨ (s.unit u).params.tripState = .isolated

/-- R79: every unit of a group in TRIP is STANDBY or ISOLATED, in no phase. -/
def State.TrippedAtRest (s : State) : Prop :=
  ∀ g, (s.group g).level = .trip → ∀ u ∈ groupUnits g, (s.unit u).atRest = true

/-- R78: a group is busy exactly while a unit of it is in a phase. -/
def State.BusyOk (s : State) : Prop :=
  ∀ g, (s.group g).busy = true ↔ ∃ u ∈ groupUnits g, (s.unit u).phase ≠ .none

/-- R140: a channel's stack holds a SCALE entry exactly while its guard is not CLEAR. -/
def State.GuardsMatch (s : State) : Prop :=
  ∀ c, hasSource .scale (s.chan c).stack = true ↔ ∃ k : GuardId, k.chan = c ∧ (s.guard k).state ≠ .clear

/-- R140, R143: the SCALE entry of a guarded channel is a CEILING whose value is its guard's ceiling, from the guard's
floor, at most 999, to 999; a CLEAR guard has no ceiling; a guard's step is at least 1. -/
def State.CeilingsOk (s : State) : Prop := ∀ k : GuardId,
  (s.guardParams k).floor ≤ 999 ∧ 1 ≤ (s.guardParams k).step ∧ ((s.guard k).state = .clear → (s.guard k).ceiling = none) ∧
  ∀ x ∈ (s.chan k.chan).stack, x.source = .scale →
    x.kind = .ceiling ∧ (s.guard k).ceiling = some x.value ∧ (s.guardParams k).floor ≤ x.value ∧ x.value ≤ 999

/-- The mirror and the EEPROM are in canonical form. -/
def State.StoresOk (s : State) : Prop := s.pfl.mirror.wf = true ∧ s.pfl.eeprom.wf = true

/-- R1, R15, R20, R93, R96, R140: every channel value, and every value that can become one, lies in 0 to 1000. -/
def State.ValuesFit (s : State) : Prop :=
  (∀ c, (s.chan c).params.safe ≤ 1000 ∧ (s.chan c).params.fallback ≤ 1000 ∧ (s.chan c).base ≤ 1000 ∧
    (s.chan c).target ≤ 1000 ∧ (s.chan c).applied ≤ 1000 ∧ ∀ e ∈ (s.chan c).stack, e.value ≤ 1000) ∧
  (∀ g, ∀ x ∈ (s.group g).tripList, x.value ≤ 1000) ∧ (∀ r ∈ s.actions, ∀ a ∈ r.actions, a.value ≤ 1000) ∧
  ∀ k : GuardId, (s.guardParams k).floor ≤ 1000 ∧ ∀ v, (s.guard k).ceiling = some v → v ≤ 1000

/-- R149, R152, R154: the counters of the meter lie in their ranges, and an interval is at most a second. -/
def State.MeterOk (s : State) : Prop :=
  s.hmt.kwh ≤ max32 ∧ s.hmt.residue < kwhUnits ∧ s.hmt.unmeteredS ≤ max32 ∧ s.hmt.unmeteredMs < 1000 ∧
    s.asu.period ≤ 1000

/-- R96: a trip list names channels of its group, none twice. -/
def State.TripListsOk (s : State) : Prop := ∀ g,
  (∀ x ∈ (s.group g).tripList, chanGroup x.channel = g) ∧ ((s.group g).tripList.map (·.channel)).Nodup

/-- R97: every channel of the trip list of a group in TRIP holds a TRIP entry with the listed value. -/
def State.TripListsHold (s : State) : Prop := ∀ g, (s.group g).level = .trip →
  ∀ x ∈ (s.group g).tripList, ∃ e ∈ (s.chan x.channel).stack, e.source = .trip ∧ e.value = x.value

/-! ### Vocabulary of the statements -/

/-- A cause is active in a group, in its log or in its unrecorded set (R91). -/
def GroupRec.Holds (g : GroupRec) (c : Cause) : Prop :=
  (∃ r ∈ g.log, r.cause = c ∧ r.active = true) ∨ ∃ x ∈ g.unrecorded, x.cause = c

/-- A port holds a record, or has lost one (R165). -/
def Port.Told (p : Port) (e : Event) : Prop := e ∈ p.queue ∨ p.lost = true

/-- R165, R166: the channel whose readers a record goes to; for a record about a unit, its principal channel. -/
def EventBody.readBy : EventBody → Option ChanId
  | .overrideLost c _ _ _ | .rampDone c _ | .handoverOffered c _ _ | .handoverDone c _ _ | .handoverExpired c _ _
  | .guardState c _ _ _ => some c
  | .unitState u _ _ | .unitForced u _ _ _ => some (principal u)
  | .goDone _ _ _ | .groupLevel _ _ _ | .causeNew _ _ _ _ _ | .portSilent _ _ | .portHeard _ _ | .profileDone _ _ => none

/-- R13: every FREQUENCY and WAVEFORM channel of a unit has ramp done. -/
def State.RampsDone (s : State) (u : UnitId) : Prop :=
  ∀ c, unitOf c = u → (s.chan c).params.mode ≠ .oneshot → (s.chan c).applied = (s.chan c).target

/-- Table 4-6: the pulse input that the drain condition of a unit reads. -/
def drainInput (j : PulseId) (u : UnitId) : Prop :=
  (u.val < 8 ∧ j.val = u.val) ∨ (u = unitRI ∧ j = 10) ∨ (u = unitTG ∧ j = 11)

/-- R75, Table 4-6: the drain condition of a unit. -/
def State.Drained (s : State) (u : UnitId) : Prop := s.RampsDone u ∧ ∀ j, drainInput j u →
  (s.pulse j).quality = .noSignal ∨
    if u = unitTG then s.tsm.quality = .good ∧ s.tsm.speed < (s.unit u).params.drainSpeed
    else (s.pulse j).quality = .good ∧ (s.pulse j).rate < (s.unit u).params.idleFlow

/-- R161 step 5: the state in which the indices, the authority and the owner of a request of port `m` decide: its frame is
taken and valid. -/
def State.heard (s : State) (m : Master) : State := (s.takeFrame m).validFrame m

/-- R162, Table 9-4: a request has an enumerated field outside its range. -/
def outOfRange : Instr → Prop
  | .setPoint _ _ c _ | .unforce _ _ c | .readChannel _ _ c | .claim _ _ c | .releaseCh _ _ c | .accept _ _ c
  | .lock _ _ c | .readMap _ _ c => 15 < c.toNat
  | .force _ _ c k _ => 15 < c.toNat ∨ 2 < k.toNat
  | .offer _ _ c o => 15 < c.toNat ∨ o.toNat = 0 ∨ 3 < o.toNat
  | .readInput _ _ k n => 2 < k.toNat ∨ (k.toNat = 0 ∧ 15 < n.toNat) ∨ (k.toNat ≠ 0 ∧ 11 < n.toNat)
  | .setNext _ _ u st => 11 < u.toNat ∨ 3 < st.toNat
  | .readUnit _ _ u => 11 < u.toNat
  | .go _ _ g | .releaseTrip _ _ g | .ack _ _ g | .readLog _ _ g => 2 < g.toNat
  | .setLab _ _ i _ => 8 < i.toNat
  | .readScale _ _ p => 9 < p.toNat
  | .profileRead _ _ o | .profileWrite _ _ o _ => 4064 < o.toNat ∨ o.toNat % 32 ≠ 0
  | .requestTransactionEnd .. | .fetch .. | .badFrame .. | .unknownRequest .. | .status .. | .portReset ..
  | .readEvent .. | .readMeter .. | .profileCheck .. | .silenceTimerExpiry .. | .offerExpiry .. | .rampTick
  | .diSample .. | .scanStart | .conversionEnd .. | .pulseActiveEdge .. | .signalTimeout ..
  | .periodCounterOverflow .. | .highPhaseEnd .. | .periodBoundary .. | .oneshotDelayExpiry ..
  | .oneshotPulseExpiry .. | .drainTimerExpiry .. | .pageWriteEnd | .powerOnReset | .warmReset | .startUpBegin
  | .profileLoadComplete .. => False

/-- What no reaction between the blocks changes: whole blocks, the port fields other than the event queue, and the
parameters, bases, NEXTs and trip lists; a group stays inside or outside TRIP, and no queue outgrows its size. -/
structure Same (s t : State) : Prop where
  pending : t.pending = s.pending
  draws : t.draws = s.draws
  run : t.run = s.run
  tick : t.tick = s.tick
  ms : t.ms = s.ms
  map : t.map = s.map
  offerTimeout : t.offerTimeout = s.offerTimeout
  asu : t.asu = s.asu
  ai : t.ai = s.ai
  snap : t.snap = s.snap
  pi : t.pi = s.pi
  di : t.di = s.di
  actions : t.actions = s.actions
  hmt : t.hmt = s.hmt
  pfl : t.pfl = s.pfl
  port : ∀ m, { t.port m with queue := (s.port m).queue, lost := (s.port m).lost } = s.port m
  queues : ∀ m, (s.port m).queue.length ≤ queueSize → (t.port m).queue.length ≤ queueSize
  chan : ∀ c, (t.chan c).params = (s.chan c).params ∧ (t.chan c).base = (s.chan c).base
  unit : ∀ u, (t.unit u).params = (s.unit u).params ∧ (t.unit u).next = (s.unit u).next
  tripList : ∀ g, (t.group g).tripList = (s.group g).tripList
  level : ∀ g, (t.group g).level = .trip ↔ (s.group g).level = .trip
  tsm : t.tsm.params = s.tsm.params
  swu : t.swu.params = s.swu.params

/-- R8 to R10, R21: a ONESHOT channel takes its target as recomputed, from `x` to `y`: a rise from 0 in IDLE arms it, with its
delay or, where that is 0, with the pulse at once; a fall to 0 ends it; another change, and none, leaves the one-shot. -/
structure OneShotTakes (x y : Channel) : Prop where
  rise : x.oneShot = .idle → x.target = 0 → y.target ≠ 0 → (y.oneShot, y.timer) =
    if x.params.delay = 0 then (.pulse, some x.params.pulse) else (.delay, some x.params.delay)
  fall : x.target ≠ 0 → y.target = 0 → y.oneShot = .idle ∧ y.timer = none
  keep : x.target = y.target ∨ (y.target ≠ 0 ∧ (x.target ≠ 0 ∨ x.oneShot ≠ .idle)) →
    y.oneShot = x.oneShot ∧ y.timer = x.timer
  applied : x.applied = x.target → y.applied = y.target

/-- R78: busy flags that mark the units in a phase still do, and the end of the last path of a GO is told to every port as
COMPLETE. -/
def GoEnds (e r : State) : Prop := e.BusyOk → r.BusyOk ∧ ∀ g, (e.group g).busy = true → (r.group g).busy = false →
  ∀ m, (r.port m).Told ⟨e.ms, .goDone g false (e.group g).started⟩

/-- R76, R83: a drain ends by its condition, from `e` to `r`: in STANDBY, and where it was ISOLATING in ISOLATED at once. -/
structure DrainEnded (e r : State) (u : UnitId) : Prop where
  unit : r.unit u = { e.unit u with
    state := if (e.unit u).phase = .isolating then .isolated else .standby
    phase := .none, dest := none, timer := none }
  told : ∀ m, (e.entry (principal u)).readers.has m = true → (r.port m).Told ⟨e.ms, .unitState u .standby .drainEnd⟩ ∧
    ((e.unit u).phase = .isolating → (r.port m).Told ⟨e.ms, .unitState u .isolated .go⟩)

/-- What the recomputed folds of the channels in `touched` set off, and nothing else: a phase of their unit may end, with its
records (R73, R76, R78). -/
structure Settled (e r : State) (touched : ChanId → Prop) : Prop where
  swu : r.swu = e.swu
  tsm : r.tsm = e.tsm
  unit : ∀ u, (e.unit u).phase = .none → r.unit u = e.unit u
  group : ∀ g, r.group g = { e.group g with busy := (r.group g).busy }
  chan : ∀ c, ¬touched c → (e.unit (unitOf c)).phase = .none → r.chan c = e.chan c
  stack : ∀ c, ¬touched c → (r.chan c).stack = (e.chan c).stack
  target : ∀ c, touched c → (r.chan c).target = (r.chan c).fold (r.unit (unitOf c)).foldsFromBase
  oneShot : ∀ c, touched c → (e.chan c).params.mode = .oneshot → OneShotTakes (e.chan c) (r.chan c)
  go : GoEnds e r
  queue : ∀ m, (e.port m).queue <+: (r.port m).queue
  quiet : (∀ u, (e.unit u).phase = .none) → r.ports = e.ports

/-- What a unit that leaves service loses, from `e` to `r`: its guard is CLEAR, without a ceiling or a SCALE entry, and the
readers of the channel are told for one of the reasons (R81, R143); a well's CALCITE is over (R139), and SPEED_LOST that of the
turbine-generator (R118). -/
structure LeftService (e r : State) (u : UnitId) (reasons : List GuardReason) : Prop where
  clear : ∀ k, unitGuard u = some k → (r.guard k).state = .clear
  guard : ∀ k, unitGuard u = some k → (e.guard k).state ≠ .clear →
    r.guard k = { e.guard k with state := .clear, ceiling := none } ∧ hasSource .scale (r.chan k.chan).stack = false ∧
    ∃ why ∈ reasons, ∀ m, (e.entry k.chan).readers.has m = true →
      (r.port m).Told ⟨e.ms, .guardState k.chan .clear why none⟩
  calcite : ∀ i, wellOf u = some i → r.swu.cal[i] = { e.swu.cal[i] with active := false } ∧
    ((e.swu.cal[i]).active = true → e.LogsOk → ¬(r.group .field).Holds (.calcite i))
  speed : u = unitTG → r.tsm = { e.tsm with speedLost := false } ∧
    (e.tsm.speedLost = true → e.LogsOk → ¬(r.group .turbine).Holds .speedLost)

/-- R52 step 4, R61: the writer `w` that a change takes from a channel has a SILENT port and writes no other channel of the
group, so that LINK_SILENT(w) is deactivated there. -/
def State.reviewsLink (e : State) (c : ChanId) (new : Option Master) (w : Master) : Prop :=
  (e.entry c).writer = some w ∧ new ≠ some w ∧ (e.port w).silent = true ∧
    ∀ d ∈ groupChannels (chanGroup c), d ≠ c → (e.entry d).writer ≠ some w

/-- R90: a group record after a cause of it has been deactivated at a time: its record, if it has one, is inactive, and
otherwise its code leaves the unrecorded set. -/
def GroupRec.without (x : GroupRec) (c : Cause) (now : Word) : GroupRec :=
  { x with
    log := x.log.map fun r => if r.cause = c ∧ r.active = true then { r with active := false, lastChange := now } else r
    unrecorded := if ∃ r ∈ x.log, r.cause = c then x.unrecorded else x.unrecorded.filter fun y => decide (y.cause ≠ c) }

/-- R88, R89, R91: a group record after an arrival of a cause with its class at a time: its record reactivated in place, or
appended at the end; in a full log LOG_FULL, and a cause that is not momentary in its place in the unrecorded set. -/
def GroupRec.withArrival (x : GroupRec) (c : Cause) (cls : CauseClass) (now : Word) : GroupRec :=
  if ∃ r ∈ x.log, r.cause = c then
    { x with log := x.log.map fun r => if r.cause = c then { r with
        active := if c.isMomentary then r.active else true
        acknowledged := false, count := min 255 (r.count + 1), lastChange := now } else r }
  else if x.log.length < 8 then
    { x with log := x.log ++ [⟨c, cls, c.isMomentary, now, now, 1, !c.isMomentary, false⟩] }
  else { x with
    logFull := true
    unrecorded := if c.isMomentary = true ∨ ∃ y ∈ x.unrecorded, y.cause = c then x.unrecorded
      else x.unrecorded.filter (fun y => decide (y.cause.code < c.code)) ++ [⟨c, cls⟩] ++
        x.unrecorded.filter (fun y => decide (c.code < y.cause.code)) }

/-- R105: the CAUSE_NEW that an arrival of a cause queues, as RECORDED or not; none for a record in place or for a code that the
unrecorded set holds. -/
def GroupRec.newRecord (x : GroupRec) (c : Cause) : Option Bool :=
  if ∃ r ∈ x.log, r.cause = c then none
  else if x.log.length < 8 then some true
  else if c.isMomentary = false ∧ ∃ y ∈ x.unrecorded, y.cause = c then none
  else some false

/-- R94: a channel's stack `l` after the entries of a cause are pushed in a group, in the order of its action record. -/
def State.alarmed (s : State) (g : Group) (c : Cause) (d : ChanId) (l : List Entry) : List Entry :=
  (s.actionsIn g c).foldl (fun l a => if a.channel = d then pushEntry ⟨.alarm c, a.kind, a.value, s.ms⟩ l else l) l

/-- R88, R92, R94, R105: a cause of ALARM class that is not momentary has arrived in a group, from `e` to `r`. -/
structure AlarmArrived (e r : State) (g : Group) (c : Cause) : Prop where
  /-- The records of R88 stand; those of GUARD_LOST may follow, or be counted again, where the actions discard SCALE entries. -/
  log : ∀ (i : Nat) (z : CauseRec), ((e.group g).withArrival c .alarm e.ms).log[i]? = some z →
    (∀ d, z.cause ≠ .guardLost d) → (r.group g).log[i]? = some z
  unrecorded : (r.group g).unrecorded = ((e.group g).withArrival c .alarm e.ms).unrecorded
  full : ((e.group g).withArrival c .alarm e.ms).logFull = true → (r.group g).logFull = true
  level : (r.group g).level = if (e.group g).level = .trip then .trip else .alarm
  causeNew : ∀ b, (e.group g).newRecord c = some b → ∀ m, (r.port m).Told ⟨e.ms, .causeNew g c .alarm false b⟩
  groupLevel : (e.group g).level = .normal → ∀ m, (r.port m).Told ⟨e.ms, .groupLevel g .alarm (r.group g).firstOut⟩
  stack : ∀ d, (r.chan d).stack = e.alarmed g c d (e.chan d).stack

/-- R90, R92, R95: a cause has been deactivated in a group, from `e` to `r`. -/
structure CauseEnded (e r : State) (g : Group) (c : Cause) : Prop where
  record : r.group g = { (e.group g).without c e.ms with level := (r.group g).level, busy := (r.group g).busy }
  level : ((r.group g).level = .trip ↔ (e.group g).level = .trip) ∧
    ((e.group g).level ≠ .trip → ((r.group g).level = .alarm ↔ (r.group g).asksAlarm))
  groupLevel : (r.group g).level ≠ (e.group g).level →
    ∀ m, (r.port m).Told ⟨e.ms, .groupLevel g (r.group g).level (e.group g).firstOut⟩
  stack : ∀ d, (r.chan d).stack = if ∃ a ∈ e.actionsIn g c, a.channel = d then
    (e.chan d).stack.filter (fun x => decide (x.source ≠ .alarm c)) else (e.chan d).stack

/-- R52: the writer of a channel has changed, from `e` to `t`. -/
structure WriterChanged (e t : State) (c : ChanId) (new : Option Master) : Prop where
  /-- R47, steps 1 and 3. -/
  entry : t.entry c = { writer := new, locked := (e.entry c).locked, offer := none, readers :=
    match new with
    | some m => (e.entry c).readers.add m
    | none => (e.entry c).readers }
  others : ∀ d, d ≠ c → t.entry d = e.entry d
  same : Same e { t with map := e.map }
  /-- Step 2: FORCE and LINK leave the stack of the channel, and no other stack changes; but for the entries of LINK_SILENT
  that its deactivation removes, from the channels of its action record (step 4, R90). -/
  stack : ∀ d, (∀ w, e.reviewsLink c new w → ∀ a ∈ e.actionsIn (chanGroup c) (.linkSilent w), a.channel ≠ d) →
    (t.chan d).stack = if d = c then
      (e.chan c).stack.filter (fun x => decide (x.source ≠ .force ∧ x.source ≠ .link)) else (e.chan d).stack
  alarms : ∀ w, e.reviewsLink c new w → ∀ a ∈ e.actionsIn (chanGroup c) (.linkSilent w), (t.chan a.channel).stack =
    (e.chan a.channel).stack.filter (fun x => decide (x.source ≠ .alarm (.linkSilent w) ∧
      (a.channel = c → x.source ≠ .force ∧ x.source ≠ .link)))
  /-- R21: a channel that loses an entry recomputes its fold; a channel that loses none stays, out of a phase of its unit. -/
  folded : ∀ d, (t.chan d).stack ≠ (e.chan d).stack ∨ (e.chan d).target = (e.chan d).fold (e.unit (unitOf d)).foldsFromBase →
    (t.chan d).target = (t.chan d).fold (t.unit (unitOf d)).foldsFromBase
  kept : ∀ d, (t.chan d).stack = (e.chan d).stack → (e.unit (unitOf d)).phase = .none → t.chan d = e.chan d
  /-- The units, the speed monitor and the scaling watch are not touched, but for the end of a phase that a fold brings (R73,
  R76). -/
  unit : ∀ u, (e.unit u).phase = .none → t.unit u = e.unit u
  tsm : t.tsm = e.tsm
  swu : t.swu = e.swu
  /-- Step 4, R61: the review of LINK_SILENT of the old writer in the channel's group; the other groups stay, but for a GO in
  flight that ends. -/
  group : ∀ g, (g ≠ chanGroup c ∨ ∀ w, ¬e.reviewsLink c new w) →
    t.group g = { e.group g with busy := (t.group g).busy }
  reviewed : ∀ w, e.reviewsLink c new w →
    let x := (e.group (chanGroup c)).without (.linkSilent w) e.ms
    ∃ l, t.group (chanGroup c) = { x with level := l, busy := (t.group (chanGroup c)).busy } ∧
      (l = .alarm ↔ x.level ≠ .trip ∧ x.asksAlarm) ∧
      (l ≠ x.level → ∀ m, (t.port m).Told ⟨e.ms, .groupLevel (chanGroup c) l x.firstOut⟩)
  /-- Step 5: HANDOVER_DONE to the parties and to the readers after the change; it is the only record where no entry left a
  stack and nothing was reviewed. -/
  told : ∀ m, ((e.entry c).writer = some m ∨ new = some m ∨ (e.entry c).readers.has m = true) →
    (t.port m).Told ⟨e.ms, .handoverDone c (e.entry c).writer new⟩
  queue : ∀ m, (e.port m).queue <+: (t.port m).queue
  quiet : (t.chan c).stack = (e.chan c).stack → (∀ w, ¬e.reviewsLink c new w) → ∀ m, t.port m =
    if (e.entry c).writer = some m ∨ new = some m ∨ (e.entry c).readers.has m = true then
      (e.port m).append ⟨e.ms, .handoverDone c (e.entry c).writer new⟩
    else e.port m

end Sys2Proof.Machine
end

