-- ==== Sys2Proof/WellFormed.lean ====
section
/-! DEFINITION. Which terms stand for an arrival the part can meet. `exec` gives every term a meaning; the checks are for
those who send commands. -/

namespace Sys2Proof

/-- R159: a request transaction has a first byte other than 0x00. -/
def requestBytesOk (bytes : List Byte) : Bool :=
  match bytes with
  | [] => false
  | b :: _ => decide (b ≠ 0)

/-- R160, R161 step 4: a frame answered BAD_FRAME is a received request frame that is faulted, or that has a known code
and another payload length. -/
def badFrameOk (m : Master) (bytes : List Byte) : Bool :=
  requestBytesOk bytes && decide (Machine.decodeFrame m bytes = .badFrame m bytes)

/-- R161 step 3: the code is absent from Table 9-3, and is not that of a fetch. -/
def unknownCodeOk (code : Byte) : Bool := decide (code ≠ 0) && !Machine.knownCode code

/-- R183: a page is 32 bytes. -/
def pageDataOk (data : List Byte) : Bool := decide (data.length = 32)

/-- R175: the device answers the 4096 bytes of its contents. -/
def answeredOk : Option (List Byte) → Bool
  | none => true
  | some bytes => decide (bytes.length = 4096)

/-- The well-formed commands. -/
def Instr.wellFormed : Instr → Bool
  | .requestTransactionEnd _ bytes => requestBytesOk bytes
  | .fetch _ n => decide (1 ≤ n)
  | .badFrame m bytes => badFrameOk m bytes
  | .unknownRequest _ _ code => unknownCodeOk code
  | .profileWrite _ _ _ data => pageDataOk data
  | .profileLoadComplete a => answeredOk a
  | .status .. | .portReset .. | .readEvent .. | .setPoint .. | .force .. | .unforce .. | .readChannel ..
  | .readInput .. | .claim .. | .releaseCh .. | .offer .. | .accept .. | .lock .. | .readMap .. | .setNext ..
  | .go .. | .readUnit .. | .releaseTrip .. | .ack .. | .readLog .. | .setLab .. | .readScale .. | .readMeter ..
  | .profileRead .. | .profileCheck .. | .silenceTimerExpiry .. | .offerExpiry .. | .rampTick | .diSample ..
  | .scanStart | .conversionEnd .. | .pulseActiveEdge .. | .signalTimeout .. | .periodCounterOverflow ..
  | .highPhaseEnd .. | .periodBoundary .. | .oneshotDelayExpiry .. | .oneshotPulseExpiry .. | .drainTimerExpiry ..
  | .pageWriteEnd | .powerOnReset | .warmReset | .startUpBegin => true

end Sys2Proof
end

