-- ==== Sys2Proof/Certificates/Slice0/Obligations.lean ====
section
/-! DEFINITION. The statements for the provers. -/

open Sys2Proof Sys2Proof.Machine

/-! ### The machine -/

/-- The command at the front of the queue runs, on the state with the queue's rest. -/
def Obligations.StepRunsFrontCommand : Prop :=
  ∀ (c : Instr) (rest : List Instr) (s : State), s.pending = c :: rest → step s = exec c { s with pending := rest }

/-- No run stops, from any state: every request is answered, and every arrival has its effect. -/
def Obligations.EveryRunGoesOn : Prop := ∀ s : State, Safe s

/-- What the part does with no command waiting (the model's choice, log 2 and log 3): a received frame at some port is taken,
the oldest there; with none, a 10 MHz tick passes outside reset (log 15), and with it the one arrival it makes due, if one is
due: a phase lasts its counts (R2), the period counter overflows at 2^24 (R40), an offer and a scan come at their times of the
millisecond counter (R58, R29), and the timers at their ends. The tick moves the phase counters (R2), the period counters and
signal timers (R38, R40), and, at the ten-thousandth, the millisecond counter, the ages (R33) and the timers of the one-shots
(R8, R9), the drains (R74), the ports (R170) and the page write (R183), which count the milliseconds of the timebase (log 42).
-/
def Obligations.IdleStep : Prop :=
  ∀ s : State, s.pending = [] →
    ((∃ m, (s.port m).received ≠ []) → ∃ m f rest, (s.port m).received = f :: rest ∧ step s = exec (decodeFrame m f) s) ∧
    ((∀ m, (s.port m).received = []) →
      (s.run = .inReset → step s = .next s) ∧
      (s.run ≠ .inReset →
        let t := s.clock
        let dueNow := (if t.tick = 0 then tickArrivals ++ msArrivals else tickArrivals).filter t.due
        let whole := 10000 ≤ s.tick + 1
        let down := fun n : Option Nat => if whole then n.map (· - 1) else n
        (if whole then t.tick = 0 ∧ t.ms = s.ms + 1 else t.tick = s.tick + 1 ∧ t.ms = s.ms) ∧
        (∀ m, t.port m = { s.port m with timer := down (s.port m).timer }) ∧
        (∀ u, t.unit u = { s.unit u with timer := down (s.unit u).timer }) ∧
        t.pfl = { s.pfl with busy := down s.pfl.busy } ∧
        (∀ n, t.analog n = { s.analog n with
          age := if whole then min 4294967295 ((s.analog n).age + 1) else (s.analog n).age }) ∧
        (∀ c,
          let x := s.chan c
          let y := t.chan c
          y = { x with timer := down x.timer, count := y.count, sub := y.sub } ∧
          (x.wave = .static → y.count = x.count ∧ y.sub = x.sub) ∧
          (x.wave ≠ .static → if x.sub + 1 < 2 ^ x.params.presc then y.count = x.count ∧ y.sub = x.sub + 1
            else y.count = x.count + 1 ∧ y.sub = 0)) ∧
        (∀ j,
          let x := s.pulse j
          let y := t.pulse j
          y = { x with count := y.count, sub := y.sub, timer := y.timer, timerSub := y.timerSub } ∧
          (x.running = false → y.count = x.count ∧ y.sub = x.sub) ∧
          (x.running = true → if x.sub + 1 < 2 ^ x.params.presc then y.count = min 16777216 x.count ∧ y.sub = x.sub + 1
            else y.count = min 16777216 (x.count + 1) ∧ y.sub = 0) ∧
          match x.timer with
          | none => y.timer = none ∧ y.timerSub = x.timerSub
          | some n => if x.timerSub + 1 < 10000 then y.timer = some n ∧ y.timerSub = x.timerSub + 1
              else y.timer = some (n + 1) ∧ y.timerSub = 0) ∧
        { t with
          tick := s.tick, ms := s.ms, ports := s.ports, units := s.units, pfl := s.pfl, ai := s.ai, ch := s.ch
          pi := s.pi } = s ∧
        (t.due .rampTick = true ↔ t.ms.toNat % 100 = 0) ∧
        (t.due .scanStart = true ↔ t.run = .running ∧ t.asu.pos = none ∧ (t.ms - t.asu.nextScan).toNat < 2 ^ 31) ∧
        (∀ j,
          let x := t.pulse j
          (t.due (.signalTimeout j) = true ↔ x.timer = some x.params.timeout ∧ x.timerSub = 0) ∧
          (t.due (.periodCounterOverflow j) = true ↔ x.running = true ∧ x.quality ≠ .noSignal ∧ 16777216 ≤ x.count)) ∧
        (∀ m, t.due (.silenceTimerExpiry m) = true ↔ (t.port m).timer = some 0) ∧
        (∀ u, t.due (.drainTimerExpiry u) = true ↔ (t.unit u).timer = some 0) ∧
        (t.due .pageWriteEnd = true ↔ t.pfl.busy = some 0) ∧
        (∀ c,
          let x := t.chan c
          (t.due (.highPhaseEnd c) = true ↔ x.wave = .high ∧ ∀ h l, x.pair = .counts h l → h ≤ x.count) ∧
          (t.due (.periodBoundary c) = true ↔ x.wave = .low ∧ ∀ h l, x.pair = .counts h l → l ≤ x.count) ∧
          (t.due (.oneshotDelayExpiry c) = true ↔ x.oneShot = .delay ∧ x.timer = some 0) ∧
          (t.due (.oneshotPulseExpiry c) = true ↔ x.oneShot = .pulse ∧ x.timer = some 0) ∧
          (t.due (.offerExpiry c) = true ↔ ∃ o, (t.entry c).offer = some o ∧ o.expiry = t.ms)) ∧
        (dueNow = [] → step s = .next { t with draws := t.draws + 1 }) ∧
        ∀ i, dueNow = [i] → step s = exec i { t with draws := t.draws + 1 }))

/-! ### Resets and start-up -/

/-- What every block holds right after a power-on reset. The channels (R26), the ports (R174), the levels, unrecorded sets and
LOG_FULL flags (R107), the meter (R157) and the loader (R178) are the manual's. The rest is the model's choice: a counter that
already stands at 0 (log 15), the parameters, writers, readers, lab values and timeouts of Table 10-4 (log 12), and the values
that set-up will give the inputs, the units, the speed monitor and the scaling watch, with everything else 0, stopped or
empty (log 13); an EEPROM of which nothing is known and a blank mirror (log 10). -/
def Obligations.ResetLeaves : Prop :=
  let s := State.reset
  let p := Profile.default
  s.run = .inReset ∧ s.tick = 0 ∧ s.ms = 0 ∧ s.pending = [] ∧ s.draws = 0 ∧
  s.pfl = { state := .loading, failing := 0, mirror := [], busy := none, write := none, eeprom := [] } ∧
  (∀ c, s.chan c = {
      params := p.chans[c], base := 0, stack := [], target := 0, applied := 0, pair := .staticLow, wave := .static
      count := 0, sub := 0, pendingPair := none, lowLimit := false, oneShot := .idle, timer := none } ∧
    (s.chan c).pin = false) ∧
  (∀ m, s.port m = {
      buffer := .empty, partialFlag := false, received := [], queue := [], lost := false, silent := false
      silentSince := 0, timer := none, timeout := p.silence[masterIdx m], sdo := [] } ∧
    (s.port m).attention = false) ∧
  (∀ g, s.group g = {
    level := .trip, log := [], unrecorded := [], logFull := false, tripList := p.tripLists[groupIdx g]
    busy := false, started := 0 }) ∧
  s.hmt = {
    kwh := 0, residue := 0, reverse := false, unmeteredS := 0, unmeteredMs := 0, outcome := .none, power := 0
    lastTime := 0, cpW := p.cpW } ∧
  (∀ c, s.entry c = { writer := p.writers[c], readers := p.readers[c], locked := false, offer := none }) ∧
  s.offerTimeout = p.offerTimeout ∧ s.actions = p.actions ∧
  s.asu = { list := p.scanList, period := p.scanPeriod, pos := none, nextScan := 0 } ∧
  (∀ n, s.analog n = {
    params := p.ais[n], code := 0, value := 0, quality := .unknown, acc := none, age := 0
    active0 := false, active1 := false }) ∧
  s.snap.time = 0 ∧ (∀ n : Fin 16, s.snap.ai[n] = ⟨0, .unknown⟩) ∧ (∀ j : Fin 12, s.snap.pi[j] = ⟨0, .unknown⟩) ∧
  (∀ j, s.pulse j = {
    params := p.pis[j], quality := .unknown, running := false, count := 0, sub := 0, latched := 0
    rate := 0, acc := none, timer := none, timerSub := 0 }) ∧
  (∀ d : Fin 12, s.di[d] = { activeLow := p.activeLow[d], history := [], filtered := false }) ∧
  (∀ u, s.unit u = {
    params := p.units[u], state := .isolated, next := .isolated, phase := .none, dest := none
    timer := none, protAltered := false }) ∧
  s.tsm = {
    params := p.tsm, demand := 0, speed := 0, quality := .unknown, overspeed := false, run := 0, speedLost := false } ∧
  s.swu.params = p.swu ∧ s.swu.cSil = p.cSil ∧ s.swu.pBub = p.pBub ∧ s.swu.counter = 0 ∧ s.swu.lastTime = 0 ∧
  s.swu.ex = {
    outcome := .none, q := 0, dT1 := 0, dT2 := 0, dTm := 0, ua := 0, c := 0, acc := none, cf := 0, fouling := false } ∧
  s.swu.sil = { outcome := .none, tLim := 0, sm := 0, margin := false, trip := false, counter := 0 } ∧
  (∀ i : Fin 8, s.swu.cal[i] = { outcome := .none, pInt := 0, cm := 0, active := false }) ∧
  ∀ k, s.guard k = { state := .clear, ceiling := none, margin := 0, status := .none }

/-- The laws below hold right after a power-on reset. -/
def Obligations.ResetMeetsLaws : Prop :=
  State.reset.QueuesFit ∧ State.reset.StacksOk ∧ State.reset.ChannelsFollow ∧ State.reset.MapOk ∧ State.reset.LogsOk ∧
  State.reset.LevelsFollow ∧ State.reset.TripsHold ∧ State.reset.TripStatesOk ∧ State.reset.TrippedAtRest ∧
  State.reset.BusyOk ∧ State.reset.GuardsMatch ∧ State.reset.CeilingsOk ∧ State.reset.StoresOk ∧ State.reset.ValuesFit ∧
  State.reset.MeterOk ∧ State.reset.TripListsOk

/-- R157, R178, R179, R183: a power-on reset leaves the reset state with the EEPROM, in which each byte of a page write it
cuts is the old one or the new one; a warm reset keeps the meter's counts and a write cycle in progress; START_UP_BEGIN
ends a reset and restarts the millisecond counter. What a warm reset leaves in the mirror is the model's choice (log 10), and
so are that a write cycle's bytes are free (log 11), that a cycle stays in progress through a warm reset until the load
(log 41), what the reset state holds where the manual gives no value (log 12, log 13), and when START_UP_BEGIN comes
(log 38). -/
def Obligations.ResetsBegin : Prop :=
  ∀ s : State, s.StoresOk →
    (∃ m, exec .powerOnReset s = .next { State.reset with
        pending := s.pending, draws := s.draws + 1, pfl := { State.reset.pfl with eeprom := m } } ∧
      (s.pfl.write = none → m = s.pfl.eeprom) ∧
      ∀ w, s.pfl.write = some w → ∀ a, m.read a = s.pfl.eeprom.read a ∨
        (w.offset ≤ a ∧ a < w.offset + w.data.length ∧ m.read a = w.data.getD (a - w.offset) 0)) ∧
    exec .warmReset s = .next { State.reset with
      pending := s.pending
      draws := s.draws
      hmt := { State.reset.hmt with
        kwh := s.hmt.kwh, residue := s.hmt.residue, reverse := s.hmt.reverse
        unmeteredS := s.hmt.unmeteredS, unmeteredMs := s.hmt.unmeteredMs }
      pfl := { State.reset.pfl with eeprom := s.pfl.eeprom, write := s.pfl.write, mirror := s.pfl.mirror } } ∧
    exec .startUpBegin s = .next (if s.run = .inReset then { s with run := .startUp, ms := 0, tick := 0 } else s)

/-- R26, R45, R46, R65, R85, R107, R122, R148, R174, R177, R179 to R181: the read of the EEPROM completes. The mirror takes its
bytes, or those the device answered (log 10), after a write cycle in progress; the profile is GOOD exactly when no item fails,
and every block takes its parameters, or the defaults, and its set-up values; every group is in TRIP with the log of
Table 5-8; every listed channel stands at its TRIP entry, a ONESHOT one such as the trip coil OC15 armed (R8, R120), and every
other one at its safe level; each port leaves start-up with PROFILE_DONE as its one record and its silence timer running. That
a cause action record of a propagated cause pushes its entries beneath the TRIP entries of start-up is the model's choice
(log 37). -/
def Obligations.LoadCompletes : Prop :=
  ∀ (s : State) (answered : Option (List Byte)), s.run = .startUp → s.StoresOk →
    ∃ t, exec (.profileLoadComplete answered) s = .next t ∧
      (∀ bytes, answered = some bytes → ∀ a, t.pfl.mirror.read a = if a < 4096 then bytes.getD a 0 else 0) ∧
      (answered = none → s.pfl.write = none → t.pfl.mirror = s.pfl.eeprom) ∧
      (∀ w, answered = none → s.pfl.write = some w → ∀ a, t.pfl.mirror.read a =
        if w.offset ≤ a ∧ a < w.offset + w.data.length then w.data.getD (a - w.offset) 0 else s.pfl.eeprom.read a) ∧
      t.pfl.eeprom = t.pfl.mirror ∧ t.pfl.write = none ∧ t.pfl.busy = none ∧
      t.pfl.failing = t.pfl.mirror.validate ∧ t.pfl.state = (if t.pfl.failing = 0 then .good else .bad) ∧
      t.run = .running ∧ t.ms = s.ms ∧ t.pending = s.pending ∧
      (let p := if t.pfl.failing = 0 then t.pfl.mirror.profile else Profile.default
       (∀ c, (t.chan c).params = p.chans[c] ∧ (t.chan c).base = p.chans[c].safe ∧
         t.entry c = { writer := p.writers[c], readers := p.readers[c], locked := false, offer := none }) ∧
       (∀ n, t.analog n = {
         params := p.ais[n], code := 0, value := 0, quality := .unknown, acc := none, age := 0
         active0 := false, active1 := false }) ∧
       (∀ j, t.pulse j = {
         params := p.pis[j], quality := .unknown, running := false, count := 0, sub := 0, latched := 0
         rate := 0, acc := none, timer := some 0, timerSub := 0 }) ∧
       (∀ d : Fin 12, t.di[d] = { activeLow := p.activeLow[d], history := [], filtered := false }) ∧
       (∀ n : Fin 16, t.snap.ai[n] = ⟨0, .unknown⟩) ∧ (∀ j : Fin 12, t.snap.pi[j] = ⟨0, .unknown⟩) ∧
       (∀ u, t.unit u = {
         params := p.units[u], state := .isolated, next := .isolated, phase := .none, dest := none
         timer := none, protAltered := false }) ∧
       (∀ m, (t.port m).timeout = p.silence[masterIdx m]) ∧ t.offerTimeout = p.offerTimeout ∧ t.actions = p.actions ∧
       t.asu = {
         list := p.scanList, period := p.scanPeriod, pos := some 0
         nextScan := s.ms + BitVec.ofNat 32 p.scanPeriod } ∧
       t.tsm = {
         params := p.tsm, demand := 0, speed := 0, quality := .unknown, overspeed := false, run := 0
         speedLost := false } ∧
       t.swu = { State.reset.swu with params := p.swu, cSil := p.cSil, pBub := p.pBub } ∧
       t.hmt = { s.hmt with cpW := p.cpW } ∧
       let alarms := fun c => t.alarmed .field .hxTripped c (t.alarmed .field .tgTripped c [])
       (∀ g, (t.group g).tripList = p.tripLists[groupIdx g] ∧
         (∀ x ∈ (t.group g).tripList, (t.chan x.channel).target = x.value ∧ (t.chan x.channel).applied = x.value ∧
           (t.chan x.channel).stack = alarms x.channel ++ [⟨.trip, .value, x.value, s.ms⟩] ∧
           let q := p.chans[x.channel]
           (q.mode = .oneshot → q.safe = 0 → x.value ≠ 0 → ((t.chan x.channel).oneShot, (t.chan x.channel).timer) =
             if q.delay = 0 then (.pulse, some q.pulse) else (.delay, some q.delay))) ∧
         ∀ c ∈ groupChannels g, (∀ x ∈ (t.group g).tripList, x.channel ≠ c) →
           (t.chan c).target = p.chans[c].safe ∧ (t.chan c).applied = p.chans[c].safe ∧
             (t.chan c).stack = alarms c)) ∧
      (∀ g,
        let made := fun (c : Cause) (k : CauseClass) (momentary active : Bool) =>
          (⟨c, k, momentary, s.ms, s.ms, 1, active, false⟩ : CauseRec)
        let log := made .reset .trip true false :: (if t.pfl.failing = 0 then [] else [made .profileBad .trip false true]) ++
          if g = .field then [made .tgTripped .alarm false true, made .hxTripped .alarm false true]
          else [made .fieldTripped .trip false true]
        t.group g = { t.group g with
          level := .trip, log := log, unrecorded := [], logFull := false, busy := false, started := 0 }) ∧
      ∀ m, (t.port m).queue = [⟨s.ms, .profileDone t.pfl.state t.pfl.failing⟩] ∧ (t.port m).lost = false ∧
        (t.port m).timer = if (t.port m).timeout = 0 then none else some ((t.port m).timeout * 100)

/-! ### Laws that every step keeps -/

/-- R165, R166: no event queue holds more than 16 records, and a record about a channel or a unit that a step adds to a queue
goes to a master that reads the channel, or the unit's principal channel. The map in its form gives it for the records of the
handovers, whose parties are readers (R47, R56). -/
def Obligations.StepKeepsQueues : Prop := ∀ s t : State, s.QueuesFit → step s = .next t → t.QueuesFit ∧
  (s.MapOk → ∀ m, ∀ x ∈ (t.port m).queue, x ∉ (s.port m).queue → ∀ c, x.body.readBy = some c →
    (t.entry c).readers.has m = true)

/-- R16: every override stack stays in its form: at most four entries, no identity twice, a TRIP entry only on top. -/
def Obligations.StepKeepsStacks : Prop := ∀ s t : State, s.StacksOk → step s = .next t → t.StacksOk

/-- R8 to R10, R12, R14, R20, R21: the target of every channel stays its fold, and the applied value follows it wherever the
manual says it does at once. -/
def Obligations.StepKeepsTargets : Prop :=
  ∀ s t : State, s.StacksOk → s.ChannelsFollow → step s = .next t → t.ChannelsFollow

/-- R47, R56, R59: the authority map stays in its form, and a LOCKED entry keeps its lock and its writer in every step but a
reset and a profile load. -/
def Obligations.StepKeepsMap : Prop :=
  ∀ s t : State, s.MapOk → step s = .next t → t.MapOk ∧
    ((∀ i, s.pending.head? = some i → i ≠ .powerOnReset ∧ i ≠ .warmReset ∧ ∀ a, i ≠ .profileLoadComplete a) →
      ∀ c, (s.entry c).locked = true → (t.entry c).locked = true ∧ (t.entry c).writer = (s.entry c).writer)

/-- R86, R88, R89, R91, R92: every cause log and unrecorded set stays in its form, and the level of a group outside TRIP stays
the one they ask for. -/
def Obligations.StepKeepsLogs : Prop := ∀ s t : State, step s = .next t →
  (s.LogsOk → t.LogsOk) ∧ (s.LevelsFollow → t.LevelsFollow)

/-- R97: while a trip-class cause of a group is active, the group stays in TRIP. -/
def Obligations.ActiveTripCauseHoldsTrip : Prop :=
  ∀ s t : State, s.LogsOk → s.TripsHold → step s = .next t → t.TripsHold

/-- R79, R97, R101: while a group is in TRIP, none of its units is RUNNING, PAUSED or in a phase, and, in operation, every
channel of its trip list holds a TRIP entry with the listed value (`LoadCompletes` gives it as operation begins). The trip-list
state of every unit stays STANDBY or ISOLATED (R66). A group is busy exactly while a unit of it is in a phase (R78). -/
def Obligations.TrippedUnitsRest : Prop :=
  ∀ s t : State, step s = .next t →
    (s.TripStatesOk → s.TrippedAtRest → t.TripStatesOk ∧ t.TrippedAtRest) ∧ (s.BusyOk → t.BusyOk) ∧
    (s.run = .running → t.run = .running → s.StacksOk → s.TripListsOk → s.TripListsHold → t.TripListsHold)

/-- R96: every trip list names channels of its group alone, none twice. -/
def Obligations.StepKeepsTripLists : Prop := ∀ s t : State, s.TripListsOk → step s = .next t → t.TripListsOk

/-- R140: a guard stays CLEAR exactly while its channel's stack holds no SCALE entry, and a SCALE entry stays a CEILING whose
value is its guard's ceiling, between the guard's floor and 999. -/
def Obligations.StepKeepsGuards : Prop := ∀ s t : State, s.StacksOk → s.GuardsMatch → step s = .next t →
  t.GuardsMatch ∧ (s.ValuesFit → s.CeilingsOk → t.CeilingsOk)

/-- R175, R183: the mirror and the EEPROM stay in their canonical form. -/
def Obligations.StepKeepsStores : Prop := ∀ s t : State, s.StoresOk → step s = .next t → t.StoresOk

/-- R20: every value of a channel stays in 0 to 1000. -/
def Obligations.StepKeepsValues : Prop := ∀ s t : State, s.ValuesFit → step s = .next t → t.ValuesFit

/-- R152: the count never decreases except by power-on reset, its reading with the residue never decreases while the count is
below its full scale, and the residue stays below a kilowatt-hour. -/
def Obligations.MeterNeverFalls : Prop :=
  ∀ s t : State, s.MeterOk → step s = .next t → t.MeterOk ∧
    (s.pending.head? ≠ some .powerOnReset → s.hmt.kwh ≤ t.hmt.kwh ∧
      (t.hmt.kwh < 4294967295 →
        s.hmt.kwh * 36000000000000 + s.hmt.residue ≤ t.hmt.kwh * 36000000000000 + t.hmt.residue))


/-! ### The link ports -/

/-- R159, R163: a request transaction waits to be taken with its bytes, the response held before it is gone, and SDO gave
0xFF for each byte; one whose first byte is 0x00 is a fetch, and one without a whole byte has no effect. -/
def Obligations.RequestTransaction : Prop :=
  ∀ (s : State) (m : Master) (b : Byte) (rest : List Byte),
    exec (.requestTransactionEnd m []) s = .next s ∧
    (b = 0 → exec (.requestTransactionEnd m (b :: rest)) s = exec (.fetch m (rest.length + 1)) s) ∧
    (b ≠ 0 → ∃ t, exec (.requestTransactionEnd m (b :: rest)) s = .next t ∧
      t.port m = { s.port m with
        received := (s.port m).received ++ [b :: rest], buffer := .pending, partialFlag := false,
        sdo := List.replicate (rest.length + 1) 0xFF } ∧
      (∀ k, k ≠ m → t.port k = s.port k) ∧ { t with ports := s.ports } = s)

/-- R163, R164: what a fetch of n whole bytes returns from each state of the buffer, and the buffer after it. A fetch of no
whole byte has no effect. That the byte clocked with 0x00 gives the first byte of the frame is the model's reading (log 5). -/
def Obligations.FetchReturnsBuffer : Prop :=
  ∀ (s : State) (m : Master) (n : Nat), exec (.fetch m 0) s = .next s ∧
    ∃ t, exec (.fetch m (n + 1)) s = .next t ∧ (∀ k, k ≠ m → t.port k = s.port k) ∧ { t with ports := s.ports } = s ∧
      match (s.port m).buffer with
      | .empty => t.port m = { s.port m with
          sdo := [0xA5, 0x00, 0x41, 0x00, 0xEC, 0x0E].take (n + 1) ++ List.replicate (n + 1 - 6) 0xFF }
      | .pending => t.port m = { s.port m with sdo := List.replicate (n + 1) 0xFF }
      | .ready r =>
        let body := (if (s.port m).partialFlag then 0xA4 else 0xA5) :: r.tag :: r.result.code ::
          BitVec.ofNat 8 r.payload.length :: r.payload
        let frame := body ++ crc16Tail body
        if r.payload.length + 6 ≤ n + 1 then
          t.port m = { s.port m with
            sdo := frame ++ List.replicate (n + 1 - (r.payload.length + 6)) 0xFF, buffer := .empty, partialFlag := false }
        else t.port m = { s.port m with sdo := frame.take (n + 1), partialFlag := true }

/-- R160, R161, Table 9-3: the frame of every well-formed request is received as that request, and is no fetch. -/
def Obligations.FrameRoundTrip : Prop :=
  ∀ (i : Instr) (m : Master), i.wellFormed = true → requestPort i = some m →
    ∃ f, encodeFrame i = some f ∧ decodeFrame m f = i ∧ f.head? ≠ some 0 ∧ 5 ≤ f.length ∧ f.length ≤ 53

/-- R161 step 1: until the ports leave start-up every request is answered STARTING with its tag, and nothing else
changes but the frame that is taken (log 4). The tag 0x00 of the answer to fewer than two bytes is the model's choice
(log 39). -/
def Obligations.StartingUntilOperation : Prop :=
  ∀ s : State, s.run ≠ .running →
    (∀ (i : Instr) (m : Master) (code tag : Byte) (p : List Byte), requestPort i = some m →
      requestFields i = some (code, tag, p) → exec i s = .next ((s.takeFrame m).respond m tag .starting [])) ∧
    (∀ m tag code, exec (.unknownRequest m tag code) s = .next ((s.takeFrame m).respond m tag .starting [])) ∧
    ∀ m bytes, exec (.badFrame m bytes) s = .next ((s.takeFrame m).respond m (bytes.getD 1 0) .starting [])

/-- R62, R161 step 5, R170, R171: a valid frame is taken (log 4) and reloads the silence timer. It returns a SILENT port to
ACTIVE before its request is decided: the other ports are told, the LINK entries on the channels its master writes go, and
LINK_SILENT is deactivated in the groups of those channels. The map, the units out of a phase and every other entry stay. -/
def Obligations.ValidFrameHeard : Prop :=
  ∀ (s : State) (m : Master),
    let e := s.heard m
    let t := s.modPort m fun p => { p with
      received := p.received.tail, silent := false, timer := if p.timeout = 0 then none else some (p.timeout * 100) }
    ((s.port m).silent = false → e = t) ∧
    ((s.port m).silent = true → Same t e ∧ e.swu = s.swu ∧ e.tsm = s.tsm ∧
      (∀ k, k ≠ m → (e.port k).Told ⟨s.ms, .portHeard m (s.ms - (s.port m).silentSince)⟩ ∧
        (s.port k).queue <+: (e.port k).queue) ∧
      (∀ c, (s.entry c).writer = some m → hasSource .link (e.chan c).stack = false) ∧
      (∀ c, (e.chan c).stack.Sublist (s.chan c).stack ∧
        ∀ x ∈ (s.chan c).stack, ((s.entry c).writer = some m → x.source ≠ .link) →
          x.source ≠ .alarm (.linkSilent m) → x ∈ (e.chan c).stack) ∧
      (∀ g, (∃ c ∈ groupChannels g, (s.entry c).writer = some m) →
        (∀ r ∈ (e.group g).log, r.cause = .linkSilent m → r.active = false) ∧
        (s.LogsOk → ¬(e.group g).Holds (.linkSilent m))) ∧
      (∀ g, (∀ c ∈ groupChannels g, (s.entry c).writer ≠ some m) →
        e.group g = { s.group g with busy := (e.group g).busy }) ∧
      ∀ u, (s.unit u).phase = .none → e.unit u = s.unit u)

/-- R160, R161 steps 2 to 4, R163: what taking a request leaves at its port, whatever its answer: its frame is gone from those
that wait, and the buffer is READY, holding its response, with the partial flag clear; no other port and no block changes. An
unknown code, and a frame that is BAD_FRAME for its length alone, are valid frames; a faulted frame is not, and changes nothing
but the buffer. The model's are: that a request that is taken consumes the oldest waiting frame (log 4), that the buffer is
READY while another waits (log 33), that a frame of a wrong length for its code is the row BAD_FRAME (log 29), and the counter
of draws (log 27). -/
def Obligations.PortAnswers : Prop :=
  (∀ (s : State) (m : Master) (tag : Byte) (answer : Result) (payload : List Byte),
    let t := s.takeFrame m
    let r := s.respond m tag answer payload
    t.port m = { s.port m with received := (s.port m).received.tail } ∧
    r.port m = { s.port m with buffer := .ready ⟨tag, answer, payload⟩, partialFlag := false } ∧
    (∀ k, k ≠ m → t.port k = s.port k ∧ r.port k = s.port k) ∧ { t with ports := s.ports } = s ∧
    r.draws = s.draws + 1 ∧ { r with ports := s.ports, draws := s.draws } = s) ∧
  ∀ (s : State) (m : Master) (tag code : Byte) (bytes : List Byte), s.run = .running →
    exec (.unknownRequest m tag code) s = .next ((s.heard m).respond m tag .unknownRequest []) ∧
    let bad := bytes.length < 5 ∨ 48 < (bytes.getD 2 0).toNat ∨ bytes.length ≠ (bytes.getD 2 0).toNat + 5 ∨
      bytes.drop (bytes.length - 2) ≠ crc16Tail (bytes.take (bytes.length - 2))
    (bad → exec (.badFrame m bytes) s = .next ((s.takeFrame m).respond m (bytes.getD 1 0) .badFrame [])) ∧
    (¬bad → exec (.badFrame m bytes) s = .next ((s.heard m).respond m (bytes.getD 1 0) .badFrame []))

/-- R161 step 6, R162, Table 9-4: a field out of its range is answered BAD_INDEX, before any check of authority. -/
def Obligations.OutOfRangeRefused : Prop :=
  ∀ (s : State) (i : Instr) (m : Master) (code tag : Byte) (p : List Byte), s.run = .running → outOfRange i →
    requestPort i = some m → requestFields i = some (code, tag, p) →
      exec i s = .next ((s.heard m).respond m tag .badIndex [])

/-- R167, R169: STATUS returns the state of the port and clears LOST; READ_EVENT removes the oldest record. That STATUS returns
no first failing item, of which R184 speaks and R169 does not, is the model's reading (log 46). -/
def Obligations.StatusAndEvents : Prop :=
  ∀ (s : State) (m : Master) (tag : Byte), s.run = .running →
    let e := s.heard m
    (∃ r : State, exec (.status m tag) s = .next (r.respond m tag .ok
        (byte1 (masterCode m) ++ word4 e.ms ++ byte1 (e.port m).queue.length ++ flag1 (e.port m).lost ++
          flags1 [(e.port .field).silent, (e.port .turbine).silent, (e.port .heat).silent] ++
          byte1 (e.port m).timeout ++ byte1 (e.group .field).level.code ++ byte1 (e.group .turbine).level.code ++
          byte1 (e.group .heat).level.code ++
          flags1 [(e.group .field).logFull, (e.group .turbine).logFull, (e.group .heat).logFull] ++
          byte1 e.pfl.state.code ++ flag1 e.pfl.busy.isSome)) ∧
      r.port m = { e.port m with lost := false } ∧ (∀ k, k ≠ m → r.port k = e.port k) ∧
      { r with ports := e.ports } = e) ∧
    ((e.port m).queue = [] → exec (.readEvent m tag) s = .next (e.respond m tag .queueEmpty [])) ∧
    ∀ x rest, (e.port m).queue = x :: rest →
      ∃ r : State, exec (.readEvent m tag) s = .next (r.respond m tag .ok
          (byte1 x.body.fields.1 ++ word4 x.stamp ++ byte1 x.body.fields.2.1 ++ detail x.body.fields.2.2.1 ++
            detail x.body.fields.2.2.2 ++ byte1 rest.length)) ∧
        r.port m = { e.port m with queue := rest } ∧ (∀ k, k ≠ m → r.port k = e.port k) ∧ { r with ports := e.ports } = e

/-- R27, R63, R172: PORT_RESET withdraws the offers to and from its master, removes the FORCE entries of the channels it
writes, empties the queue of its port and restarts its timer. The other ports, the entries and the blocks stay. -/
def Obligations.PortReset : Prop :=
  ∀ (s : State) (m : Master) (tag : Byte), s.run = .running →
    let e := s.heard m
    ∃ r : State, exec (.portReset m tag) s = .next (r.respond m tag .ok []) ∧
      r.port m = { e.port m with
        queue := [], lost := false, silent := false,
        timer := if (e.port m).timeout = 0 then none else some ((e.port m).timeout * 100) } ∧
      (∀ c, r.entry c = if (e.entry c).writer = some m ∨ (∃ o, (e.entry c).offer = some o ∧ o.offeree = m) then
        { e.entry c with offer := none } else e.entry c) ∧
      (∀ c o k, (e.entry c).offer = some o → k ≠ m →
        ((e.entry c).writer = some m ∧ k = o.offeree) ∨ ((e.entry c).writer = some k ∧ o.offeree = m) →
          (r.port k).Told ⟨e.ms, .handoverExpired c o.offeree .portReset⟩) ∧
      (∀ c, (r.chan c).stack = if (e.entry c).writer = some m then
        (e.chan c).stack.filter (fun x => decide (x.source ≠ .force)) else (e.chan c).stack) ∧
      Same ({ e with map := r.map }.modPort m fun _ => r.port m) r ∧ r.swu = e.swu ∧ r.tsm = e.tsm ∧
      (∀ g, r.group g = { e.group g with busy := (r.group g).busy }) ∧
      (∀ u, (e.unit u).phase = .none → r.unit u = e.unit u) ∧ ∀ k, k ≠ m → (e.port k).queue <+: (r.port k).queue

/-! ### Reads -/

/-- R25, R49, R64, R84, R121, Table 9-7: READ_CHANNEL, READ_MAP and READ_UNIT return the record to a reader and change
nothing. The drain condition that READ_UNIT reports is that of Table 4-6 (R75). A field with no value to send, and the other
count of a static pair outside WAVEFORM mode, is open (log 6, log 31). -/
def Obligations.ReadsOfChannels : Prop :=
  ∀ (s : State) (m : Master) (tag : Byte) (c : ChanId) (u : UnitId), s.run = .running →
    let e := s.heard m
    let ch := e.chan c
    let x := e.unit u
    (e.unitRampDone u = true ↔ e.RampsDone u) ∧ (e.drainMet u = true ↔ e.Drained u) ∧
    ∃ o : Config.OpenField → BitVec 32,
      exec (.readChannel m tag (BitVec.ofNat 8 c)) s = .next (
        if (e.entry c).readers.has m then e.respond m tag .ok
          (byte1 ch.params.mode.code ++ byte2 ch.base ++ byte1 ch.stack.length ++
            ch.stack.flatMap (fun y => y.source.bytes ++ byte1 y.kind.code ++ byte2 y.value ++ word4 y.stamp) ++
            byte2 ch.target ++ byte2 ch.applied ++
            flags1 [decide (ch.params.mode = .oneshot ∨ ch.applied = ch.target), ch.pendingPair.isSome, ch.lowLimit] ++
            pairBytes ch.params (o .staticCurrent) (o .staticCurrent) ch.pair ++
            (match ch.pendingPair with
              | some p => pairBytes ch.params (o .staticPending) (o .staticPending) p
              | none => byte2 (o .absentPendingHigh).toNat ++ byte2 (o .absentPendingLow).toNat) ++
            byte1 ch.oneShot.code ++
            if c = 8 then
              flag1 e.tsm.params.sequenced ++ byte2 e.tsm.params.s ++ byte2 e.tsm.params.v ++ byte2 e.tsm.demand ++
              byte2 e.tsm.params.threshold ++ byte4 e.tsm.params.tripPeriod ++ byte4 e.tsm.speed ++
              byte1 e.tsm.quality.code ++ flag1 e.tsm.overspeed ++ byte1 e.tsm.run ++ flag1 e.tsm.speedLost
            else [])
        else e.respond m tag .notReader []) ∧
      exec (.readMap m tag (BitVec.ofNat 8 c)) s = .next (
        if (e.entry c).readers.has m then e.respond m tag .ok
          (byte1 (writerCode (e.entry c).writer) ++ flags1 [(e.entry c).readers.field, (e.entry c).readers.turbine,
            (e.entry c).readers.heat] ++ flag1 (e.entry c).locked ++
            (match (e.entry c).offer with
              | some y => byte1 (masterCode y.offeree) ++ word4 (y.expiry - e.ms)
              | none => byte1 0 ++ word4 (o .absentOfferExpiry)) ++
            match (e.entry c).writer with
            | some w => flag1 (e.port w).silent
            | none => [0xFF])
        else e.respond m tag .notReader []) ∧
      exec (.readUnit m tag (BitVec.ofNat 8 u)) s = .next (
        if (e.entry (principal u)).readers.has m then e.respond m tag .ok
          (byte1 x.state.code ++ byte1 x.next.code ++ byte1 x.phase.code ++
            (match x.dest with
              | some d => byte1 d.code
              | none => [0xFF]) ++
            (match x.timer with
              | some t => byte4 t
              | none => word4 (o .stoppedDrainTimer)) ++
            flags1 [x.protAltered, (e.group (unitGroup u)).busy, e.unitRampDone u, e.drainMet u])
        else e.respond m tag .notReader [])

/-- R44, R51, R106, R147, R156, R173, R182, R184, Table 9-7: the reads that are open to every master return their records and
change nothing, but for READ_METER, which then clears REVERSE; the profile requests are answered BUSY during a page
write. That READ_LOG reports "release possible" for a group outside TRIP is the model's reading (log 23). -/
def Obligations.ReadsOfRecords : Prop :=
  ∀ (s : State) (m : Master) (tag : Byte) (n : Fin 16) (j d : Fin 12) (g : Group) (i : Fin 8) (a : Fin 128), s.run = .running →
    let e := s.heard m
    let h := (e.di[d]).history
    exec (.readInput m tag 0 (BitVec.ofNat 8 n)) s = .next (e.respond m tag .ok
      (byte2 (e.analog n).code ++ signed4 (e.analog n).value ++ byte1 (e.analog n).quality.code ++
        byte4 (e.analog n).age ++ flags1 [(e.analog n).active0, (e.analog n).active1])) ∧
    exec (.readInput m tag 1 (BitVec.ofNat 8 j)) s = .next (e.respond m tag .ok
      (byte4 (e.pulse j).latched ++ byte4 (e.pulse j).rate ++ byte1 (e.pulse j).quality.code ++
        flag1 (e.pulse j).running)) ∧
    exec (.readInput m tag 2 (BitVec.ofNat 8 d)) s = .next (e.respond m tag .ok
      (byte1 (8 * h.length + flagsNat h.reverse) ++ flag1 (e.di[d]).filtered ++ flag1 (e.di[d]).activeLow)) ∧
    exec (.readLog m tag (BitVec.ofNat 8 (groupCode g))) s = .next (e.respond m tag .ok
      (byte1 (e.group g).level.code ++
        flags1 [(e.group g).logFull, !(decide ((e.group g).level = .trip) && (e.group g).tripActive)] ++
        byte1 (e.group g).log.length ++
        (e.group g).log.flatMap (fun r => byte2 r.cause.code ++
          flags1 [r.cls.isTrip, r.momentary, r.active, r.acknowledged] ++ word4 r.firstSeen ++ word4 r.lastChange ++
          byte1 r.count) ++
        byte1 (e.group g).unrecorded.length ++
        ((e.group g).unrecorded.take 40).flatMap (fun x => byte2 x.cause.code ++ flag1 x.cls.isTrip))) ∧
    exec (.profileRead m tag (BitVec.ofNat 16 (32 * a.val))) s = .next (
      if e.pfl.busy = none then
        e.respond m tag .ok ((List.range 32).map fun b => e.pfl.mirror.read (32 * a.val + b))
      else e.respond m tag .busy []) ∧
    exec (.profileCheck m tag) s = .next (
      if e.pfl.busy = none then
        e.respond m tag .ok (byte1 (if e.pfl.mirror.validate = 0 then 0 else 1) ++ byte1 e.pfl.mirror.validate)
      else e.respond m tag .busy []) ∧
    let x := e.swu.ex
    let y := e.swu.sil
    let k := e.swu.cal[i]
    let guard := fun (g : Guard) => byte1 g.state.code ++ byte2 (g.ceiling.getD 65535) ++ signed4 g.margin ++
      byte1 g.status.code
    exec (.readScale m tag 0) s = .next (e.respond m tag .ok
      (word4 e.swu.lastTime ++ byte1 (e.swu.params.interval - e.swu.counter) ++ byte1 x.outcome.code ++ byte8 x.q ++
        signed4 x.dT1 ++ signed4 x.dT2 ++ signed4 x.dTm ++ byte8 x.ua ++ byte2 x.c ++ byte2 x.cf ++
        flag1 x.acc.isSome ++ flag1 x.fouling)) ∧
    exec (.readScale m tag 1) s = .next (e.respond m tag .ok
      (byte2 e.swu.cSil ++ byte1 y.outcome.code ++ signed4 y.tLim ++ signed4 y.sm ++ flags1 [y.margin, y.trip] ++
        byte1 y.counter ++ guard e.swu.silGuard)) ∧
    exec (.readScale m tag (BitVec.ofNat 8 (i.val + 2))) s = .next (e.respond m tag .ok
      (byte4 e.swu.pBub[i] ++ byte1 k.outcome.code ++ signed4 k.pInt ++ signed4 k.cm ++ flag1 k.active ++
        guard e.swu.calGuards[i])) ∧
    exec (.readMeter m tag) s = .next ({ e with hmt := { e.hmt with reverse := false } }.respond m tag .ok
      (byte4 e.hmt.kwh ++ byte4 (e.hmt.residue / 10000000) ++ byte8 e.hmt.power ++ byte1 e.hmt.outcome.code ++
        flag1 e.hmt.reverse ++ byte4 e.hmt.unmeteredS ++ byte2 e.hmt.unmeteredMs ++ word4 e.hmt.lastTime ++
        byte2 e.hmt.cpW))

/-! ### Channel requests -/

/-- R8 to R10, R22, R48, R49, R78, R110, R112: SET_POINT in the order of its checks. An accepted value becomes the base, over
1000 as 1000; on OC8 in sequenced mode it is the demand and sets both bases. Targets recompute, and the applied values ramp to
them. -/
def Obligations.SetPointStores : Prop :=
  ∀ (s : State) (m : Master) (tag : Byte) (c : ChanId) (v : Half), s.run = .running →
    let e := s.heard m
    let o := exec (.setPoint m tag (BitVec.ofNat 8 c) v) s
    let d := min 1000 v.toNat
    let p := e.tsm.params
    let both := p.sequenced = true ∧ c = 8
    if (e.entry c).writer ≠ some m then o = .next (e.respond m tag .notWriter [])
    else if p.sequenced = true ∧ c = 9 then o = .next (e.respond m tag .slaved [])
    else if (e.unit (unitOf c)).state = .isolated ∧ (e.unit (unitOf c)).phase = .none then
      o = .next (e.respond m tag .unitIsolated [])
    else ∃ b r : State, o = .next (r.respond m tag (if 1000 < v.toNat then .clamped else .ok) []) ∧
      (both → b = (({ e with tsm := { e.tsm with demand := d } }.modChan 8 fun ch => { ch with base := p.gv1 d }).modChan 9
        fun ch => { ch with base := p.gv2 d })) ∧
      (¬both → b = e.modChan c fun ch => { ch with base := d }) ∧
      Same b r ∧ Settled b r (fun x => x = c ∨ (both ∧ x = 9)) ∧ (∀ x, (r.chan x).stack = (e.chan x).stack) ∧
      (e.ChannelsFollow → ∀ x, (e.chan x).params.mode ≠ .oneshot → (r.chan x).applied = (e.chan x).applied)

/-- R111: the bases of the governor valves, over the ranges of R109. -/
def Obligations.ValveBases : Prop :=
  ∀ (p : TsmParams) (d : Nat), 100 ≤ p.s → p.s ≤ 900 → p.v ≤ p.s / 2 → d ≤ 1000 →
    p.gv1 d = min 1000 (d * 1000 / p.s) ∧
    (d ≤ p.s - p.v → p.gv2 d = 0) ∧
    (p.s - p.v < d → p.gv2 d = min 1000 ((d - (p.s - p.v)) * 1000 / (1000 - (p.s - p.v)))) ∧
    50 ≤ p.s - p.v ∧ p.s - p.v ≤ 900 ∧ 100 ≤ 1000 - (p.s - p.v) ∧ 1000 - (p.s - p.v) ≤ 950 ∧
    (d = p.s → p.gv1 d = 1000) ∧ (d < p.s → p.gv1 d < 1000) ∧ (p.gv2 d = 0 ↔ d ≤ p.s - p.v) ∧
    (d = 1000 → p.gv2 d = 1000)

/-- R8 to R10, R16 to R18, R23, R78, R89, R144: FORCE pushes its entry, its value over 1000 taken as 1000; an entry it
discards goes to its owner. -/
def Obligations.ForcePushes : Prop :=
  ∀ (s : State) (m : Master) (tag : Byte) (c : ChanId) (k : Kind) (v : Half), s.run = .running →
    let e := s.heard m
    let o := exec (.force m tag (BitVec.ofNat 8 c) (BitVec.ofNat 8 k.code) v) s
    let x : Entry := ⟨.force, k, min 1000 v.toNat, e.ms⟩
    if (e.entry c).writer ≠ some m then o = .next (e.respond m tag .notWriter [])
    else ∃ r : State, o = .next (r.respond m tag (if 1000 < v.toNat then .clamped else .ok) []) ∧
      (r.chan c).stack = pushEntry x (e.chan c).stack ∧ (∀ d, d ≠ c → (r.chan d).stack = (e.chan d).stack) ∧
      Same e r ∧ (∀ u, (e.unit u).phase = .none → r.unit u = e.unit u) ∧ GoEnds e r ∧
      ((e.chan c).params.mode = .oneshot → OneShotTakes (e.chan c) (r.chan c)) ∧
      (discardedBy x (e.chan c).stack = none → Settled e r (· = c)) ∧
      ∀ y, discardedBy x (e.chan c).stack = some y →
        (y.source ≠ .scale → r.swu = e.swu ∧ r.tsm = e.tsm ∧ (∀ g, r.group g = { e.group g with busy := (r.group g).busy }) ∧
          ∀ n, (e.entry c).readers.has n = true → (r.port n).Told ⟨e.ms, .overrideLost c y.source y.kind y.value⟩) ∧
        (y.source = .scale →
          (∀ q, guardOf c = some q → r.guard q = { e.guard q with state := .clear, ceiling := none } ∧
            ((e.guard q).state ≠ .clear → ∀ n, (e.entry c).readers.has n = true →
              (r.port n).Told ⟨e.ms, .guardState c .clear .overflow none⟩)) ∧
          let g := e.group (chanGroup c)
          let h := r.group (chanGroup c)
          h = { g.withArrival (.guardLost c) .alarm e.ms with level := h.level, busy := h.busy } ∧
          (g.level ≠ .trip → (h.level = .alarm ↔ h.asksAlarm)) ∧
          ∀ b, g.newRecord (.guardLost c) = some b → ∀ n,
            (r.port n).Told ⟨e.ms, .causeNew (chanGroup c) (.guardLost c) .alarm true b⟩)

/-- R19, R24: UNFORCE removes the FORCE entry, or changes nothing where there is none. -/
def Obligations.UnforceRemoves : Prop :=
  ∀ (s : State) (m : Master) (tag : Byte) (c : ChanId), s.run = .running →
    let e := s.heard m
    let o := exec (.unforce m tag (BitVec.ofNat 8 c)) s
    if (e.entry c).writer ≠ some m then o = .next (e.respond m tag .notWriter [])
    else if ∀ x ∈ (e.chan c).stack, x.source ≠ .force then o = .next (e.respond m tag .ok [])
    else ∃ r : State, o = .next (r.respond m tag .ok []) ∧ Same e r ∧ Settled e r (· = c) ∧
      (r.chan c).stack = (e.chan c).stack.filter (fun x => decide (x.source ≠ .force)) ∧
      ((e.chan c).params.mode ≠ .oneshot → (e.unit (unitOf c)).phase = .none → (e.unit (unitOf c)).state = .paused →
        (r.chan c).applied = (e.chan c).applied)

/-- R16, R17: where a pushed entry stands, and which entry it discards. -/
def Obligations.PushKeepsOrder : Prop :=
  ∀ (l : List Entry) (x : Entry), StackOk l → (x.source = .trip → x.kind = .value) →
    StackOk (pushEntry x l) ∧
    (∀ y ∈ l, y.source = x.source →
      (pushEntry x l).length = l.length ∧ discardedBy x l = none ∧
      ∀ (i : Nat) (z : Entry), l[i]? = some z → (pushEntry x l)[i]? = some (if z.source = x.source then x else z)) ∧
    ((∀ y ∈ l, y.source ≠ x.source) →
      let rest := if l.length = 4 then l.tail else l
      discardedBy x l = (if l.length = 4 then l.head? else none) ∧
      (∀ y, discardedBy x l = some y → y.source ≠ .trip) ∧
      (x.source = .trip → pushEntry x l = rest ++ [x]) ∧
      (x.source ≠ .trip → (∀ y ∈ rest, y.source ≠ .trip) → pushEntry x l = rest ++ [x]) ∧
      ∀ b t, x.source ≠ .trip → rest = b ++ [t] → t.source = .trip → pushEntry x l = b ++ [x, t])

/-- R20: the fold of a channel, entry by entry; with a TRIP entry on top it is that entry's value in every unit state, and
from the safe level every other entry is passed over. -/
def Obligations.FoldInOrder : Prop :=
  ∀ (ch : Channel) (u : UnitRec) (l : List Entry) (x : Entry), ch.stack = l ++ [x] →
    let fromBase := u.foldsFromBase
    let below := { ch with stack := l }.fold fromBase
    (fromBase = true ↔ (u.phase = .none ∧ (u.state = .running ∨ u.state = .paused)) ∨ u.phase = .starting) ∧
    { ch with stack := [] }.fold fromBase = (if fromBase then ch.base else ch.params.safe) ∧
    (fromBase = false → x.source ≠ .trip → ch.fold fromBase = below) ∧
    (fromBase = true ∨ x.source = .trip → ch.fold fromBase =
      match x.kind with
      | .value => x.value
      | .ceiling => min below x.value
      | .floor => max below x.value) ∧
    (x.source = .trip → x.kind = .value → ch.fold fromBase = x.value)

/-! ### Waveforms, ramps and one-shots -/

/-- R3, R4: the period count of a FREQUENCY value is rounded half up and clamped to 2 to 65535, and halved into the pair;
LOW_LIMIT is its clamp at the top. A ONESHOT channel has no pair. -/
def Obligations.FrequencyPair : Prop :=
  ∀ (p : ChanParams) (v : Nat),
    (p.mode = .frequency → p.pairOf 0 = .staticLow ∧ p.lowLimitOf 0 = false ∧
      (0 < v * p.ffs → ∃ n : Nat,
        (2 * (n : Int) - 1) * (v * p.ffs * 2 ^ p.presc) ≤ 2 * 10 ^ 10 ∧
        2 * 10 ^ 10 < (2 * (n : Int) + 1) * (v * p.ffs * 2 ^ p.presc) ∧
        ∃ high low, p.pairOf v = .counts high low ∧ high + low = max 2 (min 65535 n) ∧ (high = low ∨ high = low + 1) ∧
          1 ≤ low ∧ (p.lowLimitOf v = true ↔ 65535 < n))) ∧
    (p.mode ≠ .frequency → p.lowLimitOf v = false) ∧ (p.mode = .oneshot → p.pairOf v = .staticLow)

/-- R5: the pair of a WAVEFORM value. -/
def Obligations.WaveformPair : Prop :=
  ∀ (p : ChanParams) (v : Nat), p.mode = .waveform → 1 ≤ p.pw → v ≤ 1000 →
    let high := v * p.pw / 1000
    (high = 0 → p.pairOf v = .staticLow) ∧ (v = 0 → high = 0) ∧ (v = 1000 → p.pairOf v = .staticHigh) ∧
    (high ≠ 0 → v ≠ 1000 → p.pairOf v = .counts high (p.pw - high) ∧ high < p.pw) ∧
    ∀ h l, p.pairOf v = .counts h l → h + l = p.pw

/-- R2, R6, R11, R13, R73, R75, R76, R83: a ramp tick moves every FREQUENCY and WAVEFORM channel of a unit that is RUNNING,
PAUSED or in a phase; its new pair waits for the boundary, or is current at once where the output is static. RAMP_DONE is
queued where the target is reached. Then every phase whose end is met ends, with UNIT_STATE for each state entered (R83) and
GO_DONE COMPLETE after the last path of a group (R78). -/
def Obligations.RampTick : Prop :=
  ∀ s : State, s.ChannelsFollow → ∃ r : State, exec .rampTick s = .next r ∧ Same s r ∧ r.swu = s.swu ∧ r.tsm = s.tsm ∧
    GoEnds s r ∧
    (∀ g, r.group g = { s.group g with busy := (r.group g).busy }) ∧
    (∀ c,
      let ch := s.chan c
      let u := s.unit (unitOf c)
      let v := if u.phase = .none ∧ (u.state = .standby ∨ u.state = .isolated) then ch.applied
        else if ch.target < ch.applied then max ch.target (ch.applied - ch.params.slew)
        else if u.phase = .none ∧ u.state = .paused then ch.applied
        else min ch.target (ch.applied + ch.params.slew)
      let next := { ch with applied := v, lowLimit := ch.params.lowLimitOf v }
      let pair := ch.params.pairOf v
      (ch.params.mode = .oneshot ∨ v = ch.applied → r.chan c = ch) ∧
      (ch.params.mode ≠ .oneshot → v ≠ ch.applied →
        (ch.wave ≠ .static → r.chan c = { next with pendingPair := some pair }) ∧
        (ch.wave = .static → r.chan c = { next with
          pair := pair, pendingPair := none, count := 0, sub := 0
          wave := match pair with
            | .counts _ _ => .high
            | _ => .static }) ∧
        (v = ch.target → ∀ m, (s.entry c).readers.has m = true → (r.port m).Told ⟨s.ms, .rampDone c v⟩))) ∧
    (∀ m, (s.port m).queue <+: (r.port m).queue) ∧
    ∀ u,
      let x := s.unit u
      (x.phase = .none → r.unit u = x) ∧
      (x.phase = .starting → (¬r.RampsDone u → r.unit u = x) ∧ (r.RampsDone u → r.unit u = { x with
          state := if x.dest = some .paused then .paused else .running, phase := .none, dest := none, timer := none } ∧
        ∀ m, (s.entry (principal u)).readers.has m = true → (r.port m).Told ⟨s.ms, .unitState u .running .go⟩ ∧
          (x.dest = some .paused → (r.port m).Told ⟨s.ms, .unitState u .paused .go⟩))) ∧
      (x.phase = .draining ∨ x.phase = .isolating → (x.timer ≠ none → r.Drained u → DrainEnded s r u) ∧
        (x.timer = none ∨ ¬r.Drained u → r.unit u = x))

/-- R2, R6, R8, R9: the ends of the phases of a waveform, and of the delay and the pulse of a one-shot; each changes its
channel alone. That each acts whenever its phase or one-shot state stands, and is nothing in another, is the model's choice
(log 1). -/
def Obligations.PhasesAndOneShots : Prop :=
  ∀ (s : State) (c : ChanId),
    let ch := s.chan c
    let only := fun (i : Instr) (x : Channel) => ∃ r : State, exec i s = .next r ∧ r.chan c = x ∧
      (∀ d, d ≠ c → r.chan d = s.chan d) ∧ { r with ch := s.ch } = s
    only (.highPhaseEnd c) (if ch.wave = .high then { ch with wave := .low, count := 0, sub := 0 } else ch) ∧
    only (.periodBoundary c) (if ch.wave = .low then
      let pair := ch.pendingPair.getD ch.pair
      { ch with
        pair := pair, pendingPair := none, count := 0, sub := 0
        wave := match pair with
          | .counts _ _ => .high
          | _ => .static }
      else ch) ∧
    only (.oneshotDelayExpiry c) (if ch.oneShot = .delay then
      { ch with oneShot := .pulse, timer := some ch.params.pulse } else ch) ∧
    only (.oneshotPulseExpiry c) (if ch.oneShot = .pulse then { ch with oneShot := .done, timer := none } else ch)

/-! ### The authority map -/

/-- R53: CLAIM by the first row of the table that matches; a granted claim changes the writer (R52). -/
def Obligations.ClaimByTable : Prop :=
  ∀ (s : State) (m : Master) (tag : Byte) (c : ChanId), s.run = .running →
    let e := s.heard m
    let o := exec (.claim m tag (BitVec.ofNat 8 c)) s
    let granted := ∃ r : State, o = .next (r.respond m tag .ok []) ∧ WriterChanged e r c (some m)
    match (e.entry c).writer with
    | none => granted
    | some w =>
      if w = m then o = .next (e.respond m tag .ok [])
      else if (e.entry c).locked = true then o = .next (e.respond m tag .locked [])
      else if (e.port w).silent = false then o = .next (e.respond m tag .heldByOther [])
      else if (e.entry c).readers.has m = false then o = .next (e.respond m tag .heldByOther [])
      else granted

/-- R52, R55, R57: RELEASE_CH by the writer of an OPEN entry, and ACCEPT by the offeree, change the writer. -/
def Obligations.ReleaseAndAccept : Prop :=
  ∀ (s : State) (m : Master) (tag : Byte) (c : ChanId), s.run = .running →
    let e := s.heard m
    let rel := exec (.releaseCh m tag (BitVec.ofNat 8 c)) s
    let acc := exec (.accept m tag (BitVec.ofNat 8 c)) s
    (if (e.entry c).writer ≠ some m then rel = .next (e.respond m tag .notWriter [])
     else if (e.entry c).locked = true then rel = .next (e.respond m tag .locked [])
     else ∃ r : State, rel = .next (r.respond m tag .ok []) ∧ WriterChanged e r c none) ∧
    match (e.entry c).offer with
    | none => acc = .next (e.respond m tag .notOffered [])
    | some o =>
      if o.offeree = m then ∃ r : State, acc = .next (r.respond m tag .ok []) ∧ WriterChanged e r c (some m)
      else acc = .next (e.respond m tag .notOffered [])

/-- R56, R58, R59: OFFER, LOCK and the expiry of an offer: what they leave in the entry, and whom they tell. That OFFER_EXPIRY
takes effect whenever an offer stands, and is nothing without one, is the model's choice (log 1). -/
def Obligations.OffersAndLocks : Prop :=
  (∀ (s : State) (c : ChanId),
    ((s.entry c).offer = none → exec (.offerExpiry c) s = .next s) ∧
    ∀ o, (s.entry c).offer = some o → ∃ r : State, exec (.offerExpiry c) s = .next r ∧
      r.entry c = { s.entry c with offer := none } ∧ (∀ d, d ≠ c → r.entry d = s.entry d) ∧
      { r with map := s.map, ports := s.ports } = s ∧
      ∀ k, r.port k = if (s.entry c).writer = some k ∨ k = o.offeree then
        (s.port k).append ⟨s.ms, .handoverExpired c o.offeree .timeout⟩ else s.port k) ∧
  ∀ (s : State) (m : Master) (tag : Byte) (c : ChanId) (b : Master), s.run = .running →
    let e := s.heard m
    let x := e.entry c
    let off := exec (.offer m tag (BitVec.ofNat 8 c) (BitVec.ofNat 8 (masterCode b))) s
    let lck := exec (.lock m tag (BitVec.ofNat 8 c)) s
    (if x.writer ≠ some m then off = .next (e.respond m tag .notWriter [])
     else if x.locked = true then off = .next (e.respond m tag .locked [])
     else if b = m then off = .next (e.respond m tag .badIndex [])
     else if x.readers.has b = false then off = .next (e.respond m tag .notReader [])
     else ∃ r : State, off = .next (r.respond m tag .ok []) ∧
       r.entry c = { x with offer := some ⟨b, e.ms + BitVec.ofNat 32 (1000 * e.offerTimeout)⟩ } ∧
       (∀ d, d ≠ c → r.entry d = e.entry d) ∧ { r with map := e.map, ports := e.ports } = e ∧
       ∀ k,
         let p := match x.offer with
           | none => e.port k
           | some q => if q.offeree ≠ b ∧ (k = m ∨ k = q.offeree) then
               (e.port k).append ⟨e.ms, .handoverExpired c q.offeree .replaced⟩ else e.port k
         r.port k = if k = m ∨ k = b then p.append ⟨e.ms, .handoverOffered c b e.offerTimeout⟩ else p) ∧
    (if x.writer ≠ some m then lck = .next (e.respond m tag .notWriter [])
     else if x.locked = true then lck = .next (e.respond m tag .ok [])
     else ∃ r : State, lck = .next (r.respond m tag .ok []) ∧ r.entry c = { x with locked := true, offer := none } ∧
       (∀ d, d ≠ c → r.entry d = e.entry d) ∧ { r with map := e.map, ports := e.ports } = e ∧
       ∀ k, r.port k = match x.offer with
         | none => e.port k
         | some q => if k = m ∨ k = q.offeree then (e.port k).append ⟨e.ms, .handoverExpired c q.offeree .locked⟩
             else e.port k)

/-- R60, R61, R88, R94, R170: the silence timer of an ACTIVE port expires: the other ports are told, the offers to its master
go, a LINK entry with the fallback is pushed on each channel it writes, and then LINK_SILENT arrives in their groups, where
its action record pushes its entries in the order of the record (R94). That the expiry acts whenever the timer runs on an
ACTIVE port, and is nothing otherwise, is the model's choice (log 1). -/
def Obligations.SilenceExpires : Prop :=
  ∀ (s : State) (m : Master),
    let o := exec (.silenceTimerExpiry m) s
    ((s.port m).timer = none ∨ (s.port m).silent = true → o = .next s) ∧
    ((s.port m).timer ≠ none → (s.port m).silent = false → ∃ r : State, o = .next r ∧
      Same ({ s with map := r.map }.modPort m fun p => { p with silent := true, timer := none, silentSince := s.ms }) r ∧
      (∀ k, k ≠ m → (r.port k).Told ⟨s.ms, .portSilent m (s.port m).timeout⟩) ∧
      (∀ k, (s.port k).queue <+: (r.port k).queue) ∧ GoEnds s r ∧
      (∀ c, r.entry c = match (s.entry c).offer with
        | none => s.entry c
        | some q => if q.offeree = m then { s.entry c with offer := none } else s.entry c) ∧
      (∀ c q k, (s.entry c).offer = some q → q.offeree = m → (s.entry c).writer = some k →
        (r.port k).Told ⟨s.ms, .handoverExpired c m .silent⟩) ∧
      (∀ c,
        let linked := if (s.entry c).writer = some m then
          pushEntry ⟨.link, .value, (s.chan c).params.fallback, s.ms⟩ (s.chan c).stack else (s.chan c).stack
        (r.chan c).stack = if ∃ d ∈ groupChannels (chanGroup c), (s.entry d).writer = some m then
          s.alarmed (chanGroup c) (.linkSilent m) c linked else linked) ∧
      (∀ g, (∃ c ∈ groupChannels g, (s.entry c).writer = some m) → (r.group g).Holds (.linkSilent m) ∧
        ((s.group g).level ≠ .trip → (r.group g).level = .alarm) ∧
        ∀ z ∈ (r.group g).log, z.cause = .linkSilent m → z.acknowledged = false ∧ z.lastChange = s.ms) ∧
      (∀ g, (∀ c ∈ groupChannels g, (s.entry c).writer ≠ some m) →
        r.group g = { s.group g with busy := (r.group g).busy }) ∧
      ∀ u, (s.unit u).phase = .none → r.unit u = s.unit u)

/-! ### Units -/

/-- R49, R50, R68, R80, R146: SET_NEXT and SET_LAB store their value for the writer of the channel that guards it. -/
def Obligations.StoresByRequest : Prop :=
  ∀ (s : State) (m : Master) (tag : Byte) (u : UnitId) (st : UState) (i : Fin 8) (v : Word), s.run = .running →
    let e := s.heard m
    let set := exec (.setNext m tag (BitVec.ofNat 8 u) (BitVec.ofNat 8 st.code)) s
    let sil := exec (.setLab m tag 0 v) s
    let bub := exec (.setLab m tag (BitVec.ofNat 8 (i.val + 1)) v) s
    (if (e.entry (principal u)).writer ≠ some m then set = .next (e.respond m tag .notWriter [])
     else ∃ r : State, set = .next (r.respond m tag .ok []) ∧
       r.unit u = { e.unit u with next := st, protAltered := false } ∧ (∀ w, w ≠ u → r.unit w = e.unit w) ∧
       { r with units := e.units } = e) ∧
    (if (e.entry 10).writer ≠ some m then sil = .next (e.respond m tag .notWriter [])
     else sil = .next ({ e with swu := { e.swu with cSil := min 2000 v.toNat } }.respond m tag
       (if 2000 < v.toNat then .clamped else .ok) [])) ∧
    (if (e.entry (wellChan i)).writer ≠ some m then bub = .next (e.respond m tag .notWriter [])
     else ∃ r : State, bub = .next (r.respond m tag (if 200000 < v.toNat then .clamped else .ok) []) ∧
       r.swu.pBub[i] = min 200000 v.toNat ∧ (∀ j : Fin 8, j ≠ i → r.swu.pBub[j] = e.swu.pBub[j]) ∧
       { r with swu := { r.swu with pBub := e.swu.pBub } } = e)

/-- R50, R69 to R76, R78, R81, R83, R118, R139, R143: GO in the order of its checks. An accepted GO starts the path of every
unit whose NEXT differs from its STATE: an immediate step is over at once, and a phase begins, or has ended already: exactly
where its channels have ramp done (R73), or its drain condition is met (R75), at the test. The applied values that ramp do not
move. UNIT_STATE is queued for each state entered (R83). A unit that leaves service loses its guard and its causes, and TG,
entering service in NO_SIGNAL, brings SPEED_LOST. That it passes over a unit which is in a phase while its group is not busy
is the model's (log 34). -/
def Obligations.GoDecided : Prop :=
  ∀ (s : State) (m : Master) (tag : Byte) (g : Group), s.run = .running →
    let e := s.heard m
    let o := exec (.go m tag (BitVec.ofNat 8 (groupCode g))) s
    if ∀ c ∈ groupPrincipals g, (e.entry c).writer ≠ some m then o = .next (e.respond m tag .notWriter [])
    else if (e.group g).busy = true then o = .next (e.respond m tag .busy [])
    else if (e.group g).level = .trip ∧ ∃ u ∈ groupUnits g, ((e.unit u).next = .running ∨ (e.unit u).next = .paused) ∧
        (e.unit u).next ≠ (e.unit u).state then o = .next (e.respond m tag .groupTripped [])
    else ∃ r : State, o = .next (r.respond m tag .ok []) ∧ Same e r ∧
      (∀ u, u ∉ groupUnits g ∨ (e.unit u).next = (e.unit u).state → (e.unit u).phase = .none → r.unit u = e.unit u) ∧
      (∀ u ∈ groupUnits g, (e.unit u).phase = .none → (e.unit u).next ≠ (e.unit u).state →
        let x := e.unit u
        let done := { x with state := x.next, phase := .none, dest := none, timer := none }
        let inUse := fun st : UState => st = .running ∨ st = .paused
        let told := fun st why => ∀ k, (e.entry (principal u)).readers.has k = true →
          (r.port k).Told ⟨e.ms, .unitState u st why⟩
        (inUse x.state ↔ inUse x.next) ∧ r.unit u = done ∧ told x.next .go ∨
        (¬inUse x.state ∧ inUse x.next) ∧ (x.state = .isolated → told .standby .go) ∧
          (r.unit u = done ∧ told .running .go ∧ (x.next = .paused → told .paused .go) ∧
              ((∀ c, unitOf c = u → (r.chan c).stack = (e.chan c).stack) → r.RampsDone u) ∨
            r.unit u = { x with state := .standby, phase := .starting, dest := some x.next } ∧ ¬r.RampsDone u) ∨
        (inUse x.state ∧ ¬inUse x.next) ∧
          (r.unit u = done ∧ r.Drained u ∧ told .standby .drainEnd ∧ (x.next = .isolated → told .isolated .go) ∨
            r.unit u = { x with
              phase := if x.next = .standby then .draining else .isolating
              dest := some x.next, timer := some (x.params.drainTimeout * 1000) } ∧ ¬r.Drained u)) ∧
      (e.ChannelsFollow → ∀ c, (e.chan c).params.mode ≠ .oneshot → (r.chan c).applied = (e.chan c).applied) ∧
      (let inUse := fun st : UState => st = .running ∨ st = .paused
       let leaves := fun u =>
         u ∈ groupUnits g ∧ (e.unit u).phase = .none ∧ inUse (e.unit u).state ∧ ¬inUse (e.unit u).next
       let starts := fun u =>
         u ∈ groupUnits g ∧ (e.unit u).phase = .none ∧ ¬inUse (e.unit u).state ∧ inUse (e.unit u).next
       let lost := starts unitTG ∧ e.tsm.quality = .noSignal
       (∀ u, leaves u → LeftService e r u [.service]) ∧
       (∀ k, (e.guard k).state = .clear ∨ (∀ u, leaves u → unitGuard u ≠ some k) → r.guard k = e.guard k) ∧
       (∀ i : Fin 8, ¬leaves (wellUnit i) → r.swu.cal[i] = e.swu.cal[i]) ∧
       (lost → r.tsm = { e.tsm with speedLost := true } ∧ (r.group .turbine).Holds .speedLost) ∧
       (¬lost → ¬leaves unitTG → r.tsm = e.tsm)) ∧
      let started := (groupUnits g).countP fun u =>
        decide ((e.unit u).next ≠ (e.unit u).state ∧ (e.unit u).phase = .none)
      if ∃ u ∈ groupUnits g, (r.unit u).phase ≠ .none then (r.group g).busy = true ∧ (r.group g).started = started
      else (r.group g).busy = false ∧ ∀ k, (r.port k).Told ⟨e.ms, .goDone g false started⟩

/-- R77, R78, R83, R89, R105: the drain timer expires: the unit is STANDBY, or goes on to ISOLATED, with UNIT_STATE for each,
and DRAIN_TIMEOUT is recorded in its group; GO_DONE COMPLETE follows where its path was the last of a GO. That the expiry acts
whenever the timer runs, and is nothing otherwise, is the model's choice (log 1). -/
def Obligations.DrainTimer : Prop :=
  ∀ (s : State) (u : UnitId),
    ((s.unit u).timer = none → exec (.drainTimerExpiry u) s = .next s) ∧
    ((s.unit u).timer ≠ none → ∃ r : State, exec (.drainTimerExpiry u) s = .next r ∧ Same s r ∧
      r.unit u = { s.unit u with
        state := if (s.unit u).phase = .isolating then .isolated else .standby
        phase := .none, dest := none, timer := none } ∧
      (∀ w, w ≠ u → r.unit w = s.unit w) ∧
      (∀ c, (r.chan c).stack = (s.chan c).stack ∧ (unitOf c ≠ u → r.chan c = s.chan c)) ∧
      (∀ c, unitOf c = u → (s.chan c).params.mode ≠ .oneshot → (r.chan c).applied = (r.chan c).target ∧
        (r.chan c).target = (s.chan c).fold false) ∧
      (∀ m, (s.entry (principal u)).readers.has m = true → (r.port m).Told ⟨s.ms, .unitState u .standby .drainTimeout⟩ ∧
        ((s.unit u).phase = .isolating → (r.port m).Told ⟨s.ms, .unitState u .isolated .go⟩)) ∧ GoEnds s r ∧
      (let g := s.group (unitGroup u)
       let h := r.group (unitGroup u)
       h = { g.withArrival (.drainTimeout u) .alarm s.ms with level := h.level, busy := h.busy } ∧
       (g.level ≠ .trip → (h.level = .alarm ↔ h.asksAlarm)) ∧
       ∀ b, g.newRecord (.drainTimeout u) = some b → ∀ m,
         (r.port m).Told ⟨s.ms, .causeNew (unitGroup u) (.drainTimeout u) .alarm true b⟩) ∧
      (∀ g, g ≠ unitGroup u → r.group g = s.group g) ∧ r.swu = s.swu ∧ r.tsm = s.tsm)

/-! ### Protection -/

/-- R8 to R10, R79, R81, R83, R88, R91, R97, R98, R105, R118 to R120, R139, R143: a trip-class arrival, of a cause that is not
momentary, outside TRIP: the record, the level, the trip list, the forcing of the units and the propagation. The units of every
group that it brings into TRIP leave service, with UNIT_STATE where the state changes, and UNIT_FORCED. A ONESHOT channel of a
trip list takes its TRIP value as its target, so that the coil of OC15 is armed where it was at 0 and IDLE. In TRIP the arrival
moves nothing but the log, and queues CAUSE_NEW where the record is new. The channels follow their folds, so that a
ONESHOT channel whose target is the TRIP value already stands there. That the units forced are those in service or in a phase
before the pushes of the trip list is the model's reading (log 17). -/
def Obligations.TripEntry : Prop :=
  ∀ (s : State) (g : Group) (c : Cause), s.classOf c = .trip → c.isMomentary = false → s.StacksOk → s.TripListsOk →
    s.ChannelsFollow →
    let r := s.arrive g c
    (r.group g).level = .trip ∧ (r.group g).Holds c ∧
    let after := (s.group g).withArrival c .trip s.ms
    let causeNew := (s.group g).newRecord c
    ((s.group g).level = .trip → Same s r ∧ { r with groups := s.groups, ports := s.ports } = s ∧
      (s.LogsOk → r.group g = after) ∧ (∀ h, h ≠ g → r.group h = s.group h) ∧ ∀ m, r.port m = match causeNew with
        | none => s.port m
        | some b => (s.port m).append ⟨s.ms, .causeNew g c .trip false b⟩) ∧
    (s.LogsOk → (∀ (i : Nat) (z : CauseRec), after.log[i]? = some z → z.cause = c → (r.group g).log[i]? = some z) ∧
      (r.group g).firstOut = after.firstOut ∧ (after.logFull = true → (r.group g).logFull = true) ∧
      ∀ b, causeNew = some b → ∀ m, (r.port m).Told ⟨s.ms, .causeNew g c .trip false b⟩) ∧
    (∀ u,
      let x := s.unit u
      let trips := (s.group (unitGroup u)).level ≠ .trip ∧ (r.group (unitGroup u)).level = .trip
      let rests := x.phase = .none ∧ (x.state = .standby ∨ x.state = .isolated)
      (trips → ¬rests → LeftService s r u [.service, .overflow] ∧ r.unit u = { x with
          state := x.params.tripState, phase := .none, dest := none, timer := none, protAltered := true } ∧
        ∀ m, (s.entry (principal u)).readers.has m = true →
          (x.params.tripState ≠ x.state → (r.port m).Told ⟨s.ms, .unitState u x.params.tripState .forced⟩) ∧
          (r.port m).Told ⟨s.ms, .unitForced u x.phase x.state x.params.tripState⟩) ∧
      (¬trips ∨ rests → (x.phase = .none → r.unit u = x) ∧ (u = unitTG → r.tsm = s.tsm) ∧
        ∀ i : Fin 8, wellUnit i = u → r.swu.cal[i] = s.swu.cal[i])) ∧
    (∀ h, (s.group h).level ≠ .trip → (r.group h).level = .trip →
      ∀ x ∈ (s.group h).tripList, (r.chan x.channel).applied = x.value ∧ (r.chan x.channel).target = x.value ∧
        (∃ l, (r.chan x.channel).stack = l ++ [⟨.trip, .value, x.value, s.ms⟩]) ∧
        ((s.chan x.channel).params.mode = .oneshot → OneShotTakes (s.chan x.channel) (r.chan x.channel))) ∧
    ((s.group g).level ≠ .trip →
      (r.group g).busy = false ∧
      (∀ m, (r.port m).Told ⟨s.ms, .groupLevel g .trip (r.group g).firstOut⟩ ∧
        ((s.group g).busy = true → (r.port m).Told ⟨s.ms, .goDone g true (s.group g).started⟩)) ∧
      match g with
      | .field => (r.group .turbine).level = .trip ∧ (r.group .turbine).Holds .fieldTripped ∧
          (r.group .heat).level = .trip ∧ (r.group .heat).Holds .fieldTripped
      | .turbine => (r.group .field).Holds .tgTripped
      | .heat => (r.group .field).Holds .hxTripped)

/-- R42, R43, R181: a sample of the discrete inputs: the histories, the filtered states, and the causes of the inputs that
change. The counter of draws is the model's own (log 27). -/
def Obligations.DiscreteSample : Prop :=
  ∀ (s : State) (levels : BitVec 12),
    let o := exec (.diSample levels) s
    (s.run ≠ .running → o = .next s) ∧
    (s.run = .running → ∃ r : State, o = .next r ∧ r.draws = s.draws + 1 ∧
      (∀ d : Fin 12,
        let x := s.di[d]
        let h := (x.history ++ [levels.getLsbD d != x.activeLow])
        let kept := h.drop (h.length - 3)
        r.di[d] = { x with
          history := kept
          filtered := if kept = [!x.filtered, !x.filtered, !x.filtered] then !x.filtered else x.filtered }) ∧
      ((∀ d : Fin 12, (r.di[d]).filtered = (s.di[d]).filtered) → { r with di := s.di, draws := s.draws } = s) ∧
      ∀ d : Fin 12, (r.di[d]).filtered ≠ (s.di[d]).filtered → ∀ g c,
        (if d.val < 8 then g = .field ∧ ∃ i : Fin 8, i.val = d.val ∧ c = .vfdFault i
         else if d = 8 then g = .turbine ∧ c = .extOverspeed
         else if d = 9 then g = .turbine ∧ c = .sepLevelHH
         else if d = 10 then g = .heat ∧ c = .hxLeak
         else c = .estop) →
        ((r.di[d]).filtered = true → (r.group g).Holds c ∧ (s.classOf c = .trip → (r.group g).level = .trip)) ∧
        ((r.di[d]).filtered = false → s.LogsOk → ¬(r.group g).Holds c))

/-- R50, R92, R98, R100, R101: RELEASE_TRIP in the order of its checks. An accepted release takes the TRIP entries off the
channels of the group, leaves the level its log gives, and deactivates what the trip had propagated. -/
def Obligations.ReleaseTripDecided : Prop :=
  ∀ (s : State) (m : Master) (tag : Byte) (g : Group), s.run = .running →
    let e := s.heard m
    let o := exec (.releaseTrip m tag (BitVec.ofNat 8 (groupCode g))) s
    let x := e.group g
    if ∀ c ∈ groupChannels g, (e.entry c).writer ≠ some m then o = .next (e.respond m tag .notWriter [])
    else if x.level ≠ .trip then o = .next (e.respond m tag .ok [])
    else if (∃ r ∈ x.log, r.active = true ∧ r.cls = .trip) ∨ ∃ y ∈ x.unrecorded, y.cls = .trip then
      o = .next (e.respond m tag .causeActive [])
    else ∃ r : State, o = .next (r.respond m tag .ok []) ∧ Same e { r with groups := e.groups } ∧
      r.group g = { x with level := (r.group g).level, busy := (r.group g).busy } ∧
      ((r.group g).level = .alarm ∨ (r.group g).level = .normal) ∧
      ((r.group g).level = .alarm ↔ (∃ y ∈ x.log, y.active = true ∨ y.momentary = true ∧ y.acknowledged = false) ∨
        x.unrecorded ≠ [] ∨ x.logFull = true) ∧
      (∀ c ∈ groupChannels g, (r.chan c).stack = (e.chan c).stack.filter (fun y => decide (y.source ≠ .trip))) ∧
      (∀ c, c ∉ groupChannels g → (r.chan c).stack.Sublist (e.chan c).stack) ∧
      (∀ u, (e.unit u).phase = .none → r.unit u = e.unit u) ∧ r.swu = e.swu ∧ r.tsm = e.tsm ∧
      (∀ k, (r.port k).Told ⟨e.ms, .groupLevel g (r.group g).level x.firstOut⟩) ∧
      (e.LogsOk →
        match g with
        | .field => ¬(r.group .turbine).Holds .fieldTripped ∧ ¬(r.group .heat).Holds .fieldTripped
        | .turbine => ¬(r.group .field).Holds .tgTripped
        | .heat => ¬(r.group .field).Holds .hxTripped)

/-- R50, R92, R102, R103: ACK acknowledges the active records, removes the others, and gives records to the first codes of the
unrecorded set that find room. -/
def Obligations.AckClearsLog : Prop :=
  ∀ (s : State) (m : Master) (tag : Byte) (g : Group), s.run = .running →
    let e := s.heard m
    let o := exec (.ack m tag (BitVec.ofNat 8 (groupCode g))) s
    let x := e.group g
    let stay := (x.log.filter (·.active)).map (fun r => { r with acknowledged := true })
    let room := 8 - stay.length
    if ∀ c ∈ groupChannels g, (e.entry c).writer ≠ some m then o = .next (e.respond m tag .notWriter [])
    else e.LogsOk → ∃ r : State, o = .next (r.respond m tag .ok []) ∧ { r with groups := e.groups, ports := e.ports } = e ∧
      (∀ h, h ≠ g → r.group h = e.group h) ∧
      r.group g = { x with
        log := stay ++ (x.unrecorded.take room).map (fun y => ⟨y.cause, y.cls, false, e.ms, e.ms, 1, true, false⟩)
        unrecorded := x.unrecorded.drop room
        logFull := !(x.unrecorded.drop room).isEmpty
        level := if x.level = .trip then .trip
          else if stay = [] ∧ x.unrecorded = [] then .normal else .alarm } ∧
      (∀ k, (e.port k).queue <+: (r.port k).queue ∧
        ∀ y ∈ x.unrecorded.take room, (r.port k).Told ⟨e.ms, .causeNew g y.cause y.cls false true⟩)

/-! ### Inputs -/

/-- R29 to R33, R36, R88, R90 to R92, R94, R95, R105: a conversion that is not the last of its scan: grade, clamp, scale,
filter, and SENSOR_BAD where the quality changes to or from BAD: its record, the level, the entries of its action record,
pushed at the arrival in the order of the record and removed at the end, and the records queued. That it finds nothing to do
with no scan in progress is the model's choice (log 1). -/
def Obligations.ConversionEnds : Prop :=
  ∀ (s : State) (code : BitVec 12),
    (s.asu.pos = none → exec (.conversionEnd code) s = .next s) ∧
    ∀ (p : Nat) (n : Fin 16), s.asu.pos = some p → s.asu.list[p]? = some n → p + 1 < s.asu.list.length →
      let a := s.analog n
      let k := code.toNat
      let q : Quality := if k ≤ 575 ∨ 3361 ≤ k then .bad else if k ≤ 639 ∨ 3201 ≤ k then .limited else .good
      let raw : Int := a.params.lo + ((max 640 (min 3200 k) : Int) - 640) * (a.params.hi - a.params.lo) / 2560
      let raw := if 2 * ((((max 640 (min 3200 k) : Int) - 640) * (a.params.hi - a.params.lo)) % 2560) < 2560 then raw
        else raw + 1
      let acc := match a.acc with
        | none => raw * 2 ^ a.params.shift
        | some x => x - x / 2 ^ a.params.shift + raw
      ∃ r : State, exec (.conversionEnd code) s = .next r ∧ Same { s with ai := r.ai, asu := r.asu } r ∧
        r.asu = { s.asu with pos := some (p + 1) } ∧
        r.analog n = (if q = .bad then { a with code := k, quality := .bad, acc := none }
          else { a with code := k, quality := q, acc := some acc, value := acc / 2 ^ a.params.shift, age := 0 }) ∧
        (∀ j, j ≠ n → r.analog j = s.analog j) ∧
        ((a.quality = .bad ↔ q = .bad) → { r with ai := s.ai, asu := s.asu } = s) ∧
        (a.quality ≠ .bad → q = .bad → (r.group a.params.badGroup).Holds (.sensorBad n) ∧
          (s.LogsOk → AlarmArrived s r a.params.badGroup (.sensorBad n))) ∧
        (a.quality = .bad → q ≠ .bad → CauseEnded s r a.params.badGroup (.sensorBad n) ∧
          (s.LogsOk → ¬(r.group a.params.badGroup).Holds (.sensorBad n))) ∧ GoEnds s r

/-- R29, R34, R35, R125, R126, R150: a scan starts in operation, and its last conversion completes it: the snapshot, the limit
checks, the meter's interval, and the count of the scaling watch, or at every Nth scan its evaluation: the exchanger steps,
the silica steps, and the calcite steps of well 0 to well 7, each on the state that the steps before it left (log 47). That
SCAN_START acts whenever the part is in operation with no scan in progress, and is nothing otherwise, is the model's choice
(log 1). -/
def Obligations.ScanStartsAndCompletes : Prop :=
  ∀ s : State,
    exec .scanStart s = .next (if s.run = .running ∧ s.asu.pos = none then
      { s with asu := { s.asu with pos := some 0, nextScan := s.ms + BitVec.ofNat 32 s.asu.period } } else s) ∧
    ∀ (code : BitVec 12) (p : Nat) (n : Fin 16), s.asu.pos = some p → s.asu.list[p]? = some n →
      s.asu.list.length = p + 1 →
      let t := s.convert n code.toNat
      ∃ r : State, exec (.conversionEnd code) s = .next r ∧ r.asu = { s.asu with pos := none } ∧ r.snap.time = s.ms ∧
        (∀ j : Fin 16, r.snap.ai[j] = ⟨(t.analog j).value, (t.analog j).quality⟩) ∧
        (∀ j : Fin 12, r.snap.pi[j] = ⟨(s.pulse j).rate, (s.pulse j).quality⟩) ∧ r.pi = s.pi ∧ r.di = s.di ∧ r.map = s.map ∧
        r.hmt = s.hmt.interval r.snap s.asu.period ∧
        (let e := ({ t with asu := { t.asu with pos := none } }).takeSnapshot.limitChecks.meterScan
         e.swu.counter = s.swu.counter ∧ e.swu.lastTime = s.swu.lastTime ∧ e.snap = r.snap ∧ e.hmt = r.hmt ∧
         if s.swu.params.interval ≤ s.swu.counter + 1 then
           let x := ({ e with swu := { e.swu with counter := 0, lastTime := s.ms } }).evalExchanger.evalSilica
           let y := (((x.evalCalcite 0).evalCalcite 1).evalCalcite 2).evalCalcite 3
           r = (((y.evalCalcite 4).evalCalcite 5).evalCalcite 6).evalCalcite 7 ∧ r.swu.counter = 0 ∧ r.swu.lastTime = s.ms
         else r = { e with swu := { e.swu with counter := s.swu.counter + 1 } }) ∧
        ∀ (j : Fin 16) (k : Fin 2),
          let a := t.analog j
          let c := a.check k
          let v := a.value
          let next : Bool := match c.dir with
            | .off => a.active k
            | .high => decide (c.threshold < v ∨ a.active k = true ∧ c.threshold - c.hysteresis ≤ v)
            | .low => decide (v < c.threshold ∨ a.active k = true ∧ v ≤ c.threshold + c.hysteresis)
          let usable := a.quality = .good ∨ a.quality = .limited
          (usable → (r.analog j).active k = next) ∧ (¬usable → (r.analog j).active k = a.active k) ∧
          ((r.analog j).active k ≠ a.active k →
            (next = true → (r.group c.group).Holds (.limit j k)) ∧
            (next = false → s.LogsOk → ¬(r.group c.group).Holds (.limit j k)))

/-- R38, R39, R41, R75, R76, R113, R115, R118, R181: an active edge. A first edge starts timing; a later one latches the
counts since the edge before, at least 1, and gives the filtered rate. The speed monitor takes a period of PI11: the speed,
the end of SPEED_LOST, and the table of R115. Then the drain that reads the input ends if its condition is met, and no other
(R75, R76). A period past the counter's span is open (log 8). -/
def Obligations.ActiveEdge : Prop :=
  ∀ (s : State) (j : PulseId),
    let o := exec (.pulseActiveEdge j) s
    let x := s.pulse j
    let t := s.tsm
    (s.run ≠ .running → o = .next s) ∧
    (s.run = .running → x.running = false → ∃ r : State, o = .next r ∧
      r.pulse j = { x with running := true, count := 0, sub := 0, timer := some 0, timerSub := 0 } ∧
      (∀ k, k ≠ j → r.pulse k = s.pulse k) ∧ { r with pi := s.pi } = s) ∧
    (s.run = .running → x.running = true → ∃ (period : Nat) (r : State), o = .next r ∧ 1 ≤ period ∧
      (x.count < 16777216 → period = max 1 x.count) ∧
      let raw : Nat := (2 * x.params.k + period) / (2 * period)
      let acc : Int := match x.acc with
        | none => raw * 2 ^ x.params.shift
        | some a => a - a / 2 ^ x.params.shift + raw
      r.pulse j = { x with
        latched := period, count := 0, sub := 0, timer := some 0, timerSub := 0, acc := some acc
        rate := (acc / 2 ^ x.params.shift).toNat, quality := .good } ∧
      (∀ k, k ≠ j → r.pulse k = s.pulse k) ∧ r.map = s.map ∧ r.hmt = s.hmt ∧ r.di = s.di ∧ r.ai = s.ai ∧
      ((j = 11 → (r.group .turbine).level ≠ .trip) → GoEnds s r ∧
        ∀ u, drainInput j u → (s.unit u).phase = .draining ∨ (s.unit u).phase = .isolating →
          ((s.unit u).timer ≠ none → r.Drained u → DrainEnded s r u) ∧
          ((s.unit u).timer = none ∨ ¬r.Drained u → r.unit u = s.unit u)) ∧
      (j ≠ 11 → Settled s r (fun _ => False) ∧ ∀ u, ¬drainInput j u → r.unit u = s.unit u) ∧
      (j = 11 →
        let fast := period ≤ t.params.tripPeriod
        let far := if t.overspeed = true then ¬fast else fast
        (¬far → r.tsm = { t with speed := raw, quality := .good, run := 0, speedLost := false }) ∧
        (far → t.run < 2 → r.tsm = { t with speed := raw, quality := .good, run := t.run + 1, speedLost := false }) ∧
        (far → 2 ≤ t.run → r.tsm = { t with
          speed := raw, quality := .good, run := 0, speedLost := false, overspeed := !t.overspeed }) ∧
        (far → 2 ≤ t.run → t.overspeed = false →
          (r.group .turbine).level = .trip ∧ (r.group .turbine).Holds .overspeed) ∧
        (far → 2 ≤ t.run → t.overspeed = true → s.LogsOk → ¬(r.group .turbine).Holds .overspeed) ∧
        (t.speedLost = true → s.LogsOk → ¬(r.group .turbine).Holds .speedLost)))

/-- R40, R75, R76, R113, R116, R118: the entry to NO_SIGNAL by the signal timeout or by the overflow of the period counter, at
which the drain that reads the input ends if its condition is met; and nothing where the input is there already (log 9). That
each acts whenever its timer or counter runs, and is nothing otherwise, is the model's choice (log 1), and so is that the
stopped period counter keeps its count (log 43). -/
def Obligations.SignalLost : Prop :=
  ∀ (s : State) (j : PulseId),
    let x := s.pulse j
    let lost := fun o : Host.Outcome State Fault Refusal => ∃ r : State, o = .next r ∧
      r.pulse j = { x with
        quality := .noSignal, rate := 0, acc := none, running := false, timer := none, timerSub := 0 } ∧
      (∀ k, k ≠ j → r.pulse k = s.pulse k) ∧ r.map = s.map ∧ r.hmt = s.hmt ∧ r.di = s.di ∧ r.ai = s.ai ∧
      (∀ u, drainInput j u → (s.unit u).phase = .draining ∨ (s.unit u).phase = .isolating →
        ((s.unit u).timer ≠ none → r.Drained u → DrainEnded s r u) ∧
        ((s.unit u).timer = none ∨ ¬r.Drained u → r.unit u = s.unit u)) ∧ GoEnds s r ∧
      (j ≠ 11 → Same { s with pi := r.pi } r ∧ Settled s r (fun _ => False) ∧ ∀ u, ¬drainInput j u → r.unit u = s.unit u) ∧
      (j = 11 →
        let u := s.unit unitTG
        let service := (u.phase = .none ∧ (u.state = .running ∨ u.state = .paused)) ∨ u.phase = .starting
        (service → r.tsm = { s.tsm with
          speed := 0, quality := .noSignal, overspeed := false, run := 0, speedLost := true } ∧
          (r.group .turbine).Holds .speedLost) ∧
        (¬service → r.tsm = { s.tsm with speed := 0, quality := .noSignal, overspeed := false, run := 0 }) ∧
        (s.tsm.overspeed = true → s.LogsOk → ¬(r.group .turbine).Holds .overspeed))
    (if x.timer = none ∨ x.quality = .noSignal then exec (.signalTimeout j) s = .next s
     else lost (exec (.signalTimeout j) s)) ∧
    (if x.running = false ∨ x.quality = .noSignal then exec (.periodCounterOverflow j) s = .next s
     else lost (exec (.periodCounterOverflow j) s))

/-! ### Scaling watch and heat meter -/

/-- R138 to R141, R145, Table 7-9: a guard moves by one row, and the SCALE entry of its channel with it; a held guard keeps all
but its margin status (of one that never had a margin too, log 30). The calcite steps of a well: its record and cause, and then
its guard with the calcite margin; out of RUNNING and PAUSED they are not run, and a well that leaves service loses its cause.
That a guard reads the applied value of its own step, after the cause of the step before it, is the model's reading (log 45),
and so is that the steps read the well as it then is, though STARTING may have ended inside the evaluation (log 47). -/
def Obligations.GuardRows : Prop :=
  (∀ (s : State) (k : GuardId),
    let r := s.holdGuard k
    r.guard k = { s.guard k with status := .held } ∧ (∀ q, q ≠ k → r.guard q = s.guard q) ∧
    { r with swu := { r.swu with silGuard := s.swu.silGuard, calGuards := s.swu.calGuards } } = s) ∧
  (∀ (s : State) (i : Fin 8),
    let v := s.snap.ai[wellInput i]
    let u := s.unit (wellUnit i)
    let inUse := u.phase = .none ∧ (u.state = .running ∨ u.state = .paused)
    let usable := v.quality = .good ∨ v.quality = .limited
    let w := s.swu.params
    let x := s.swu.cal[i]
    let r := s.evalCalcite i
    let y := r.swu.cal[i]
    let off := s.calciteOff i
    Same s r ∧ (∀ j : Fin 8, j ≠ i → r.swu.cal[j] = s.swu.cal[j]) ∧
    (¬inUse → y = { x with outcome := .notRun } ∧ { r with swu := { r.swu with cal := s.swu.cal } } = s) ∧
    (inUse → ¬usable → y = { x with outcome := .skipped } ∧
      { r with swu := { r.swu with cal := s.swu.cal } } = s.holdGuard (.calcite i)) ∧
    (inUse → usable →
      y.outcome = .evaluated ∧ y.pInt = v.value ∧ y.cm = v.value - (s.swu.pBub[i] : Nat) ∧
      (y.active = true ↔ y.cm < w.calAlarm ∨ x.active = true ∧ y.cm < w.calAlarm + w.calHyst) ∧
      (∃ t : State, Same s t ∧ t.swu.cal[i] = y ∧ r = t.runGuard (.calcite i) y.cm ∧
        (y.active = x.active → { t with swu := { t.swu with cal := s.swu.cal } } = s)) ∧
      (y.active ≠ x.active → y.active = true → (r.group .field).Holds (.calcite i)) ∧
      (s.LogsOk → y.active ≠ x.active → y.active = false → ¬(r.group .field).Holds (.calcite i))) ∧
    (x.active = false → off = s) ∧
    (x.active = true → Same s off ∧ off.swu.cal[i] = { x with active := false } ∧
      (s.LogsOk → ¬(off.group .field).Holds (.calcite i)))) ∧
  ∀ (s : State) (k : GuardId) (margin : Int),
    (∀ v, (s.guard k).ceiling = some v → v ≤ 999) → (s.chan k.chan).applied ≤ 1000 → 1 ≤ (s.guardParams k).step →
    (s.guardParams k).floor ≤ 999 →
    let p := s.guardParams k
    let x := s.guard k
    let r := s.runGuard k margin
    let old := (s.chan k.chan).stack
    let new := (r.chan k.chan).stack
    let ceiling := x.ceiling.getD 0
    let put := fun (v : Nat) (st : GuardState) => v ≤ 999 ∧
      r.guard k = ⟨st, some v, margin, .current⟩ ∧ new = pushEntry ⟨.scale, .ceiling, v, s.ms⟩ old
    (margin < p.clamp → x.state = .clear → put (max p.floor ((s.chan k.chan).applied - p.step)) .lowering) ∧
    (margin < p.clamp → x.state ≠ .clear → put (max p.floor (ceiling - p.step)) .lowering) ∧
    (p.clamp ≤ margin → x.state = .clear → r.guard k = { x with margin := margin, status := .current } ∧ new = old) ∧
    (p.clamp ≤ margin → x.state ≠ .clear → margin < p.release →
      r.guard k = { x with state := .holding, margin := margin, status := .current } ∧ new = old) ∧
    (p.clamp ≤ margin → x.state ≠ .clear → p.release ≤ margin → ceiling + p.step ≤ 999 →
      put (ceiling + p.step) .raising) ∧
    (p.clamp ≤ margin → x.state ≠ .clear → p.release ≤ margin → 1000 ≤ ceiling + p.step →
      r.guard k = ⟨.clear, none, margin, .current⟩ ∧ new = old.filter (fun y => decide (y.source ≠ .scale))) ∧
    ((r.guard k).state ≠ x.state → ∀ m, (s.entry k.chan).readers.has m = true →
      (r.port m).Told ⟨s.ms, .guardState k.chan (r.guard k).state .evaluation (r.guard k).ceiling⟩) ∧
    Same s r ∧ (∀ u, (s.unit u).phase = .none → r.unit u = s.unit u)

/-- R126 to R132: the exchanger steps. With an input not usable the outcome is SKIPPED and the record is held. With all usable
they run on the snapshot, and where they are EVALUATED HX_FOULING follows the filtered cleanliness; a product past the 64-bit
arithmetic is open (log 7). -/
def Obligations.ExchangerSteps : Prop :=
  (∀ s : State,
    let f := s.snap.pi[(8 : Fin 12)]
    let a := fun n : Fin 16 => s.snap.ai[n]
    let good := fun n : Fin 16 => (a n).quality = .good ∨ (a n).quality = .limited
    let usable := (f.quality = .good ∨ f.quality = .noSignal) ∧ good 8 ∧ good 9 ∧ good 10 ∧ good 11
    let x := s.swu.ex
    let w := s.swu.params
    let flow := if f.quality = .noSignal then 0 else f.value.toNat
    let z := x.evaluate w flow (a 8).value (a 9).value (a 10).value (a 11).value
    let fouling : Bool := if x.fouling = true then decide (z.cf < w.cleanAlarm + 10) else decide (z.cf < w.cleanAlarm)
    let r := s.evalExchanger
    (¬usable → r = { s with swu := { s.swu with ex := { x with outcome := .skipped } } }) ∧
    (usable → z.outcome ≠ .evaluated ∨ fouling = x.fouling → r = { s with swu := { s.swu with ex := z } }) ∧
    (usable → z.outcome = .evaluated → fouling ≠ x.fouling → r.swu.ex = { z with fouling := fouling } ∧ Same s r ∧
      (fouling = true → (r.group .heat).Holds .hxFouling) ∧
      (fouling = false → s.LogsOk → ¬(r.group .heat).Holds .hxFouling))) ∧
  ∀ (x : Exchanger) (p : SwuParams) (m : Nat) (bi bo ws wr : Int),
    let r := x.evaluate p m bi bo ws wr
    let q := m * p.cpB * (bi - bo).toNat
    let mean := (bi - ws + (bo - wr)) / 2
    (q < 2 ^ 63 → r.q = q / 10000) ∧ (bi ≤ bo → r.q = 0) ∧ r.dT1 = bi - ws ∧ r.dT2 = bo - wr ∧ r.fouling = x.fouling ∧
    (bi - ws < 50 ∨ bo - wr < 50 ∨ m = 0 → r = { x with
      outcome := .notEvaluable, q := r.q, dT1 := bi - ws, dT2 := bo - wr }) ∧
    (50 ≤ bi - ws → 50 ≤ bo - wr → m ≠ 0 → 50 ≤ mean ∧ r.outcome = .evaluated ∧ r.dTm = mean ∧
      (r.q * 100 < 2 ^ 63 → (r.ua : Int) * mean ≤ r.q * 100 ∧ r.q * 100 < (r.ua + 1) * mean) ∧
      (r.ua * 1000 < 2 ^ 63 → r.c = min 1500 (r.ua * 1000 / p.uaClean)) ∧ r.c ≤ 1500 ∧
      (x.acc = none → r.acc = some (16 * (r.c : Int)) ∧ r.cf = r.c) ∧
      ∀ a, x.acc = some a → r.acc = some (a - a / 16 + r.c) ∧ r.cf = ((a - a / 16 + r.c) / 16).toNat)

/-- R133 to R137, R141: the silica limit temperature over the segments of its table, the two causes of the silica steps, and
step S4: after them the guard runs with the margin while HX is in service, and with AI9 not usable it is held. A SILICA_TRIP
that trips the Heat group takes HX out of service, so that its guard is CLEAR and is not run. That the guard reads the applied
value of step S4, after the causes of step S3, is the model's reading (log 45), and so is that step S4 reads HX as it then is,
though STARTING may have ended inside the evaluation (log 47). -/
def Obligations.SilicaSteps : Prop :=
  (∀ (table : List SilicaPoint) (c : Nat), table.Pairwise (fun x y => x.c < y.c) →
    (∀ p, table.head? = some p → c ≤ p.c → limitOf table c = p.t) ∧
    (∀ p, table.getLast? = some p → p.c ≤ c → limitOf table c = p.t) ∧
    ∀ l p q l', table = l ++ p :: q :: l' → p.c ≤ c → c ≤ q.c →
      limitOf table c = p.t + Int.tdiv (((c : Int) - p.c) * (q.t - p.t)) ((q.c : Int) - p.c)) ∧
  ∀ s : State,
    let v := s.snap.ai[(9 : Fin 16)]
    let x := s.swu.sil
    let r := s.evalSilica
    let y := r.swu.sil
    let w := s.swu.params
    let service := fun q : State =>
      (q.unit unitHX).phase = .none ∧ ((q.unit unitHX).state = .running ∨ (q.unit unitHX).state = .paused)
    (v.quality = .good ∨ v.quality = .limited →
      y.outcome = .evaluated ∧ y.tLim = limitOf w.table s.swu.cSil ∧ y.sm = v.value - y.tLim ∧
      (y.margin = true ↔ y.sm < w.mAlarm ∨ x.margin = true ∧ y.sm < w.mAlarm + 50) ∧
      (y.trip = true ↔ y.sm < 0 ∧ (x.trip = true ∨ w.nSt ≤ x.counter + 1)) ∧
      (x.trip = false → y.counter = if y.sm < 0 ∧ x.counter + 1 < w.nSt then x.counter + 1 else 0) ∧
      (y.margin ≠ x.margin → y.margin = true → (r.group .heat).Holds .silicaMargin) ∧
      (y.trip ≠ x.trip → y.trip = true → (r.group .heat).Holds .silicaTrip ∧ (r.group .heat).level = .trip) ∧
      (s.LogsOk → (y.margin ≠ x.margin → y.margin = false → ¬(r.group .heat).Holds .silicaMargin) ∧
        (y.trip ≠ x.trip → y.trip = false → ¬(r.group .heat).Holds .silicaTrip)) ∧
      let noted := fun (q : State) (z : Silica) => { q with swu := { q.swu with sil := z } }
      let a := noted s { y with trip := x.trip, counter := x.counter }
      let b := noted (if y.margin = x.margin then a else a.handOver .heat .silicaMargin y.margin) y
      let t := if y.trip = x.trip then b else b.handOver .heat .silicaTrip y.trip
      (service t → r = t.runGuard .silica y.sm) ∧ (¬service t → r = t) ∧
      ((y.margin = true → x.margin = true) → (y.trip = true → x.trip = true) → t.guard .silica = s.guard .silica ∧
        (service s → service t)) ∧
      (y.trip = true → x.trip = false → s.TripStatesOk → (s.group .heat).level ≠ .trip →
        ¬service t ∧ (service s → (r.guard .silica).state = .clear))) ∧
    (¬(v.quality = .good ∨ v.quality = .limited) →
      let q := { s with swu := { s.swu with sil := { x with outcome := .skipped, counter := 0 } } }
      (service s → r = q.holdGuard .silica) ∧ (¬service s → r = q))

/-- R150, R151, R153 to R155: an interval of the meter by its outcome; a product past the 64-bit arithmetic is open
(log 7). That the sum of R151 and its carry are exact, also past 2^63 - 1, is the model's choice (log 48). -/
def Obligations.MeterInterval : Prop :=
  ∀ (h : Hmt) (w : Snapshot) (dt : Nat),
    let f := w.pi[(9 : Fin 12)]
    let ws := w.ai[(10 : Fin 16)]
    let wr := w.ai[(11 : Fin 16)]
    let usable := (f.quality = .good ∨ f.quality = .noSignal) ∧ (ws.quality = .good ∨ ws.quality = .limited) ∧
      (wr.quality = .good ∨ wr.quality = .limited)
    let flow := (if f.quality = .noSignal then 0 else f.value.toNat) * h.cpW * (ws.value - wr.value).toNat
    let sum := h.residue + flow * dt
    let r := h.interval w dt
    r.lastTime = w.time ∧ r.cpW = h.cpW ∧
    (¬usable →
      r.outcome = .unmetered ∧ r.power = 0 ∧ r.kwh = h.kwh ∧ r.residue = h.residue ∧ r.reverse = h.reverse ∧
      (dt ≤ 1000 → h.unmeteredMs < 1000 → r.unmeteredMs = (h.unmeteredMs + dt) % 1000 ∧
        r.unmeteredS = if 1000 ≤ h.unmeteredMs + dt then min 4294967295 (h.unmeteredS + 1) else h.unmeteredS)) ∧
    (usable → r.unmeteredS = h.unmeteredS ∧ r.unmeteredMs = h.unmeteredMs) ∧
    (usable → ws.value < wr.value →
      r.outcome = .reverse ∧ r.power = 0 ∧ r.reverse = true ∧ r.kwh = h.kwh ∧ r.residue = h.residue) ∧
    (usable → wr.value ≤ ws.value → r.outcome = .metered ∧ r.reverse = h.reverse ∧ r.residue < 36000000000000 ∧
      (flow < 2 ^ 63 → r.power = flow / 10000) ∧
      (flow * dt < 2 ^ 63 → r.residue = sum % 36000000000000 ∧
        r.kwh = min 4294967295 (h.kwh + sum / 36000000000000)))

/-! ### The profile -/

/-- R183: PROFILE_WRITE in the order of its checks, and the end of the page write, at which the EEPROM and the mirror hold the
page. That the end comes whenever page-write busy is set, and is nothing otherwise, is the model's choice (log 1). -/
def Obligations.ProfileWrites : Prop :=
  ∀ (s : State) (m : Master) (tag : Byte) (k : Fin 128) (data : List Byte), s.StoresOk →
    let e := s.heard m
    let o := exec (.profileWrite m tag (BitVec.ofNat 16 (32 * k.val)) data) s
    (s.run = .running →
      if e.pfl.busy ≠ none then o = .next (e.respond m tag .busy [])
      else if ¬((e.group .field).level = .trip ∧ (e.group .turbine).level = .trip ∧ (e.group .heat).level = .trip) then
        o = .next (e.respond m tag .notAllTripped [])
      else o = .next ({ e with pfl := { e.pfl with busy := some 5, write := some ⟨32 * k.val, data⟩ } }.respond m tag
        .ok [])) ∧
    (s.pfl.busy = none → exec .pageWriteEnd s = .next s) ∧
    (s.pfl.busy ≠ none → ∃ t : State, exec .pageWriteEnd s = .next t ∧ t.pfl.busy = none ∧ t.pfl.write = none ∧
      { t with pfl := s.pfl } = s ∧ t.pfl.state = s.pfl.state ∧ t.pfl.failing = s.pfl.failing ∧ t.StoresOk ∧
      ∀ w, s.pfl.write = some w → ∀ a,
        let page := fun old : Byte =>
          if w.offset ≤ a ∧ a < w.offset + w.data.length then w.data.getD (a - w.offset) 0 else old
        t.pfl.mirror.read a = page (s.pfl.mirror.read a) ∧ t.pfl.eeprom.read a = page (s.pfl.eeprom.read a))
end

