-- ==== Sys2Proof/Laws/Memory.lean ====
section
/-! SUPPORT. The byte stores: every operation keeps the canonical form (R175), and what a read gives after a write. -/

namespace Sys2Proof.Machine

theorem Memory.wfFrom_mono {lo hi : Nat} (h : lo ≤ hi) : ∀ {m : Memory}, Memory.wfFrom hi m = true → Memory.wfFrom lo m = true
  | [], _ => rfl
  | (a, b) :: rest, hm => by
    simp only [Memory.wfFrom, Bool.and_eq_true, decide_eq_true_eq] at hm ⊢
    exact ⟨⟨h.trans hm.1.1, hm.1.2⟩, hm.2⟩

theorem Memory.wfFrom_cell {lo a : Nat} {b : Byte} {m : Memory} (ha : lo ≤ a) (hm : Memory.wfFrom (a + 1) m = true) :
    Memory.wfFrom lo (Memory.cell a b m) = true := by
  unfold Memory.cell
  split
  · exact Memory.wfFrom_mono (by omega) hm
  · simp_all [Memory.wfFrom]

theorem Memory.wfFrom_write {lo x : Nat} {v : Byte} (hx : lo ≤ x) {m : Memory} (hm : Memory.wfFrom lo m = true) :
    Memory.wfFrom lo (m.write x v) = true := by
  induction m generalizing lo with
  | nil => exact Memory.wfFrom_cell hx rfl
  | cons c rest ih =>
    obtain ⟨a, b⟩ := c
    simp only [Memory.wfFrom, Bool.and_eq_true, decide_eq_true_eq] at hm
    unfold Memory.write
    split_ifs with h1 h2
    · refine Memory.wfFrom_cell hx ?_
      simp only [Memory.wfFrom, Bool.and_eq_true, decide_eq_true_eq]
      exact ⟨⟨by omega, hm.1.2⟩, hm.2⟩
    · subst h2
      exact Memory.wfFrom_cell hx hm.2
    · simp only [Memory.wfFrom, Bool.and_eq_true, decide_eq_true_eq]
      exact ⟨hm.1, ih (by omega) hm.2⟩

/-- A byte written keeps the canonical form. -/
theorem Memory.wf_write {m : Memory} (h : m.wf = true) (x : Nat) (v : Byte) : (m.write x v).wf = true :=
  Memory.wfFrom_write (Nat.zero_le x) h

/-- Bytes written keep the canonical form. -/
theorem Memory.wf_writeBytes (l : List Byte) : ∀ {m : Memory} (_ : m.wf = true) (a : Nat), (m.writeBytes a l).wf = true := by
  induction l with
  | nil => exact fun h _ => h
  | cons b l ih => exact fun h a => ih (Memory.wf_write h a b) (a + 1)

theorem Memory.wfFrom_ofBytes (l : List Byte) : ∀ a, Memory.wfFrom a (Memory.ofBytes a l) = true := by
  induction l with
  | nil => exact fun _ => rfl
  | cons b l ih => exact fun a => Memory.wfFrom_cell (Nat.le_refl a) (ih (a + 1))

/-- A store made from bytes has the canonical form. -/
theorem Memory.wf_ofBytes (a : Nat) (l : List Byte) : (Memory.ofBytes a l).wf = true :=
  Memory.wfFrom_mono (Nat.zero_le a) (Memory.wfFrom_ofBytes l a)

/-- A page write that a reset cuts keeps the canonical form. -/
theorem wf_reachedBytes (d : Nat) (l : List Byte) : ∀ {m : Memory} (_ : m.wf = true) (a : Nat),
    (reachedBytes d m a l).wf = true := by
  induction l with
  | nil => exact fun h _ => h
  | cons b l ih =>
    intro m h a
    unfold reachedBytes
    refine ih ?_ (a + 1)
    split
    · exact Memory.wf_write h a b
    · exact h

/-- The stores of the reset state have the canonical form. -/
theorem wf_reset : State.reset.pfl.mirror.wf = true ∧ State.reset.pfl.eeprom.wf = true := ⟨rfl, rfl⟩

/-! ### Reads -/

theorem Memory.read_below {lo x : Nat} {m : Memory} (h : Memory.wfFrom lo m = true) (hx : x < lo) :
    m.read x = Memory.blank := by
  induction m generalizing lo with
  | nil => rfl
  | cons c rest ih =>
    obtain ⟨a, b⟩ := c
    simp only [Memory.wfFrom, Bool.and_eq_true, decide_eq_true_eq] at h
    rw [Memory.read, if_neg (by omega)]
    exact ih h.2 (by omega)

theorem Memory.read_cell {lo a x : Nat} {b : Byte} {m : Memory} (hm : Memory.wfFrom lo m = true) (ha : a < lo) :
    (Memory.cell a b m).read x = if x = a then b else m.read x := by
  unfold Memory.cell
  split
  · next h =>
    split
    · next e => rw [e, Memory.read_below hm ha, h]
    · rfl
  · rfl

/-- A read after a write to the same place gives the byte written; another place reads as before. -/
theorem Memory.read_write {m : Memory} (h : m.wf = true) (x y : Nat) (v : Byte) :
    (m.write x v).read y = if y = x then v else m.read y := by
  have key (lo : Nat) (m : Memory) (h : Memory.wfFrom lo m = true) :
      (m.write x v).read y = if y = x then v else m.read y := by
    induction m generalizing lo with
    | nil => exact Memory.read_cell (lo := x + 1) rfl (by omega)
    | cons c rest ih =>
      obtain ⟨a, b⟩ := c
      simp only [Memory.wfFrom, Bool.and_eq_true, decide_eq_true_eq] at h
      unfold Memory.write
      split_ifs with h1 h2 h3
      · rw [Memory.read_cell (lo := a) (by simp [Memory.wfFrom, h.1.2, h.2]) h1, if_pos h2]
      · rw [Memory.read_cell (lo := a) (by simp [Memory.wfFrom, h.1.2, h.2]) h1, if_neg h2]
      · subst h3
        rw [Memory.read_cell h.2 (by omega)]
        split_ifs
        rfl
      · subst h3
        rw [Memory.read_cell h.2 (by omega)]
        split_ifs
        rw [Memory.read, if_neg (by assumption)]
      · rw [Memory.read]
        next h4 =>
        subst h4
        rw [if_neg h3, ih _ h.2, if_pos rfl]
      · rw [Memory.read, Memory.read, ih _ h.2]
        split_ifs <;> rfl
  exact key 0 m h

/-- What a page write leaves: its bytes at their places, and the rest as before. -/
theorem Memory.read_writeBytes (l : List Byte) : ∀ {m : Memory} (_ : m.wf = true) (a y : Nat),
    (m.writeBytes a l).read y = if a ≤ y ∧ y < a + l.length then l.getD (y - a) 0 else m.read y := by
  induction l with
  | nil =>
    intro m _ a y
    rw [if_neg (by simp)]
    rfl
  | cons b l ih =>
    intro m h a y
    rw [Memory.writeBytes, ih (Memory.wf_write h a b), Memory.read_write h]
    simp only [List.length_cons]
    by_cases h1 : y = a
    · subst h1
      simp
    · by_cases h2 : a + 1 ≤ y ∧ y < a + 1 + l.length
      · rw [if_pos h2, if_pos (by omega)]
        obtain ⟨k, rfl⟩ : ∃ k, y = a + 1 + k := ⟨y - (a + 1), by omega⟩
        rw [show a + 1 + k - a = k + 1 by omega, show a + 1 + k - (a + 1) = k by omega]
        rfl
      · rw [if_neg h2, if_neg h1, if_neg (by omega)]

/-- What a store made from bytes reads as. -/
theorem Memory.read_ofBytes (l : List Byte) : ∀ a y, (Memory.ofBytes a l).read y =
    if a ≤ y ∧ y < a + l.length then l.getD (y - a) 0 else Memory.blank := by
  induction l with
  | nil => intro a y; rw [if_neg (by simp)]; rfl
  | cons b l ih =>
    intro a y
    rw [Memory.ofBytes, Memory.read_cell (Memory.wfFrom_ofBytes l (a + 1)) (by omega), ih]
    simp only [List.length_cons]
    by_cases h1 : y = a
    · subst h1
      simp
    · by_cases h2 : a + 1 ≤ y ∧ y < a + 1 + l.length
      · rw [if_neg h1, if_pos h2, if_pos (by omega)]
        obtain ⟨k, rfl⟩ : ∃ k, y = a + 1 + k := ⟨y - (a + 1), by omega⟩
        rw [show a + 1 + k - a = k + 1 by omega, show a + 1 + k - (a + 1) = k by omega]
        rfl
      · rw [if_neg h1, if_neg h2, if_neg (by omega)]

end Sys2Proof.Machine
end

