-- ==== Sys2Proof/Laws/State.lean ====
section
/-! SUPPORT. What each named update of State leaves as it was, one lemma per field and update, and what it puts there. -/

namespace Sys2Proof.Machine

variable (s : State)

/-! ### Tables by index -/

theorem vec3_get {α : Type} (f : Fin 3 → α) (i : Fin 3) : (vec3 f)[i] = f i := by fin_cases i <;> rfl
@[simp] theorem vec3_val {α : Type} (f : Fin 3 → α) (i : Fin 3) : (vec3 f)[i.val] = f i := vec3_get f i
theorem vec8_get {α : Type} (f : Fin 8 → α) (i : Fin 8) : (vec8 f)[i] = f i := by fin_cases i <;> rfl
@[simp] theorem vec8_val {α : Type} (f : Fin 8 → α) (i : Fin 8) : (vec8 f)[i.val] = f i := vec8_get f i
theorem vec12_get {α : Type} (f : Fin 12 → α) (i : Fin 12) : (vec12 f)[i] = f i := by fin_cases i <;> rfl
@[simp] theorem vec12_val {α : Type} (f : Fin 12 → α) (i : Fin 12) : (vec12 f)[i.val] = f i := vec12_get f i
theorem vec16_get {α : Type} (f : Fin 16 → α) (i : Fin 16) : (vec16 f)[i] = f i := by fin_cases i <;> rfl
@[simp] theorem vec16_val {α : Type} (f : Fin 16 → α) (i : Fin 16) : (vec16 f)[i.val] = f i := vec16_get f i

theorem masterIdx_inj {m n : Master} : masterIdx m = masterIdx n ↔ m = n := by cases m <;> cases n <;> decide
theorem groupIdx_inj {g k : Group} : groupIdx g = groupIdx k ↔ g = k := by cases g <;> cases k <;> decide
@[simp] theorem masterAt_masterIdx (m : Master) : masterAt (masterIdx m) = m := by cases m <;> rfl
@[simp] theorem groupAt_groupIdx (g : Group) : groupAt (groupIdx g) = g := by cases g <;> rfl

/-- Reading a table at one place after another place was set. -/
theorem set_get {α : Type} {n : Nat} (v : Vector α n) (i j : Fin n) (x : α) :
    (v.set i x)[j] = if j = i then x else v[j] := by
  by_cases h : j = i
  · subst h; simp
  · have : (i : Nat) ≠ j := fun e => h (Fin.ext e.symm)
    simp [h, this]

/-! ### Fields an update leaves -/

@[simp] theorem State.modPort_pending (m : Master) (f : Port → Port) : (s.modPort m f).pending = s.pending := rfl
@[simp] theorem State.modPort_draws (m : Master) (f : Port → Port) : (s.modPort m f).draws = s.draws := rfl
@[simp] theorem State.modPort_run (m : Master) (f : Port → Port) : (s.modPort m f).run = s.run := rfl
@[simp] theorem State.modPort_tick (m : Master) (f : Port → Port) : (s.modPort m f).tick = s.tick := rfl
@[simp] theorem State.modPort_ms (m : Master) (f : Port → Port) : (s.modPort m f).ms = s.ms := rfl
@[simp] theorem State.modPort_map (m : Master) (f : Port → Port) : (s.modPort m f).map = s.map := rfl
@[simp] theorem State.modPort_offerTimeout (m : Master) (f : Port → Port) : (s.modPort m f).offerTimeout = s.offerTimeout := rfl
@[simp] theorem State.modPort_ch (m : Master) (f : Port → Port) : (s.modPort m f).ch = s.ch := rfl
@[simp] theorem State.modPort_asu (m : Master) (f : Port → Port) : (s.modPort m f).asu = s.asu := rfl
@[simp] theorem State.modPort_ai (m : Master) (f : Port → Port) : (s.modPort m f).ai = s.ai := rfl
@[simp] theorem State.modPort_snap (m : Master) (f : Port → Port) : (s.modPort m f).snap = s.snap := rfl
@[simp] theorem State.modPort_pi (m : Master) (f : Port → Port) : (s.modPort m f).pi = s.pi := rfl
@[simp] theorem State.modPort_di (m : Master) (f : Port → Port) : (s.modPort m f).di = s.di := rfl
@[simp] theorem State.modPort_units (m : Master) (f : Port → Port) : (s.modPort m f).units = s.units := rfl
@[simp] theorem State.modPort_groups (m : Master) (f : Port → Port) : (s.modPort m f).groups = s.groups := rfl
@[simp] theorem State.modPort_actions (m : Master) (f : Port → Port) : (s.modPort m f).actions = s.actions := rfl
@[simp] theorem State.modPort_tsm (m : Master) (f : Port → Port) : (s.modPort m f).tsm = s.tsm := rfl
@[simp] theorem State.modPort_swu (m : Master) (f : Port → Port) : (s.modPort m f).swu = s.swu := rfl
@[simp] theorem State.modPort_hmt (m : Master) (f : Port → Port) : (s.modPort m f).hmt = s.hmt := rfl
@[simp] theorem State.modPort_pfl (m : Master) (f : Port → Port) : (s.modPort m f).pfl = s.pfl := rfl

@[simp] theorem State.modEntry_pending (c : ChanId) (f : MapEntry → MapEntry) : (s.modEntry c f).pending = s.pending := rfl
@[simp] theorem State.modEntry_draws (c : ChanId) (f : MapEntry → MapEntry) : (s.modEntry c f).draws = s.draws := rfl
@[simp] theorem State.modEntry_run (c : ChanId) (f : MapEntry → MapEntry) : (s.modEntry c f).run = s.run := rfl
@[simp] theorem State.modEntry_tick (c : ChanId) (f : MapEntry → MapEntry) : (s.modEntry c f).tick = s.tick := rfl
@[simp] theorem State.modEntry_ms (c : ChanId) (f : MapEntry → MapEntry) : (s.modEntry c f).ms = s.ms := rfl
@[simp] theorem State.modEntry_ports (c : ChanId) (f : MapEntry → MapEntry) : (s.modEntry c f).ports = s.ports := rfl
@[simp] theorem State.modEntry_offerTimeout (c : ChanId) (f : MapEntry → MapEntry) : (s.modEntry c f).offerTimeout = s.offerTimeout := rfl
@[simp] theorem State.modEntry_ch (c : ChanId) (f : MapEntry → MapEntry) : (s.modEntry c f).ch = s.ch := rfl
@[simp] theorem State.modEntry_asu (c : ChanId) (f : MapEntry → MapEntry) : (s.modEntry c f).asu = s.asu := rfl
@[simp] theorem State.modEntry_ai (c : ChanId) (f : MapEntry → MapEntry) : (s.modEntry c f).ai = s.ai := rfl
@[simp] theorem State.modEntry_snap (c : ChanId) (f : MapEntry → MapEntry) : (s.modEntry c f).snap = s.snap := rfl
@[simp] theorem State.modEntry_pi (c : ChanId) (f : MapEntry → MapEntry) : (s.modEntry c f).pi = s.pi := rfl
@[simp] theorem State.modEntry_di (c : ChanId) (f : MapEntry → MapEntry) : (s.modEntry c f).di = s.di := rfl
@[simp] theorem State.modEntry_units (c : ChanId) (f : MapEntry → MapEntry) : (s.modEntry c f).units = s.units := rfl
@[simp] theorem State.modEntry_groups (c : ChanId) (f : MapEntry → MapEntry) : (s.modEntry c f).groups = s.groups := rfl
@[simp] theorem State.modEntry_actions (c : ChanId) (f : MapEntry → MapEntry) : (s.modEntry c f).actions = s.actions := rfl
@[simp] theorem State.modEntry_tsm (c : ChanId) (f : MapEntry → MapEntry) : (s.modEntry c f).tsm = s.tsm := rfl
@[simp] theorem State.modEntry_swu (c : ChanId) (f : MapEntry → MapEntry) : (s.modEntry c f).swu = s.swu := rfl
@[simp] theorem State.modEntry_hmt (c : ChanId) (f : MapEntry → MapEntry) : (s.modEntry c f).hmt = s.hmt := rfl
@[simp] theorem State.modEntry_pfl (c : ChanId) (f : MapEntry → MapEntry) : (s.modEntry c f).pfl = s.pfl := rfl

@[simp] theorem State.modChan_pending (c : ChanId) (f : Channel → Channel) : (s.modChan c f).pending = s.pending := rfl
@[simp] theorem State.modChan_draws (c : ChanId) (f : Channel → Channel) : (s.modChan c f).draws = s.draws := rfl
@[simp] theorem State.modChan_run (c : ChanId) (f : Channel → Channel) : (s.modChan c f).run = s.run := rfl
@[simp] theorem State.modChan_tick (c : ChanId) (f : Channel → Channel) : (s.modChan c f).tick = s.tick := rfl
@[simp] theorem State.modChan_ms (c : ChanId) (f : Channel → Channel) : (s.modChan c f).ms = s.ms := rfl
@[simp] theorem State.modChan_ports (c : ChanId) (f : Channel → Channel) : (s.modChan c f).ports = s.ports := rfl
@[simp] theorem State.modChan_map (c : ChanId) (f : Channel → Channel) : (s.modChan c f).map = s.map := rfl
@[simp] theorem State.modChan_offerTimeout (c : ChanId) (f : Channel → Channel) : (s.modChan c f).offerTimeout = s.offerTimeout := rfl
@[simp] theorem State.modChan_asu (c : ChanId) (f : Channel → Channel) : (s.modChan c f).asu = s.asu := rfl
@[simp] theorem State.modChan_ai (c : ChanId) (f : Channel → Channel) : (s.modChan c f).ai = s.ai := rfl
@[simp] theorem State.modChan_snap (c : ChanId) (f : Channel → Channel) : (s.modChan c f).snap = s.snap := rfl
@[simp] theorem State.modChan_pi (c : ChanId) (f : Channel → Channel) : (s.modChan c f).pi = s.pi := rfl
@[simp] theorem State.modChan_di (c : ChanId) (f : Channel → Channel) : (s.modChan c f).di = s.di := rfl
@[simp] theorem State.modChan_units (c : ChanId) (f : Channel → Channel) : (s.modChan c f).units = s.units := rfl
@[simp] theorem State.modChan_groups (c : ChanId) (f : Channel → Channel) : (s.modChan c f).groups = s.groups := rfl
@[simp] theorem State.modChan_actions (c : ChanId) (f : Channel → Channel) : (s.modChan c f).actions = s.actions := rfl
@[simp] theorem State.modChan_tsm (c : ChanId) (f : Channel → Channel) : (s.modChan c f).tsm = s.tsm := rfl
@[simp] theorem State.modChan_swu (c : ChanId) (f : Channel → Channel) : (s.modChan c f).swu = s.swu := rfl
@[simp] theorem State.modChan_hmt (c : ChanId) (f : Channel → Channel) : (s.modChan c f).hmt = s.hmt := rfl
@[simp] theorem State.modChan_pfl (c : ChanId) (f : Channel → Channel) : (s.modChan c f).pfl = s.pfl := rfl

@[simp] theorem State.modAnalog_pending (n : Fin 16) (f : Analog → Analog) : (s.modAnalog n f).pending = s.pending := rfl
@[simp] theorem State.modAnalog_draws (n : Fin 16) (f : Analog → Analog) : (s.modAnalog n f).draws = s.draws := rfl
@[simp] theorem State.modAnalog_run (n : Fin 16) (f : Analog → Analog) : (s.modAnalog n f).run = s.run := rfl
@[simp] theorem State.modAnalog_tick (n : Fin 16) (f : Analog → Analog) : (s.modAnalog n f).tick = s.tick := rfl
@[simp] theorem State.modAnalog_ms (n : Fin 16) (f : Analog → Analog) : (s.modAnalog n f).ms = s.ms := rfl
@[simp] theorem State.modAnalog_ports (n : Fin 16) (f : Analog → Analog) : (s.modAnalog n f).ports = s.ports := rfl
@[simp] theorem State.modAnalog_map (n : Fin 16) (f : Analog → Analog) : (s.modAnalog n f).map = s.map := rfl
@[simp] theorem State.modAnalog_offerTimeout (n : Fin 16) (f : Analog → Analog) : (s.modAnalog n f).offerTimeout = s.offerTimeout := rfl
@[simp] theorem State.modAnalog_ch (n : Fin 16) (f : Analog → Analog) : (s.modAnalog n f).ch = s.ch := rfl
@[simp] theorem State.modAnalog_asu (n : Fin 16) (f : Analog → Analog) : (s.modAnalog n f).asu = s.asu := rfl
@[simp] theorem State.modAnalog_snap (n : Fin 16) (f : Analog → Analog) : (s.modAnalog n f).snap = s.snap := rfl
@[simp] theorem State.modAnalog_pi (n : Fin 16) (f : Analog → Analog) : (s.modAnalog n f).pi = s.pi := rfl
@[simp] theorem State.modAnalog_di (n : Fin 16) (f : Analog → Analog) : (s.modAnalog n f).di = s.di := rfl
@[simp] theorem State.modAnalog_units (n : Fin 16) (f : Analog → Analog) : (s.modAnalog n f).units = s.units := rfl
@[simp] theorem State.modAnalog_groups (n : Fin 16) (f : Analog → Analog) : (s.modAnalog n f).groups = s.groups := rfl
@[simp] theorem State.modAnalog_actions (n : Fin 16) (f : Analog → Analog) : (s.modAnalog n f).actions = s.actions := rfl
@[simp] theorem State.modAnalog_tsm (n : Fin 16) (f : Analog → Analog) : (s.modAnalog n f).tsm = s.tsm := rfl
@[simp] theorem State.modAnalog_swu (n : Fin 16) (f : Analog → Analog) : (s.modAnalog n f).swu = s.swu := rfl
@[simp] theorem State.modAnalog_hmt (n : Fin 16) (f : Analog → Analog) : (s.modAnalog n f).hmt = s.hmt := rfl
@[simp] theorem State.modAnalog_pfl (n : Fin 16) (f : Analog → Analog) : (s.modAnalog n f).pfl = s.pfl := rfl

@[simp] theorem State.modPulse_pending (j : PulseId) (f : Pulse → Pulse) : (s.modPulse j f).pending = s.pending := rfl
@[simp] theorem State.modPulse_draws (j : PulseId) (f : Pulse → Pulse) : (s.modPulse j f).draws = s.draws := rfl
@[simp] theorem State.modPulse_run (j : PulseId) (f : Pulse → Pulse) : (s.modPulse j f).run = s.run := rfl
@[simp] theorem State.modPulse_tick (j : PulseId) (f : Pulse → Pulse) : (s.modPulse j f).tick = s.tick := rfl
@[simp] theorem State.modPulse_ms (j : PulseId) (f : Pulse → Pulse) : (s.modPulse j f).ms = s.ms := rfl
@[simp] theorem State.modPulse_ports (j : PulseId) (f : Pulse → Pulse) : (s.modPulse j f).ports = s.ports := rfl
@[simp] theorem State.modPulse_map (j : PulseId) (f : Pulse → Pulse) : (s.modPulse j f).map = s.map := rfl
@[simp] theorem State.modPulse_offerTimeout (j : PulseId) (f : Pulse → Pulse) : (s.modPulse j f).offerTimeout = s.offerTimeout := rfl
@[simp] theorem State.modPulse_ch (j : PulseId) (f : Pulse → Pulse) : (s.modPulse j f).ch = s.ch := rfl
@[simp] theorem State.modPulse_asu (j : PulseId) (f : Pulse → Pulse) : (s.modPulse j f).asu = s.asu := rfl
@[simp] theorem State.modPulse_ai (j : PulseId) (f : Pulse → Pulse) : (s.modPulse j f).ai = s.ai := rfl
@[simp] theorem State.modPulse_snap (j : PulseId) (f : Pulse → Pulse) : (s.modPulse j f).snap = s.snap := rfl
@[simp] theorem State.modPulse_di (j : PulseId) (f : Pulse → Pulse) : (s.modPulse j f).di = s.di := rfl
@[simp] theorem State.modPulse_units (j : PulseId) (f : Pulse → Pulse) : (s.modPulse j f).units = s.units := rfl
@[simp] theorem State.modPulse_groups (j : PulseId) (f : Pulse → Pulse) : (s.modPulse j f).groups = s.groups := rfl
@[simp] theorem State.modPulse_actions (j : PulseId) (f : Pulse → Pulse) : (s.modPulse j f).actions = s.actions := rfl
@[simp] theorem State.modPulse_tsm (j : PulseId) (f : Pulse → Pulse) : (s.modPulse j f).tsm = s.tsm := rfl
@[simp] theorem State.modPulse_swu (j : PulseId) (f : Pulse → Pulse) : (s.modPulse j f).swu = s.swu := rfl
@[simp] theorem State.modPulse_hmt (j : PulseId) (f : Pulse → Pulse) : (s.modPulse j f).hmt = s.hmt := rfl
@[simp] theorem State.modPulse_pfl (j : PulseId) (f : Pulse → Pulse) : (s.modPulse j f).pfl = s.pfl := rfl

@[simp] theorem State.modUnit_pending (u : UnitId) (f : UnitRec → UnitRec) : (s.modUnit u f).pending = s.pending := rfl
@[simp] theorem State.modUnit_draws (u : UnitId) (f : UnitRec → UnitRec) : (s.modUnit u f).draws = s.draws := rfl
@[simp] theorem State.modUnit_run (u : UnitId) (f : UnitRec → UnitRec) : (s.modUnit u f).run = s.run := rfl
@[simp] theorem State.modUnit_tick (u : UnitId) (f : UnitRec → UnitRec) : (s.modUnit u f).tick = s.tick := rfl
@[simp] theorem State.modUnit_ms (u : UnitId) (f : UnitRec → UnitRec) : (s.modUnit u f).ms = s.ms := rfl
@[simp] theorem State.modUnit_ports (u : UnitId) (f : UnitRec → UnitRec) : (s.modUnit u f).ports = s.ports := rfl
@[simp] theorem State.modUnit_map (u : UnitId) (f : UnitRec → UnitRec) : (s.modUnit u f).map = s.map := rfl
@[simp] theorem State.modUnit_offerTimeout (u : UnitId) (f : UnitRec → UnitRec) : (s.modUnit u f).offerTimeout = s.offerTimeout := rfl
@[simp] theorem State.modUnit_ch (u : UnitId) (f : UnitRec → UnitRec) : (s.modUnit u f).ch = s.ch := rfl
@[simp] theorem State.modUnit_asu (u : UnitId) (f : UnitRec → UnitRec) : (s.modUnit u f).asu = s.asu := rfl
@[simp] theorem State.modUnit_ai (u : UnitId) (f : UnitRec → UnitRec) : (s.modUnit u f).ai = s.ai := rfl
@[simp] theorem State.modUnit_snap (u : UnitId) (f : UnitRec → UnitRec) : (s.modUnit u f).snap = s.snap := rfl
@[simp] theorem State.modUnit_pi (u : UnitId) (f : UnitRec → UnitRec) : (s.modUnit u f).pi = s.pi := rfl
@[simp] theorem State.modUnit_di (u : UnitId) (f : UnitRec → UnitRec) : (s.modUnit u f).di = s.di := rfl
@[simp] theorem State.modUnit_groups (u : UnitId) (f : UnitRec → UnitRec) : (s.modUnit u f).groups = s.groups := rfl
@[simp] theorem State.modUnit_actions (u : UnitId) (f : UnitRec → UnitRec) : (s.modUnit u f).actions = s.actions := rfl
@[simp] theorem State.modUnit_tsm (u : UnitId) (f : UnitRec → UnitRec) : (s.modUnit u f).tsm = s.tsm := rfl
@[simp] theorem State.modUnit_swu (u : UnitId) (f : UnitRec → UnitRec) : (s.modUnit u f).swu = s.swu := rfl
@[simp] theorem State.modUnit_hmt (u : UnitId) (f : UnitRec → UnitRec) : (s.modUnit u f).hmt = s.hmt := rfl
@[simp] theorem State.modUnit_pfl (u : UnitId) (f : UnitRec → UnitRec) : (s.modUnit u f).pfl = s.pfl := rfl

@[simp] theorem State.modGroup_pending (g : Group) (f : GroupRec → GroupRec) : (s.modGroup g f).pending = s.pending := rfl
@[simp] theorem State.modGroup_draws (g : Group) (f : GroupRec → GroupRec) : (s.modGroup g f).draws = s.draws := rfl
@[simp] theorem State.modGroup_run (g : Group) (f : GroupRec → GroupRec) : (s.modGroup g f).run = s.run := rfl
@[simp] theorem State.modGroup_tick (g : Group) (f : GroupRec → GroupRec) : (s.modGroup g f).tick = s.tick := rfl
@[simp] theorem State.modGroup_ms (g : Group) (f : GroupRec → GroupRec) : (s.modGroup g f).ms = s.ms := rfl
@[simp] theorem State.modGroup_ports (g : Group) (f : GroupRec → GroupRec) : (s.modGroup g f).ports = s.ports := rfl
@[simp] theorem State.modGroup_map (g : Group) (f : GroupRec → GroupRec) : (s.modGroup g f).map = s.map := rfl
@[simp] theorem State.modGroup_offerTimeout (g : Group) (f : GroupRec → GroupRec) : (s.modGroup g f).offerTimeout = s.offerTimeout := rfl
@[simp] theorem State.modGroup_ch (g : Group) (f : GroupRec → GroupRec) : (s.modGroup g f).ch = s.ch := rfl
@[simp] theorem State.modGroup_asu (g : Group) (f : GroupRec → GroupRec) : (s.modGroup g f).asu = s.asu := rfl
@[simp] theorem State.modGroup_ai (g : Group) (f : GroupRec → GroupRec) : (s.modGroup g f).ai = s.ai := rfl
@[simp] theorem State.modGroup_snap (g : Group) (f : GroupRec → GroupRec) : (s.modGroup g f).snap = s.snap := rfl
@[simp] theorem State.modGroup_pi (g : Group) (f : GroupRec → GroupRec) : (s.modGroup g f).pi = s.pi := rfl
@[simp] theorem State.modGroup_di (g : Group) (f : GroupRec → GroupRec) : (s.modGroup g f).di = s.di := rfl
@[simp] theorem State.modGroup_units (g : Group) (f : GroupRec → GroupRec) : (s.modGroup g f).units = s.units := rfl
@[simp] theorem State.modGroup_actions (g : Group) (f : GroupRec → GroupRec) : (s.modGroup g f).actions = s.actions := rfl
@[simp] theorem State.modGroup_tsm (g : Group) (f : GroupRec → GroupRec) : (s.modGroup g f).tsm = s.tsm := rfl
@[simp] theorem State.modGroup_swu (g : Group) (f : GroupRec → GroupRec) : (s.modGroup g f).swu = s.swu := rfl
@[simp] theorem State.modGroup_hmt (g : Group) (f : GroupRec → GroupRec) : (s.modGroup g f).hmt = s.hmt := rfl
@[simp] theorem State.modGroup_pfl (g : Group) (f : GroupRec → GroupRec) : (s.modGroup g f).pfl = s.pfl := rfl

@[simp] theorem State.modTsm_pending (f : Tsm → Tsm) : (s.modTsm f).pending = s.pending := rfl
@[simp] theorem State.modTsm_draws (f : Tsm → Tsm) : (s.modTsm f).draws = s.draws := rfl
@[simp] theorem State.modTsm_run (f : Tsm → Tsm) : (s.modTsm f).run = s.run := rfl
@[simp] theorem State.modTsm_tick (f : Tsm → Tsm) : (s.modTsm f).tick = s.tick := rfl
@[simp] theorem State.modTsm_ms (f : Tsm → Tsm) : (s.modTsm f).ms = s.ms := rfl
@[simp] theorem State.modTsm_ports (f : Tsm → Tsm) : (s.modTsm f).ports = s.ports := rfl
@[simp] theorem State.modTsm_map (f : Tsm → Tsm) : (s.modTsm f).map = s.map := rfl
@[simp] theorem State.modTsm_offerTimeout (f : Tsm → Tsm) : (s.modTsm f).offerTimeout = s.offerTimeout := rfl
@[simp] theorem State.modTsm_ch (f : Tsm → Tsm) : (s.modTsm f).ch = s.ch := rfl
@[simp] theorem State.modTsm_asu (f : Tsm → Tsm) : (s.modTsm f).asu = s.asu := rfl
@[simp] theorem State.modTsm_ai (f : Tsm → Tsm) : (s.modTsm f).ai = s.ai := rfl
@[simp] theorem State.modTsm_snap (f : Tsm → Tsm) : (s.modTsm f).snap = s.snap := rfl
@[simp] theorem State.modTsm_pi (f : Tsm → Tsm) : (s.modTsm f).pi = s.pi := rfl
@[simp] theorem State.modTsm_di (f : Tsm → Tsm) : (s.modTsm f).di = s.di := rfl
@[simp] theorem State.modTsm_units (f : Tsm → Tsm) : (s.modTsm f).units = s.units := rfl
@[simp] theorem State.modTsm_groups (f : Tsm → Tsm) : (s.modTsm f).groups = s.groups := rfl
@[simp] theorem State.modTsm_actions (f : Tsm → Tsm) : (s.modTsm f).actions = s.actions := rfl
@[simp] theorem State.modTsm_swu (f : Tsm → Tsm) : (s.modTsm f).swu = s.swu := rfl
@[simp] theorem State.modTsm_hmt (f : Tsm → Tsm) : (s.modTsm f).hmt = s.hmt := rfl
@[simp] theorem State.modTsm_pfl (f : Tsm → Tsm) : (s.modTsm f).pfl = s.pfl := rfl

@[simp] theorem State.modSwu_pending (f : Swu → Swu) : (s.modSwu f).pending = s.pending := rfl
@[simp] theorem State.modSwu_draws (f : Swu → Swu) : (s.modSwu f).draws = s.draws := rfl
@[simp] theorem State.modSwu_run (f : Swu → Swu) : (s.modSwu f).run = s.run := rfl
@[simp] theorem State.modSwu_tick (f : Swu → Swu) : (s.modSwu f).tick = s.tick := rfl
@[simp] theorem State.modSwu_ms (f : Swu → Swu) : (s.modSwu f).ms = s.ms := rfl
@[simp] theorem State.modSwu_ports (f : Swu → Swu) : (s.modSwu f).ports = s.ports := rfl
@[simp] theorem State.modSwu_map (f : Swu → Swu) : (s.modSwu f).map = s.map := rfl
@[simp] theorem State.modSwu_offerTimeout (f : Swu → Swu) : (s.modSwu f).offerTimeout = s.offerTimeout := rfl
@[simp] theorem State.modSwu_ch (f : Swu → Swu) : (s.modSwu f).ch = s.ch := rfl
@[simp] theorem State.modSwu_asu (f : Swu → Swu) : (s.modSwu f).asu = s.asu := rfl
@[simp] theorem State.modSwu_ai (f : Swu → Swu) : (s.modSwu f).ai = s.ai := rfl
@[simp] theorem State.modSwu_snap (f : Swu → Swu) : (s.modSwu f).snap = s.snap := rfl
@[simp] theorem State.modSwu_pi (f : Swu → Swu) : (s.modSwu f).pi = s.pi := rfl
@[simp] theorem State.modSwu_di (f : Swu → Swu) : (s.modSwu f).di = s.di := rfl
@[simp] theorem State.modSwu_units (f : Swu → Swu) : (s.modSwu f).units = s.units := rfl
@[simp] theorem State.modSwu_groups (f : Swu → Swu) : (s.modSwu f).groups = s.groups := rfl
@[simp] theorem State.modSwu_actions (f : Swu → Swu) : (s.modSwu f).actions = s.actions := rfl
@[simp] theorem State.modSwu_tsm (f : Swu → Swu) : (s.modSwu f).tsm = s.tsm := rfl
@[simp] theorem State.modSwu_hmt (f : Swu → Swu) : (s.modSwu f).hmt = s.hmt := rfl
@[simp] theorem State.modSwu_pfl (f : Swu → Swu) : (s.modSwu f).pfl = s.pfl := rfl

@[simp] theorem State.modPfl_pending (f : Pfl → Pfl) : (s.modPfl f).pending = s.pending := rfl
@[simp] theorem State.modPfl_draws (f : Pfl → Pfl) : (s.modPfl f).draws = s.draws := rfl
@[simp] theorem State.modPfl_run (f : Pfl → Pfl) : (s.modPfl f).run = s.run := rfl
@[simp] theorem State.modPfl_tick (f : Pfl → Pfl) : (s.modPfl f).tick = s.tick := rfl
@[simp] theorem State.modPfl_ms (f : Pfl → Pfl) : (s.modPfl f).ms = s.ms := rfl
@[simp] theorem State.modPfl_ports (f : Pfl → Pfl) : (s.modPfl f).ports = s.ports := rfl
@[simp] theorem State.modPfl_map (f : Pfl → Pfl) : (s.modPfl f).map = s.map := rfl
@[simp] theorem State.modPfl_offerTimeout (f : Pfl → Pfl) : (s.modPfl f).offerTimeout = s.offerTimeout := rfl
@[simp] theorem State.modPfl_ch (f : Pfl → Pfl) : (s.modPfl f).ch = s.ch := rfl
@[simp] theorem State.modPfl_asu (f : Pfl → Pfl) : (s.modPfl f).asu = s.asu := rfl
@[simp] theorem State.modPfl_ai (f : Pfl → Pfl) : (s.modPfl f).ai = s.ai := rfl
@[simp] theorem State.modPfl_snap (f : Pfl → Pfl) : (s.modPfl f).snap = s.snap := rfl
@[simp] theorem State.modPfl_pi (f : Pfl → Pfl) : (s.modPfl f).pi = s.pi := rfl
@[simp] theorem State.modPfl_di (f : Pfl → Pfl) : (s.modPfl f).di = s.di := rfl
@[simp] theorem State.modPfl_units (f : Pfl → Pfl) : (s.modPfl f).units = s.units := rfl
@[simp] theorem State.modPfl_groups (f : Pfl → Pfl) : (s.modPfl f).groups = s.groups := rfl
@[simp] theorem State.modPfl_actions (f : Pfl → Pfl) : (s.modPfl f).actions = s.actions := rfl
@[simp] theorem State.modPfl_tsm (f : Pfl → Pfl) : (s.modPfl f).tsm = s.tsm := rfl
@[simp] theorem State.modPfl_swu (f : Pfl → Pfl) : (s.modPfl f).swu = s.swu := rfl
@[simp] theorem State.modPfl_hmt (f : Pfl → Pfl) : (s.modPfl f).hmt = s.hmt := rfl

@[simp] theorem State.queue_pending (who : Master → Bool) (b : EventBody) : (s.queue who b).pending = s.pending := rfl
@[simp] theorem State.queue_draws (who : Master → Bool) (b : EventBody) : (s.queue who b).draws = s.draws := rfl
@[simp] theorem State.queue_run (who : Master → Bool) (b : EventBody) : (s.queue who b).run = s.run := rfl
@[simp] theorem State.queue_tick (who : Master → Bool) (b : EventBody) : (s.queue who b).tick = s.tick := rfl
@[simp] theorem State.queue_ms (who : Master → Bool) (b : EventBody) : (s.queue who b).ms = s.ms := rfl
@[simp] theorem State.queue_map (who : Master → Bool) (b : EventBody) : (s.queue who b).map = s.map := rfl
@[simp] theorem State.queue_offerTimeout (who : Master → Bool) (b : EventBody) : (s.queue who b).offerTimeout = s.offerTimeout := rfl
@[simp] theorem State.queue_ch (who : Master → Bool) (b : EventBody) : (s.queue who b).ch = s.ch := rfl
@[simp] theorem State.queue_asu (who : Master → Bool) (b : EventBody) : (s.queue who b).asu = s.asu := rfl
@[simp] theorem State.queue_ai (who : Master → Bool) (b : EventBody) : (s.queue who b).ai = s.ai := rfl
@[simp] theorem State.queue_snap (who : Master → Bool) (b : EventBody) : (s.queue who b).snap = s.snap := rfl
@[simp] theorem State.queue_pi (who : Master → Bool) (b : EventBody) : (s.queue who b).pi = s.pi := rfl
@[simp] theorem State.queue_di (who : Master → Bool) (b : EventBody) : (s.queue who b).di = s.di := rfl
@[simp] theorem State.queue_units (who : Master → Bool) (b : EventBody) : (s.queue who b).units = s.units := rfl
@[simp] theorem State.queue_groups (who : Master → Bool) (b : EventBody) : (s.queue who b).groups = s.groups := rfl
@[simp] theorem State.queue_actions (who : Master → Bool) (b : EventBody) : (s.queue who b).actions = s.actions := rfl
@[simp] theorem State.queue_tsm (who : Master → Bool) (b : EventBody) : (s.queue who b).tsm = s.tsm := rfl
@[simp] theorem State.queue_swu (who : Master → Bool) (b : EventBody) : (s.queue who b).swu = s.swu := rfl
@[simp] theorem State.queue_hmt (who : Master → Bool) (b : EventBody) : (s.queue who b).hmt = s.hmt := rfl
@[simp] theorem State.queue_pfl (who : Master → Bool) (b : EventBody) : (s.queue who b).pfl = s.pfl := rfl

/-! ### What an update puts -/

theorem State.port_modPort (m n : Master) (f : Port → Port) :
    (s.modPort m f).port n = if n = m then f (s.port m) else s.port n := by
  simp only [State.port, State.modPort, set_get, masterIdx_inj]

theorem State.entry_modEntry (c d : ChanId) (f : MapEntry → MapEntry) :
    (s.modEntry c f).entry d = if d = c then f (s.entry c) else s.entry d := by
  simp only [State.entry, State.modEntry, set_get]

theorem State.chan_modChan (c d : ChanId) (f : Channel → Channel) :
    (s.modChan c f).chan d = if d = c then f (s.chan c) else s.chan d := by
  simp only [State.chan, State.modChan, set_get]

theorem State.analog_modAnalog (n k : Fin 16) (f : Analog → Analog) :
    (s.modAnalog n f).analog k = if k = n then f (s.analog n) else s.analog k := by
  simp only [State.analog, State.modAnalog, set_get]

theorem State.pulse_modPulse (j k : PulseId) (f : Pulse → Pulse) :
    (s.modPulse j f).pulse k = if k = j then f (s.pulse j) else s.pulse k := by
  simp only [State.pulse, State.modPulse, set_get]

theorem State.unit_modUnit (u v : UnitId) (f : UnitRec → UnitRec) :
    (s.modUnit u f).unit v = if v = u then f (s.unit u) else s.unit v := by
  simp only [State.unit, State.modUnit, set_get]

theorem State.group_modGroup (g k : Group) (f : GroupRec → GroupRec) :
    (s.modGroup g f).group k = if k = g then f (s.group g) else s.group k := by
  simp only [State.group, State.modGroup, set_get, groupIdx_inj]

@[simp] theorem State.modTsm_tsm (f : Tsm → Tsm) : (s.modTsm f).tsm = f s.tsm := rfl
@[simp] theorem State.modSwu_swu (f : Swu → Swu) : (s.modSwu f).swu = f s.swu := rfl
@[simp] theorem State.modPfl_pfl (f : Pfl → Pfl) : (s.modPfl f).pfl = f s.pfl := rfl

/-- R165, R166: a record queued reaches the ports named. -/
theorem State.port_queue (who : Master → Bool) (b : EventBody) (m : Master) :
    (s.queue who b).port m = if who m then (s.port m).append ⟨s.ms, b⟩ else s.port m := by
  cases m <;> rfl

/-! ### Records an update does not reach -/

@[simp] theorem State.modPort_entry (m : Master) (f : Port → Port) (x : ChanId) : (s.modPort m f).entry x = s.entry x := rfl
@[simp] theorem State.modPort_chan (m : Master) (f : Port → Port) (x : ChanId) : (s.modPort m f).chan x = s.chan x := rfl
@[simp] theorem State.modPort_analog (m : Master) (f : Port → Port) (x : Fin 16) : (s.modPort m f).analog x = s.analog x := rfl
@[simp] theorem State.modPort_pulse (m : Master) (f : Port → Port) (x : PulseId) : (s.modPort m f).pulse x = s.pulse x := rfl
@[simp] theorem State.modPort_unit (m : Master) (f : Port → Port) (x : UnitId) : (s.modPort m f).unit x = s.unit x := rfl
@[simp] theorem State.modPort_group (m : Master) (f : Port → Port) (x : Group) : (s.modPort m f).group x = s.group x := rfl

@[simp] theorem State.modEntry_port (c : ChanId) (f : MapEntry → MapEntry) (x : Master) : (s.modEntry c f).port x = s.port x := rfl
@[simp] theorem State.modEntry_chan (c : ChanId) (f : MapEntry → MapEntry) (x : ChanId) : (s.modEntry c f).chan x = s.chan x := rfl
@[simp] theorem State.modEntry_analog (c : ChanId) (f : MapEntry → MapEntry) (x : Fin 16) : (s.modEntry c f).analog x = s.analog x := rfl
@[simp] theorem State.modEntry_pulse (c : ChanId) (f : MapEntry → MapEntry) (x : PulseId) : (s.modEntry c f).pulse x = s.pulse x := rfl
@[simp] theorem State.modEntry_unit (c : ChanId) (f : MapEntry → MapEntry) (x : UnitId) : (s.modEntry c f).unit x = s.unit x := rfl
@[simp] theorem State.modEntry_group (c : ChanId) (f : MapEntry → MapEntry) (x : Group) : (s.modEntry c f).group x = s.group x := rfl

@[simp] theorem State.modChan_port (c : ChanId) (f : Channel → Channel) (x : Master) : (s.modChan c f).port x = s.port x := rfl
@[simp] theorem State.modChan_entry (c : ChanId) (f : Channel → Channel) (x : ChanId) : (s.modChan c f).entry x = s.entry x := rfl
@[simp] theorem State.modChan_analog (c : ChanId) (f : Channel → Channel) (x : Fin 16) : (s.modChan c f).analog x = s.analog x := rfl
@[simp] theorem State.modChan_pulse (c : ChanId) (f : Channel → Channel) (x : PulseId) : (s.modChan c f).pulse x = s.pulse x := rfl
@[simp] theorem State.modChan_unit (c : ChanId) (f : Channel → Channel) (x : UnitId) : (s.modChan c f).unit x = s.unit x := rfl
@[simp] theorem State.modChan_group (c : ChanId) (f : Channel → Channel) (x : Group) : (s.modChan c f).group x = s.group x := rfl

@[simp] theorem State.modAnalog_port (n : Fin 16) (f : Analog → Analog) (x : Master) : (s.modAnalog n f).port x = s.port x := rfl
@[simp] theorem State.modAnalog_entry (n : Fin 16) (f : Analog → Analog) (x : ChanId) : (s.modAnalog n f).entry x = s.entry x := rfl
@[simp] theorem State.modAnalog_chan (n : Fin 16) (f : Analog → Analog) (x : ChanId) : (s.modAnalog n f).chan x = s.chan x := rfl
@[simp] theorem State.modAnalog_pulse (n : Fin 16) (f : Analog → Analog) (x : PulseId) : (s.modAnalog n f).pulse x = s.pulse x := rfl
@[simp] theorem State.modAnalog_unit (n : Fin 16) (f : Analog → Analog) (x : UnitId) : (s.modAnalog n f).unit x = s.unit x := rfl
@[simp] theorem State.modAnalog_group (n : Fin 16) (f : Analog → Analog) (x : Group) : (s.modAnalog n f).group x = s.group x := rfl

@[simp] theorem State.modPulse_port (j : PulseId) (f : Pulse → Pulse) (x : Master) : (s.modPulse j f).port x = s.port x := rfl
@[simp] theorem State.modPulse_entry (j : PulseId) (f : Pulse → Pulse) (x : ChanId) : (s.modPulse j f).entry x = s.entry x := rfl
@[simp] theorem State.modPulse_chan (j : PulseId) (f : Pulse → Pulse) (x : ChanId) : (s.modPulse j f).chan x = s.chan x := rfl
@[simp] theorem State.modPulse_analog (j : PulseId) (f : Pulse → Pulse) (x : Fin 16) : (s.modPulse j f).analog x = s.analog x := rfl
@[simp] theorem State.modPulse_unit (j : PulseId) (f : Pulse → Pulse) (x : UnitId) : (s.modPulse j f).unit x = s.unit x := rfl
@[simp] theorem State.modPulse_group (j : PulseId) (f : Pulse → Pulse) (x : Group) : (s.modPulse j f).group x = s.group x := rfl

@[simp] theorem State.modUnit_port (u : UnitId) (f : UnitRec → UnitRec) (x : Master) : (s.modUnit u f).port x = s.port x := rfl
@[simp] theorem State.modUnit_entry (u : UnitId) (f : UnitRec → UnitRec) (x : ChanId) : (s.modUnit u f).entry x = s.entry x := rfl
@[simp] theorem State.modUnit_chan (u : UnitId) (f : UnitRec → UnitRec) (x : ChanId) : (s.modUnit u f).chan x = s.chan x := rfl
@[simp] theorem State.modUnit_analog (u : UnitId) (f : UnitRec → UnitRec) (x : Fin 16) : (s.modUnit u f).analog x = s.analog x := rfl
@[simp] theorem State.modUnit_pulse (u : UnitId) (f : UnitRec → UnitRec) (x : PulseId) : (s.modUnit u f).pulse x = s.pulse x := rfl
@[simp] theorem State.modUnit_group (u : UnitId) (f : UnitRec → UnitRec) (x : Group) : (s.modUnit u f).group x = s.group x := rfl

@[simp] theorem State.modGroup_port (g : Group) (f : GroupRec → GroupRec) (x : Master) : (s.modGroup g f).port x = s.port x := rfl
@[simp] theorem State.modGroup_entry (g : Group) (f : GroupRec → GroupRec) (x : ChanId) : (s.modGroup g f).entry x = s.entry x := rfl
@[simp] theorem State.modGroup_chan (g : Group) (f : GroupRec → GroupRec) (x : ChanId) : (s.modGroup g f).chan x = s.chan x := rfl
@[simp] theorem State.modGroup_analog (g : Group) (f : GroupRec → GroupRec) (x : Fin 16) : (s.modGroup g f).analog x = s.analog x := rfl
@[simp] theorem State.modGroup_pulse (g : Group) (f : GroupRec → GroupRec) (x : PulseId) : (s.modGroup g f).pulse x = s.pulse x := rfl
@[simp] theorem State.modGroup_unit (g : Group) (f : GroupRec → GroupRec) (x : UnitId) : (s.modGroup g f).unit x = s.unit x := rfl

@[simp] theorem State.modTsm_port (f : Tsm → Tsm) (x : Master) : (s.modTsm f).port x = s.port x := rfl
@[simp] theorem State.modTsm_entry (f : Tsm → Tsm) (x : ChanId) : (s.modTsm f).entry x = s.entry x := rfl
@[simp] theorem State.modTsm_chan (f : Tsm → Tsm) (x : ChanId) : (s.modTsm f).chan x = s.chan x := rfl
@[simp] theorem State.modTsm_analog (f : Tsm → Tsm) (x : Fin 16) : (s.modTsm f).analog x = s.analog x := rfl
@[simp] theorem State.modTsm_pulse (f : Tsm → Tsm) (x : PulseId) : (s.modTsm f).pulse x = s.pulse x := rfl
@[simp] theorem State.modTsm_unit (f : Tsm → Tsm) (x : UnitId) : (s.modTsm f).unit x = s.unit x := rfl
@[simp] theorem State.modTsm_group (f : Tsm → Tsm) (x : Group) : (s.modTsm f).group x = s.group x := rfl

@[simp] theorem State.modSwu_port (f : Swu → Swu) (x : Master) : (s.modSwu f).port x = s.port x := rfl
@[simp] theorem State.modSwu_entry (f : Swu → Swu) (x : ChanId) : (s.modSwu f).entry x = s.entry x := rfl
@[simp] theorem State.modSwu_chan (f : Swu → Swu) (x : ChanId) : (s.modSwu f).chan x = s.chan x := rfl
@[simp] theorem State.modSwu_analog (f : Swu → Swu) (x : Fin 16) : (s.modSwu f).analog x = s.analog x := rfl
@[simp] theorem State.modSwu_pulse (f : Swu → Swu) (x : PulseId) : (s.modSwu f).pulse x = s.pulse x := rfl
@[simp] theorem State.modSwu_unit (f : Swu → Swu) (x : UnitId) : (s.modSwu f).unit x = s.unit x := rfl
@[simp] theorem State.modSwu_group (f : Swu → Swu) (x : Group) : (s.modSwu f).group x = s.group x := rfl

@[simp] theorem State.modPfl_port (f : Pfl → Pfl) (x : Master) : (s.modPfl f).port x = s.port x := rfl
@[simp] theorem State.modPfl_entry (f : Pfl → Pfl) (x : ChanId) : (s.modPfl f).entry x = s.entry x := rfl
@[simp] theorem State.modPfl_chan (f : Pfl → Pfl) (x : ChanId) : (s.modPfl f).chan x = s.chan x := rfl
@[simp] theorem State.modPfl_analog (f : Pfl → Pfl) (x : Fin 16) : (s.modPfl f).analog x = s.analog x := rfl
@[simp] theorem State.modPfl_pulse (f : Pfl → Pfl) (x : PulseId) : (s.modPfl f).pulse x = s.pulse x := rfl
@[simp] theorem State.modPfl_unit (f : Pfl → Pfl) (x : UnitId) : (s.modPfl f).unit x = s.unit x := rfl
@[simp] theorem State.modPfl_group (f : Pfl → Pfl) (x : Group) : (s.modPfl f).group x = s.group x := rfl

@[simp] theorem State.queue_entry (who : Master → Bool) (b : EventBody) (x : ChanId) : (s.queue who b).entry x = s.entry x := rfl
@[simp] theorem State.queue_chan (who : Master → Bool) (b : EventBody) (x : ChanId) : (s.queue who b).chan x = s.chan x := rfl
@[simp] theorem State.queue_analog (who : Master → Bool) (b : EventBody) (x : Fin 16) : (s.queue who b).analog x = s.analog x := rfl
@[simp] theorem State.queue_pulse (who : Master → Bool) (b : EventBody) (x : PulseId) : (s.queue who b).pulse x = s.pulse x := rfl
@[simp] theorem State.queue_unit (who : Master → Bool) (b : EventBody) (x : UnitId) : (s.queue who b).unit x = s.unit x := rfl
@[simp] theorem State.queue_group (who : Master → Bool) (b : EventBody) (x : Group) : (s.queue who b).group x = s.group x := rfl

/-! ### Repeated updates -/

/-- A property that each update keeps is kept by all of them. -/
theorem State.each_induct {α : Type} {P : State → Prop} (l : List α) (f : α → State → State)
    (h : ∀ x ∈ l, ∀ s, P s → P (f x s)) (s : State) (hs : P s) : P (s.each l f) := by
  induction l generalizing s with
  | nil => exact hs
  | cons x l ih =>
    exact ih (fun y hy => h y (List.mem_cons_of_mem x hy)) _ (h x List.mem_cons_self s hs)

@[simp] theorem State.each_nil {α : Type} (f : α → State → State) : s.each [] f = s := rfl
@[simp] theorem State.each_cons {α : Type} (x : α) (l : List α) (f : α → State → State) :
    s.each (x :: l) f = (f x s).each l f := rfl

end Sys2Proof.Machine
end

