-- ==== Sys2Proof/Laws/Moves.lean ====
section
/-! SUPPORT. What a reaction of the part can do, said once: every operation between an arrival and the end of what it sets
off is a run of the small moves listed here. A property that each move keeps is kept by all of them. -/

namespace Sys2Proof.Machine

/-- One move of a reaction. -/
inductive Prim (s : State) : State → Prop
  /-- An event record is queued. -/
  | queue (who : Master → Bool) (b : EventBody) : Prim s (s.queue who b)
  /-- A unit record changes without its state, its phase, its NEXT or its parameters. -/
  | note (u : UnitId) (f : UnitRec → UnitRec) (h : ∀ x, (f x).state = x.state ∧ (f x).phase = x.phase ∧
      (f x).next = x.next ∧ (f x).params = x.params) : Prim s (s.modUnit u f)
  /-- A unit takes a state and a phase, and its channels recompute their folds. Only outside TRIP does a unit at rest
  leave it. -/
  | unit (u : UnitId) (st : UState) (ph : Phase) (f : UnitRec → UnitRec)
      (h : (s.unit u).atRest = true → (ph = .none ∧ (st = .standby ∨ st = .isolated)) ∨
        (s.group (unitGroup u)).level ≠ .trip)
      (hf : (f (s.unit u)).state = st ∧ (f (s.unit u)).phase = ph ∧ (f (s.unit u)).next = (s.unit u).next ∧
        (f (s.unit u)).params = (s.unit u).params) :
      Prim s ((s.modUnit u f).refoldUnit u)
  /-- Entries other than SCALE and TRIP are removed from a stack, and the fold is recomputed. -/
  | pop (c : ChanId) (p : Entry → Bool) (h : ∀ e, e.source = .scale ∨ e.source = .trip → p e = true) :
      Prim s ((s.modChan c fun ch => { ch with stack := ch.stack.filter p }).refold c)
  /-- An entry other than TRIP and SCALE is pushed, and the fold recomputed. -/
  | push (c : ChanId) (e : Entry) (hs : e.source ≠ .scale) (ht : e.source ≠ .trip) :
      Prim s ((s.pushRaw c e).refold c)
  /-- A TRIP entry is pushed. -/
  | pushTrip (c : ChanId) (v : Nat) : Prim s (s.pushTrip c v)
  /-- A guard takes a state other than CLEAR with its SCALE entry. -/
  | scalePut (k : GuardId) (x : Guard) (e : Entry) (hx : x.state ≠ .clear) (he : e.source = .scale) :
      Prim s (((s.setGuard k x).pushRaw k.chan e).refold k.chan)
  /-- A guard takes CLEAR, and its SCALE entry is removed. -/
  | scaleDrop (k : GuardId) (x : Guard) (hx : x.state = .clear) :
      Prim s (((s.setGuard k x).modChan k.chan fun ch => { ch with stack := removeEntry .scale ch.stack }).refold k.chan)
  /-- A guard record changes; its state stays CLEAR or stays another, or is CLEAR with no SCALE entry to remove. -/
  | guardNote (k : GuardId) (x : Guard) (hx : (x.state = .clear ↔ (s.guard k).state = .clear) ∨
      (x.state = .clear ∧ hasSource .scale (s.chan k.chan).stack = false)) : Prim s (s.setGuard k x)
  /-- An arrival of an alarm-class cause is recorded. -/
  | record (g : Group) (c : Cause) (hc : s.classOf c = .alarm) (hm : c.isMomentary = false) : Prim s (s.record g c .alarm)
  /-- An arrival of a momentary alarm-class cause is recorded. -/
  | momentary (g : Group) (c : Cause) (hc : s.classOf c = .alarm) (hm : c.isMomentary = true) :
      Prim s (s.recordWith g c .alarm true ((s.group g).arriveMomentary c .alarm s.ms))
  /-- A deactivation is recorded. -/
  | deactivate (g : Group) (c : Cause) : Prim s (s.modGroup g fun x => x.deactivate c s.ms)
  /-- The level is recomputed outside TRIP. -/
  | relevel (g : Group) : Prim s (s.relevel g)
  /-- The busy flag of a group changes. -/
  | busy (g : Group) (b : Bool) (n : Nat) : Prim s (s.modGroup g fun x => { x with busy := b, started := n })
  /-- The speed monitor changes without its parameters. -/
  | tsm (f : Tsm → Tsm) (h : ∀ t, (f t).params = t.params) : Prim s (s.modTsm f)
  /-- The scaling watch changes without its parameters and its guards. -/
  | swu (f : Swu → Swu) (h : ∀ w, (f w).params = w.params ∧ (f w).silGuard = w.silGuard ∧ (f w).calGuards = w.calGuards) :
      Prim s (s.modSwu f)

/-- A run of moves. -/
abbrev Reacts : State → State → Prop := Relation.ReflTransGen Prim

theorem Prim.reacts {s t : State} (h : Prim s t) : Reacts s t := .single h
theorem Reacts.trans {s t r : State} (h : Reacts s t) (k : Reacts t r) : Reacts s r := Relation.ReflTransGen.trans h k
theorem Reacts.refl {s : State} : Reacts s s := Relation.ReflTransGen.refl

/-- A property that each move keeps is kept by a run of them. -/
theorem Reacts.keep {P : State → Prop} (hR : ∀ s t, Prim s t → P s → P t) {s t : State} (h : Reacts s t) (hs : P s) :
    P t := by
  induction h with
  | refl => exact hs
  | tail _ h ih => exact hR _ _ h ih

variable (s : State)

/-! ### Frames of the small operations -/

@[simp] theorem State.refold_eq (c : ChanId) : s.refold c = s.modChan c (fun ch =>
    ch.retarget (s.unit (unitOf c)).atRest (ch.fold (s.unit (unitOf c)).foldsFromBase)) := rfl

theorem State.each_frame {α β : Type} (p : State → β) (l : List α) (f : α → State → State)
    (h : ∀ x s, p (f x s) = p s) (s : State) : p (s.each l f) = p s :=
  State.each_induct (P := fun t => p t = p s) l f (fun x _ t ht => (h x t).trans ht) s rfl

/-- An update of channels only: whatever does not read them stays. -/
theorem State.refoldUnit_frame {β : Type} (p : State → β) (h : ∀ c f (s : State), p (s.modChan c f) = p s) (u : UnitId) :
    p (s.refoldUnit u) = p s :=
  State.each_frame p _ _ (fun c s => by rw [State.refold_eq]; exact h _ _ _) s

@[simp] theorem State.refoldUnit_units (u : UnitId) : (s.refoldUnit u).units = s.units :=
  s.refoldUnit_frame (·.units) (fun _ _ _ => rfl) u
@[simp] theorem State.refoldUnit_groups (u : UnitId) : (s.refoldUnit u).groups = s.groups :=
  s.refoldUnit_frame (·.groups) (fun _ _ _ => rfl) u
@[simp] theorem State.refoldUnit_ports (u : UnitId) : (s.refoldUnit u).ports = s.ports :=
  s.refoldUnit_frame (·.ports) (fun _ _ _ => rfl) u
@[simp] theorem State.refoldUnit_unit (u v : UnitId) : (s.refoldUnit u).unit v = s.unit v := by
  simp only [State.unit, State.refoldUnit_units]
@[simp] theorem State.refoldUnit_group (u : UnitId) (g : Group) : (s.refoldUnit u).group g = s.group g := by
  simp only [State.group, State.refoldUnit_groups]

/-! ### Runs of reactions -/

theorem Reacts.each {α : Type} (l : List α) (f : α → State → State) (h : ∀ x s, Reacts s (f x s)) (s : State) :
    Reacts s (s.each l f) :=
  State.each_induct (P := fun t => Reacts s t) l f (fun x _ t ht => ht.trans (h x t)) s .refl

theorem State.queue_reacts (who : Master → Bool) (b : EventBody) : Reacts s (s.queue who b) := (Prim.queue who b).reacts

theorem State.tellGuard_reacts (k : GuardId) (old : GuardState) (r : GuardReason) : Reacts s (s.tellGuard k old r) := by
  unfold State.tellGuard
  dsimp only
  split
  · exact .refl
  · exact s.queue_reacts _ _

theorem State.stepTo_reacts (u : UnitId) (st : UState) (r : StateReason)
    (h : (s.unit u).atRest = true → (st = .standby ∨ st = .isolated) ∨ (s.group (unitGroup u)).level ≠ .trip) :
    Reacts s (s.stepTo u st r) :=
  .tail (.tail .refl (Prim.unit u st .none (fun x => { x with state := st, phase := .none })
    (fun a => (h a).imp_left fun b => ⟨rfl, b⟩) ⟨rfl, rfl, rfl, rfl⟩)) (Prim.queue _ _)

@[simp] theorem State.stepTo_unit (u v : UnitId) (st : UState) (r : StateReason) :
    (s.stepTo u st r).unit v = if v = u then { s.unit u with state := st, phase := .none } else s.unit v := by
  simp only [State.stepTo, State.queueUnitState, State.queueUnit, State.queueReaders, State.queue_unit,
    State.refoldUnit_unit, State.unit_modUnit]

@[simp] theorem State.stepTo_groups (u : UnitId) (st : UState) (r : StateReason) :
    (s.stepTo u st r).groups = s.groups := by
  simp only [State.stepTo, State.queueUnitState, State.queueUnit, State.queueReaders, State.queue_groups,
    State.refoldUnit_groups, State.modUnit_groups]

theorem State.pathEnd_reacts (g : Group) : Reacts s (s.pathEnd g) := by
  unfold State.pathEnd
  split
  · refine ((Prim.busy g false (s.group g).started).reacts).trans (State.queue_reacts _ _ _)
  · exact .refl

theorem State.clearPath_reacts (u : UnitId) : Reacts s (s.clearPath u) :=
  (Prim.note u (fun x => { x with dest := none, timer := none }) fun _ => ⟨rfl, rfl, rfl, rfl⟩).reacts.trans
    (State.pathEnd_reacts _ _)

theorem State.endStarting_reacts (u : UnitId) (h : (s.unit u).atRest = false) : Reacts s (s.endStarting u) := by
  unfold State.endStarting
  dsimp only
  have h1 : Reacts s (s.stepTo u .running .go) := s.stepTo_reacts u _ _ (fun a => by simp [h] at a)
  refine (h1.trans ?_).trans (State.clearPath_reacts _ _)
  split
  · exact State.stepTo_reacts _ _ _ _ (fun a => by simp [UnitRec.atRest] at a)
  · exact .refl

theorem State.dropTimer_reacts (u : UnitId) : Reacts s (s.modUnit u fun x => { x with timer := none }) :=
  (Prim.note u (fun x => { x with timer := none }) fun _ => ⟨rfl, rfl, rfl, rfl⟩).reacts

theorem State.endDrain_reacts (u : UnitId) (r : StateReason) (mid : State → State) (h : ∀ s, Reacts s (mid s)) :
    Reacts s (s.endDrain u r mid) := by
  unfold State.endDrain
  dsimp only
  refine Reacts.trans ((s.dropTimer_reacts u).trans ?_) (State.clearPath_reacts _ _)
  refine ((State.stepTo_reacts _ u .standby r fun _ => .inl (.inl rfl)).trans (h _)).trans ?_
  split
  · exact State.stepTo_reacts _ u .isolated .go fun _ => .inl (.inr rfl)
  · exact .refl

theorem State.testUnit_reacts (u : UnitId) : Reacts s (s.testUnit u) := by
  unfold State.testUnit
  split
  · exact .refl
  · next h =>
    split
    · exact s.endStarting_reacts u (by simp [UnitRec.atRest, h])
    · exact .refl
  · split
    · exact s.endDrain_reacts u _ _ fun _ => .refl
    · exact .refl
  · split
    · exact s.endDrain_reacts u _ _ fun _ => .refl
    · exact .refl

theorem State.push_reacts (c : ChanId) (e : Entry) (hs : e.source ≠ .scale) (ht : e.source ≠ .trip) :
    Reacts s (s.push c e) :=
  (Prim.push c e hs ht).reacts.trans (State.testUnit_reacts _ _)

theorem State.remove_reacts (c : ChanId) (x : Source) (hs : x ≠ .scale) (ht : x ≠ .trip) : Reacts s (s.remove c x) := by
  unfold State.remove
  split
  · refine (Prim.pop c (fun e => decide (e.source ≠ x)) fun e h => ?_).reacts.trans (State.testUnit_reacts _ _)
    rcases h with h | h
    · simpa [h] using hs.symm
    · simpa [h] using ht.symm
  · exact .refl

theorem State.relevel_reacts (g : Group) : Reacts s (s.relevel g) := (Prim.relevel g).reacts

theorem State.momentary_reacts (g : Group) (c : Cause) (hc : s.classOf c = .alarm) (hm : c.isMomentary = true) :
    Reacts s (s.momentary g c) :=
  (Prim.momentary g c hc hm).reacts.trans (State.relevel_reacts _ _)

theorem State.applyActions_reacts (g : Group) (c : Cause) : Reacts s (s.applyActions g c) :=
  Reacts.each _ _ (fun _ s => s.push_reacts _ _ (by simp) (by simp)) s

theorem State.deactivate_reacts (g : Group) (c : Cause) : Reacts s (s.deactivate g c) :=
  ((Prim.deactivate g c).reacts.trans (Reacts.each _ _ (fun _ s => s.remove_reacts _ _ (by simp) (by simp)) _)).trans
    (State.relevel_reacts _ _)

theorem State.arriveAlarm_reacts (g : Group) (c : Cause) (hc : s.classOf c = .alarm) (hm : c.isMomentary = false) :
    Reacts s (s.arriveAlarm g c) :=
  ((Prim.record g c hc hm).reacts.trans (State.applyActions_reacts _ _ _)).trans (State.relevel_reacts _ _)

/-! ### Service -/

theorem State.calciteOff_reacts (i : Fin 8) : Reacts s (s.calciteOff i) := by
  unfold State.calciteOff
  split
  · refine Reacts.trans ?_ (State.deactivate_reacts _ _ _)
    exact (Prim.swu (fun w => { w with cal := w.cal.set i { w.cal[i] with active := false } })
      fun _ => ⟨rfl, rfl, rfl⟩).reacts
  · exact .refl

theorem State.setGuard_stack (k : GuardId) (x : Guard) (c : ChanId) : ((s.setGuard k x).chan c).stack = (s.chan c).stack := by
  cases k <;> rfl

/-- A guard takes CLEAR, and its SCALE entry goes. -/
theorem State.dropScale_reacts (k : GuardId) (x : Guard) (hx : x.state = .clear) :
    Reacts s ((s.setGuard k x).remove k.chan .scale) := by
  unfold State.remove
  rw [State.setGuard_stack]
  split
  · refine Reacts.trans ?_ (State.testUnit_reacts _ _)
    exact (Prim.scaleDrop k x hx).reacts
  · next h => exact (Prim.guardNote k x (.inr ⟨hx, by simpa using h⟩)).reacts

theorem State.guardOff_reacts (k : GuardId) : Reacts s (s.guardOff k) := by
  unfold State.guardOff
  dsimp only
  split
  · exact .refl
  · exact (s.dropScale_reacts k _ rfl).trans (State.tellGuard_reacts _ _ _ _)

theorem State.leaveService_reacts (u : UnitId) : Reacts s (s.leaveService u) := by
  unfold State.leaveService
  dsimp only
  cases unitGuard u <;> cases wellOf u <;> dsimp only
  · exact .refl
  · exact State.calciteOff_reacts _ _
  · exact State.guardOff_reacts _ _
  · exact (State.guardOff_reacts _ _).trans (State.calciteOff_reacts _ _)

theorem State.loseSpeed_reacts : Reacts s s.loseSpeed := by
  unfold State.loseSpeed
  refine Reacts.trans ?_ (State.arriveAlarm_reacts _ _ _ rfl rfl)
  exact (Prim.tsm (fun t => { t with speedLost := true }) fun _ => rfl).reacts

theorem State.regainSpeed_reacts : Reacts s s.regainSpeed := by
  unfold State.regainSpeed
  split
  · refine Reacts.trans ?_ (State.deactivate_reacts _ _ _)
    exact (Prim.tsm (fun t => { t with speedLost := false }) fun _ => rfl).reacts
  · exact .refl

theorem State.speedEnter_reacts (u : UnitId) : Reacts s (s.speedEnter u) := by
  unfold State.speedEnter
  split
  · exact s.loseSpeed_reacts
  · exact .refl

theorem State.speedLeave_reacts (u : UnitId) : Reacts s (s.speedLeave u) := by
  unfold State.speedLeave
  split
  · exact s.regainSpeed_reacts
  · exact .refl

/-! ### Forcing, trip lists and propagation -/

theorem State.enterTripState_reacts (u : UnitId) : Reacts s (s.enterTripState u) := by
  unfold State.enterTripState
  split
  · exact .refl
  · next h =>
    exact (Prim.unit u (s.unit u).params.tripState .none (fun x => { x with
      state := x.params.tripState, phase := .none, dest := none, timer := none })
      (fun a => absurd a h) ⟨rfl, rfl, rfl, rfl⟩).reacts

theorem State.forced_reacts (u : UnitId) (r : UnitRec) : Reacts s (s.forced u r) := by
  unfold State.forced
  dsimp only
  split
  · exact .refl
  · have h2 := (State.leaveService_reacts s u).trans (State.speedLeave_reacts _ u)
    have h3 := h2.tail (Prim.note u (fun x => { x with protAltered := true }) fun _ => ⟨rfl, rfl, rfl, rfl⟩)
    refine Reacts.trans ?_ (State.queue_reacts _ _ _)
    split
    · exact h3
    · exact h3.tail (Prim.queue _ _)

theorem State.forceGroup_reacts (g : Group) : Reacts s (s.forceGroup g) := by
  unfold State.forceGroup
  dsimp only
  have h1 := Reacts.each (groupUnits g) (fun u s => s.enterTripState u) (fun u s => s.enterTripState_reacts u) s
  have h := h1.trans (Reacts.each (groupUnits g) (fun u q => q.forced u s.units[u]) (fun u q => q.forced_reacts u _) _)
  split
  · exact .tail (h.tail (Prim.busy g false _)) (Prim.queue _ _)
  · exact h

theorem State.pushTripList_reacts (g : Group) : Reacts s (s.pushTripList g) :=
  Reacts.each (s.group g).tripList (fun e s => s.pushTrip e.channel e.value)
    (fun e _ => (Prim.pushTrip e.channel e.value).reacts) s

theorem State.propagateAlarm_reacts (g : Group) : Reacts s (s.propagateAlarm g) := by
  cases g
  · exact .refl
  · exact State.arriveAlarm_reacts s _ _ rfl rfl
  · exact State.arriveAlarm_reacts s _ _ rfl rfl

theorem State.propagateEnd_reacts (g : Group) : Reacts s (s.propagateEnd g) := by
  cases g
  · exact (State.deactivate_reacts _ _ _).trans (State.deactivate_reacts _ _ _)
  · exact State.deactivate_reacts _ _ _
  · exact State.deactivate_reacts _ _ _

/-! ### Requests and timers that only react -/

theorem State.hear_reacts (m : Master) :
    Reacts (s.modPort m fun p => { p with silent := false }) (s.hear m) := by
  unfold State.hear State.recoverMap
  dsimp only
  exact ((State.queue_reacts _ _ _).trans (Reacts.each _ _ (fun _ s => s.remove_reacts _ _ (by simp) (by simp)) _)).trans
    (Reacts.each _ _ (fun _ s => s.deactivate_reacts _ _) _)

theorem State.beginDrain_reacts (u : UnitId) (ph : Phase) (h : (s.unit u).atRest = false) :
    Reacts s (s.beginDrain u ph) := by
  unfold State.beginDrain
  dsimp only
  have h1 : Reacts s ((s.modUnit u fun x => { x with phase := ph, timer := none }).refoldUnit u) := by
    exact (Prim.unit u _ ph (fun x => { x with phase := ph, timer := none }) (fun a => by simp [h] at a) ⟨rfl, rfl, rfl, rfl⟩).reacts
  have h2 := (h1.trans (State.leaveService_reacts _ u)).trans (State.speedLeave_reacts _ u)
  refine Reacts.trans (h2.tail (Prim.note u (fun x => { x with timer := some (x.params.drainTimeout * 1000) })
    fun _ => ⟨rfl, rfl, rfl, rfl⟩)) (State.testUnit_reacts _ _)

theorem State.beginStarting_reacts (u : UnitId) (h : (s.group (unitGroup u)).level ≠ .trip) :
    Reacts s (s.beginStarting u) := by
  unfold State.beginStarting
  have h1 : Reacts s ((s.modUnit u fun x => { x with phase := .starting }).refoldUnit u) := by
    exact (Prim.unit u _ .starting (fun x => { x with phase := .starting }) (fun _ => .inr h) ⟨rfl, rfl, rfl, rfl⟩).reacts
  exact (h1.trans (State.speedEnter_reacts _ u)).trans (State.testUnit_reacts _ _)

theorem State.startPath_reacts (u : UnitId)
    (h : (s.unit u).next = .running ∨ (s.unit u).next = .paused → (s.unit u).next ≠ (s.unit u).state →
      (s.group (unitGroup u)).level ≠ .trip) : Reacts s (s.startPath u) := by
  unfold State.startPath
  dsimp only
  have h0 : Reacts s (s.modUnit u fun x => { x with dest := some x.next }) :=
    (Prim.note u (fun x => { x with dest := some x.next }) fun _ => ⟨rfl, rfl, rfl, rfl⟩).reacts
  have hu : ((s.modUnit u fun x => { x with dest := some x.next }).unit u).state = (s.unit u).state := by
    simp [State.unit_modUnit]
  have hg (g : Group) : (s.modUnit u fun x => { x with dest := some x.next }).group g = s.group g := rfl
  generalize (s.modUnit u fun x => { x with dest := some x.next }) = t at h0 hu hg ⊢
  refine h0.trans ?_
  have hrest (a : (s.unit u).state = .running ∨ (s.unit u).state = .paused) : (t.unit u).atRest = false := by
    rcases a with a | a <;> simp [UnitRec.atRest, hu, a]
  have up (st : UState) (r : StateReason) : Reacts t (t.stepTo u .standby r) :=
    t.stepTo_reacts u _ _ fun _ => .inl (.inl rfl)
  split
  all_goals first
    | exact State.clearPath_reacts _ _
    | skip
  · exact (t.stepTo_reacts u _ _ fun _ => .inl (.inl rfl)).trans (State.clearPath_reacts _ _)
  · next h1 h2 =>
    refine (t.stepTo_reacts u _ _ fun _ => .inl (.inl rfl)).trans (State.beginStarting_reacts _ _ ?_)
    rw [State.group, State.stepTo_groups, ← State.group, hg]
    exact h (.inl h2) (by simp [h1, h2])
  · next h1 h2 =>
    refine (t.stepTo_reacts u _ _ fun _ => .inl (.inl rfl)).trans (State.beginStarting_reacts _ _ ?_)
    rw [State.group, State.stepTo_groups, ← State.group, hg]
    exact h (.inr h2) (by simp [h1, h2])
  · exact (t.stepTo_reacts u _ _ fun _ => .inl (.inr rfl)).trans (State.clearPath_reacts _ _)
  · next h1 h2 => exact State.beginStarting_reacts _ _ (by rw [hg]; exact h (.inl h2) (by simp [h1, h2]))
  · next h1 h2 => exact State.beginStarting_reacts _ _ (by rw [hg]; exact h (.inr h2) (by simp [h1, h2]))
  · next h1 h2 =>
    exact (t.stepTo_reacts u _ _ fun a => by simp [hrest (.inl h1)] at a).trans (State.clearPath_reacts _ _)
  · next h1 h2 =>
    exact (t.stepTo_reacts u _ _ fun a => by simp [hrest (.inr h1)] at a).trans (State.clearPath_reacts _ _)
  · next h1 h2 => exact State.beginDrain_reacts _ _ _ (hrest (.inl h1))
  · next h1 h2 => exact State.beginDrain_reacts _ _ _ (hrest (.inr h1))
  · next h1 h2 => exact State.beginDrain_reacts _ _ _ (hrest (.inl h1))
  · next h1 h2 => exact State.beginDrain_reacts _ _ _ (hrest (.inr h1))

theorem State.holdGuard_reacts (k : GuardId) : Reacts s (s.holdGuard k) :=
  (Prim.guardNote k { s.guard k with status := .held } (.inl Iff.rfl)).reacts

/-- What the guard rule puts is no CLEAR, and what it keeps is CLEAR exactly where the guard was. -/
theorem guardRule_state (p : GuardParams) (st : GuardState) (ceil app : Nat) (m : Int) :
    match guardRule p st ceil app m with
    | .put _ x => x ≠ .clear
    | .keep x => x = .clear ↔ st = .clear
    | .drop => st ≠ .clear := by
  unfold guardRule
  split_ifs <;> simp_all

theorem State.runGuard_reacts (k : GuardId) (m : Int) : Reacts s (s.runGuard k m) := by
  unfold State.runGuard
  dsimp only
  have h := guardRule_state (s.guardParams k) (s.guard k).state ((s.guard k).ceiling.getD 0) (s.chan k.chan).applied m
  split
  · next v st e =>
    rw [e] at h
    refine Reacts.trans ?_ (State.tellGuard_reacts _ _ _ _)
    exact .trans (Prim.scalePut k _ _ h rfl).reacts (State.testUnit_reacts _ _)
  · next st e =>
    rw [e] at h
    refine Reacts.trans ?_ (State.tellGuard_reacts _ _ _ _)
    exact (Prim.guardNote k _ (.inl h)).reacts
  · refine Reacts.trans ?_ (State.tellGuard_reacts _ _ _ _)
    exact State.dropScale_reacts _ _ _ rfl

end Sys2Proof.Machine
end

