-- ==== Sys2Proof/Laws/Reacts.lean ====
section
/-! SUPPORT. What a reaction never does: the fields it leaves, and the parameters, bases and NEXTs it keeps. -/

namespace Sys2Proof.Machine

variable (s : State)

/-! ### Channels -/

@[simp] theorem Channel.startPair_params (ch : Channel) (p : Pair) : (ch.startPair p).params = ch.params := rfl
@[simp] theorem Channel.startPair_base (ch : Channel) (p : Pair) : (ch.startPair p).base = ch.base := rfl
@[simp] theorem Channel.startPair_stack (ch : Channel) (p : Pair) : (ch.startPair p).stack = ch.stack := rfl
@[simp] theorem Channel.startPair_target (ch : Channel) (p : Pair) : (ch.startPair p).target = ch.target := rfl
@[simp] theorem Channel.startPair_applied (ch : Channel) (p : Pair) : (ch.startPair p).applied = ch.applied := rfl
@[simp] theorem Channel.startPair_oneShot (ch : Channel) (p : Pair) : (ch.startPair p).oneShot = ch.oneShot := rfl

/-- What setting the applied value keeps, and what it sets (R6). -/
theorem Channel.setApplied_spec (ch : Channel) (v : Nat) :
    (ch.setApplied v).params = ch.params ∧ (ch.setApplied v).base = ch.base ∧ (ch.setApplied v).stack = ch.stack ∧
    (ch.setApplied v).target = ch.target ∧ (ch.setApplied v).applied = v ∧ (ch.setApplied v).oneShot = ch.oneShot := by
  unfold Channel.setApplied
  dsimp only
  split_ifs with h <;> simp [h]

/-- What a jump keeps, and what it sets (R7). -/
theorem Channel.jumpApplied_spec (ch : Channel) (v : Nat) :
    (ch.jumpApplied v).params = ch.params ∧ (ch.jumpApplied v).base = ch.base ∧ (ch.jumpApplied v).stack = ch.stack ∧
    (ch.jumpApplied v).target = ch.target ∧ (ch.jumpApplied v).applied = v ∧ (ch.jumpApplied v).oneShot = ch.oneShot := by
  unfold Channel.jumpApplied
  split_ifs with h <;> simp [h]

/-- What a new one-shot target keeps, and what it sets (R8 to R10). -/
theorem Channel.oneShotTarget_spec (ch : Channel) (t : Nat) :
    (ch.oneShotTarget t).params = ch.params ∧ (ch.oneShotTarget t).base = ch.base ∧
    (ch.oneShotTarget t).stack = ch.stack ∧ (ch.oneShotTarget t).target = t ∧ (ch.oneShotTarget t).applied = t := by
  unfold Channel.oneShotTarget Channel.arm Channel.startPulse
  dsimp only
  split_ifs <;> simp

/-- What a recomputed target keeps, and what it sets (R21). -/
theorem Channel.retarget_spec (ch : Channel) (r : Bool) (t : Nat) :
    (ch.retarget r t).params = ch.params ∧ (ch.retarget r t).base = ch.base ∧ (ch.retarget r t).stack = ch.stack ∧
    (ch.retarget r t).target = t := by
  unfold Channel.retarget
  split_ifs with h1 h2 h3
  · exact ⟨rfl, rfl, rfl, h2.symm⟩
  · have := ch.oneShotTarget_spec t
    exact ⟨this.1, this.2.1, this.2.2.1, this.2.2.2.1⟩
  · have := Channel.setApplied_spec { ch with target := t } t
    exact ⟨this.1, this.2.1, this.2.2.1, this.2.2.2.1⟩
  · exact ⟨rfl, rfl, rfl, rfl⟩

/-- What a TRIP jump keeps, and what it sets (R14). -/
theorem Channel.tripJump_spec (ch : Channel) (t : Nat) :
    (ch.tripJump t).params = ch.params ∧ (ch.tripJump t).base = ch.base ∧ (ch.tripJump t).stack = ch.stack ∧
    (ch.tripJump t).target = t := by
  unfold Channel.tripJump
  split_ifs with h1 h2
  · exact ⟨rfl, rfl, rfl, h2.symm⟩
  · have := ch.oneShotTarget_spec t
    exact ⟨this.1, this.2.1, this.2.2.1, this.2.2.2.1⟩
  · have := Channel.jumpApplied_spec { ch with target := t } t
    exact ⟨this.1, this.2.1, this.2.2.1, this.2.2.2.1⟩

/-! ### Raw updates -/

/-- One update of a record, without what makes it a move of the machine. -/
inductive Raw (s : State) : State → Prop
  | queue (who : Master → Bool) (b : EventBody) : Raw s (s.queue who b)
  | unit (u : UnitId) (f : UnitRec → UnitRec)
      (h : (f (s.unit u)).params = (s.unit u).params ∧ (f (s.unit u)).next = (s.unit u).next) : Raw s (s.modUnit u f)
  | chan (c : ChanId) (f : Channel → Channel)
      (h : (f (s.chan c)).params = (s.chan c).params ∧ (f (s.chan c)).base = (s.chan c).base) : Raw s (s.modChan c f)
  | group (g : Group) (f : GroupRec → GroupRec) (h : (f (s.group g)).tripList = (s.group g).tripList)
      (hl : (f (s.group g)).level = .trip ↔ (s.group g).level = .trip) : Raw s (s.modGroup g f)
  | tsm (f : Tsm → Tsm) (h : (f s.tsm).params = s.tsm.params) : Raw s (s.modTsm f)
  | swu (f : Swu → Swu) (h : (f s.swu).params = s.swu.params) : Raw s (s.modSwu f)

/-- A run of raw updates. -/
abbrev Raws : State → State → Prop := Relation.ReflTransGen Raw

theorem Raw.raws {s t : State} (h : Raw s t) : Raws s t := .single h
theorem Raws.trans {s t r : State} (h : Raws s t) (k : Raws t r) : Raws s r := Relation.ReflTransGen.trans h k
theorem Raws.refl {s : State} : Raws s s := Relation.ReflTransGen.refl

theorem State.refold_raws (c : ChanId) : Raws s (s.refold c) := by
  rw [State.refold_eq]
  exact (Raw.chan c _ ⟨(Channel.retarget_spec _ _ _).1, (Channel.retarget_spec _ _ _).2.1⟩).raws

theorem Raws.each {α : Type} (l : List α) (f : α → State → State) (h : ∀ x s, Raws s (f x s)) (s : State) :
    Raws s (s.each l f) :=
  State.each_induct (P := fun t => Raws s t) l f (fun x _ t ht => ht.trans (h x t)) s .refl

theorem State.refoldUnit_raws (u : UnitId) : Raws s (s.refoldUnit u) := Raws.each _ _ (fun c s => s.refold_raws c) s

theorem State.setGuard_raws (k : GuardId) (x : Guard) : Raws s (s.setGuard k x) := by
  cases k
  · exact (Raw.swu (fun w => { w with silGuard := x }) rfl).raws
  · next i => exact (Raw.swu (fun w => { w with calGuards := w.calGuards.set i x }) rfl).raws

theorem State.setLevel_raws (g : Group) (l : Level) (h : l = .trip ↔ (s.group g).level = .trip) :
    Raws s (s.setLevel g l) := by
  unfold State.setLevel State.queueAll
  exact .tail (.tail .refl (Raw.group g (fun x => { x with level := l }) rfl h)) (Raw.queue _ _)

theorem GroupRec.quietLevel_ne (g : GroupRec) : g.quietLevel ≠ .trip := by
  unfold GroupRec.quietLevel
  split <;> simp

theorem State.relevel_raws (g : Group) : Raws s (s.relevel g) := by
  unfold State.relevel
  dsimp only
  split
  · exact .refl
  · next h =>
    have h1 := (s.group g).quietLevel_ne
    exact s.setLevel_raws g _ (by simp_all)

/-- What the records of an arrival keep of a group. -/
theorem GroupRec.arrive_spec (g : GroupRec) (c : Cause) (cls : CauseClass) (now : Word) :
    (g.arrive c cls now).1.tripList = g.tripList ∧ (g.arrive c cls now).1.level = g.level ∧
    (g.arrive c cls now).1.busy = g.busy ∧ (g.arrive c cls now).1.started = g.started := by
  unfold GroupRec.arrive
  split_ifs <;> simp [GroupRec.modRecord]

theorem GroupRec.arriveMomentary_spec (g : GroupRec) (c : Cause) (cls : CauseClass) (now : Word) :
    (g.arriveMomentary c cls now).1.tripList = g.tripList ∧ (g.arriveMomentary c cls now).1.level = g.level ∧
    (g.arriveMomentary c cls now).1.busy = g.busy ∧ (g.arriveMomentary c cls now).1.started = g.started := by
  unfold GroupRec.arriveMomentary
  split_ifs <;> simp [GroupRec.modRecord]

theorem GroupRec.deactivate_spec (g : GroupRec) (c : Cause) (now : Word) :
    (g.deactivate c now).tripList = g.tripList ∧ (g.deactivate c now).level = g.level ∧
    (g.deactivate c now).busy = g.busy ∧ (g.deactivate c now).started = g.started := by
  unfold GroupRec.deactivate
  split_ifs <;> simp [GroupRec.modRecord]

theorem State.recordWith_raws (g : Group) (c : Cause) (cls : CauseClass) (mom : Bool) (r : GroupRec × Recorded)
    (h : r.1.tripList = (s.group g).tripList ∧ r.1.level = (s.group g).level) : Raws s (s.recordWith g c cls mom r) := by
  unfold State.recordWith
  have h1 : Raws s (s.modGroup g fun _ => r.1) := (Raw.group g _ h.1 (by rw [h.2])).raws
  dsimp only
  split
  · exact h1
  · exact h1.tail (Raw.queue _ _)
  · exact h1.tail (Raw.queue _ _)

theorem State.record_raws (g : Group) (c : Cause) (cls : CauseClass) : Raws s (s.record g c cls) :=
  s.recordWith_raws g c cls false _ ⟨(GroupRec.arrive_spec ..).1, (GroupRec.arrive_spec ..).2.1⟩

theorem State.momentary_raws (g : Group) (c : Cause) : Raws s (s.momentary g c) :=
  (s.recordWith_raws g c .alarm true _ ⟨(GroupRec.arriveMomentary_spec ..).1,
    (GroupRec.arriveMomentary_spec ..).2.1⟩).trans (State.relevel_raws _ _)

theorem State.tellGuard_raws (k : GuardId) (old : GuardState) (r : GuardReason) : Raws s (s.tellGuard k old r) := by
  unfold State.tellGuard
  dsimp only
  split
  · exact .refl
  · exact (Raw.queue _ _).raws

theorem State.discarded_raws (c : ChanId) (e : Entry) : Raws s (s.discarded c e) := by
  unfold State.discarded
  dsimp only
  split
  · refine Raws.trans ?_ (State.momentary_raws _ _ _)
    split
    · exact (State.setGuard_raws _ _ _).trans (State.tellGuard_raws _ _ _ _)
    · exact .refl
  · exact (Raw.queue _ _).raws

theorem State.pushRaw_raws (c : ChanId) (e : Entry) : Raws s (s.pushRaw c e) := by
  unfold State.pushRaw
  dsimp only
  refine Raws.trans ?_ (Raw.chan c (fun ch => { ch with stack := pushEntry e ch.stack }) ⟨rfl, rfl⟩).raws
  split
  · exact s.discarded_raws _ _
  · exact .refl

theorem Prim.raws {s t : State} (h : Prim s t) : Raws s t := by
  cases h with
  | queue who b => exact (Raw.queue _ _).raws
  | note u f h => exact (Raw.unit u f ⟨(h _).2.2.2, (h _).2.2.1⟩).raws
  | unit u st ph f h hf => exact (Raw.unit u f ⟨hf.2.2.2, hf.2.2.1⟩).raws.trans (State.refoldUnit_raws _ _)
  | pop c p h => exact (Raw.chan c (fun ch => { ch with stack := ch.stack.filter p }) ⟨rfl, rfl⟩).raws.trans (State.refold_raws _ _)
  | push c e _ _ => exact (s.pushRaw_raws c e).trans (State.refold_raws _ _)
  | pushTrip c v =>
    exact (s.pushRaw_raws c _).tail (Raw.chan c _ ⟨(Channel.tripJump_spec _ _).1, (Channel.tripJump_spec _ _).2.1⟩)
  | scalePut k x e _ _ => exact ((s.setGuard_raws k x).trans (State.pushRaw_raws _ _ _)).trans (State.refold_raws _ _)
  | scaleDrop k x _ =>
    exact ((s.setGuard_raws k x).trans (Raw.chan k.chan (fun ch => { ch with stack := removeEntry .scale ch.stack })
      ⟨rfl, rfl⟩).raws).trans (State.refold_raws _ _)
  | guardNote k x _ => exact s.setGuard_raws k x
  | record g c _ _ => exact s.record_raws g c _
  | momentary g c _ _ =>
    exact s.recordWith_raws g c .alarm true _ ⟨(GroupRec.arriveMomentary_spec ..).1, (GroupRec.arriveMomentary_spec ..).2.1⟩
  | deactivate g c => exact (Raw.group g _ (GroupRec.deactivate_spec ..).1 (by rw [(GroupRec.deactivate_spec ..).2.1])).raws
  | relevel g => exact s.relevel_raws g
  | busy g b n => exact (Raw.group g (fun x => { x with busy := b, started := n }) rfl Iff.rfl).raws
  | tsm f h => exact (Raw.tsm f (h _)).raws
  | swu f h => exact (Raw.swu f (h _).1).raws

theorem Reacts.raws {s t : State} (h : Reacts s t) : Raws s t := by
  induction h with
  | refl => exact .refl
  | tail _ h ih => exact ih.trans h.raws

/-! ### What raw updates keep -/

theorem Same.refl : Same s s := by constructor <;> simp

theorem Same.trans {s t r : State} (h : Same s t) (k : Same t r) : Same s r where
  pending := k.pending.trans h.pending
  draws := k.draws.trans h.draws
  run := k.run.trans h.run
  tick := k.tick.trans h.tick
  ms := k.ms.trans h.ms
  map := k.map.trans h.map
  offerTimeout := k.offerTimeout.trans h.offerTimeout
  asu := k.asu.trans h.asu
  ai := k.ai.trans h.ai
  snap := k.snap.trans h.snap
  pi := k.pi.trans h.pi
  di := k.di.trans h.di
  actions := k.actions.trans h.actions
  hmt := k.hmt.trans h.hmt
  pfl := k.pfl.trans h.pfl
  port m := by
    have h1 := h.port m
    have h2 := k.port m
    generalize t.port m = p at h1 h2
    generalize s.port m = q at h1 ⊢
    generalize r.port m = x at h2 ⊢
    cases x; cases p; cases q; simp_all
  queues m a := k.queues m (h.queues m a)
  chan c := ⟨(k.chan c).1.trans (h.chan c).1, (k.chan c).2.trans (h.chan c).2⟩
  unit u := ⟨(k.unit u).1.trans (h.unit u).1, (k.unit u).2.trans (h.unit u).2⟩
  tripList g := (k.tripList g).trans (h.tripList g)
  level g := (k.level g).trans (h.level g)
  tsm := k.tsm.trans h.tsm
  swu := k.swu.trans h.swu

theorem Raw.same {s t : State} (h : Raw s t) : Same s t := by
  cases h with
  | queue who b =>
    refine { Same.refl s with port := fun m => ?_, queues := fun m => ?_ }
    · rw [State.port_queue]
      split
      · unfold Port.append
        split <;> rfl
      · rfl
    · rw [State.port_queue]
      split
      · unfold Port.append
        split
        · simp; omega
        · exact id
      · exact id
  | unit u f h =>
    refine { Same.refl s with unit := fun v => ?_ }
    rw [State.unit_modUnit]
    split
    · next e => subst e; exact h
    · exact ⟨rfl, rfl⟩
  | chan c f h =>
    refine { Same.refl s with chan := fun d => ?_ }
    rw [State.chan_modChan]
    split
    · next e => subst e; exact h
    · exact ⟨rfl, rfl⟩
  | group g f h hl =>
    refine { Same.refl s with tripList := fun k => ?_, level := fun k => ?_ }
    all_goals
      rw [State.group_modGroup]
      split
      · next e => subst e; assumption
      · rfl
  | tsm f h => exact { Same.refl s with tsm := h }
  | swu f h => exact { Same.refl s with swu := h }

theorem Raws.same {s t : State} (h : Raws s t) : Same s t := by
  induction h with
  | refl => exact Same.refl s
  | tail _ h ih => exact ih.trans h.same

/-- A reaction leaves the fields of `Same`. -/
theorem Reacts.same {s t : State} (h : Reacts s t) : Same s t := h.raws.same

theorem Same.classOf {s t : State} (h : Same s t) (c : Cause) : t.classOf c = s.classOf c := by
  cases c <;> simp [State.classOf, State.analog, h.ai]

/-! ### Frames of the end of a phase and of a removal -/

/-- A reading of the state that records, unit changes, channel changes and busy flags do not reach. -/
structure Unread {β : Type} (p : State → β) : Prop where
  queue : ∀ s who b, p (State.queue s who b) = p s
  unit : ∀ s u f, p (State.modUnit s u f) = p s
  chan : ∀ s c f, p (State.modChan s c f) = p s
  busy : ∀ s g, p (State.modGroup s g fun x => { x with busy := false }) = p s

theorem Unread.stepTo {β : Type} {p : State → β} (h : Unread p) (u : UnitId) (st : UState) (r : StateReason) (s : State) :
    p (s.stepTo u st r) = p s := by
  unfold State.stepTo State.queueUnitState State.queueUnit State.queueReaders
  rw [h.queue, State.refoldUnit_frame _ p (fun c f s => h.chan s c f), h.unit]

theorem Unread.clearPath {β : Type} {p : State → β} (h : Unread p) (u : UnitId) (s : State) : p (s.clearPath u) = p s := by
  unfold State.clearPath State.pathEnd State.queueAll
  split
  · rw [h.queue, h.busy, h.unit]
  · rw [h.unit]

theorem Unread.testUnit {β : Type} {p : State → β} (h : Unread p) (u : UnitId) (s : State) : p (s.testUnit u) = p s := by
  unfold State.testUnit State.endStarting State.endDrain
  dsimp only
  split
  · rfl
  · split_ifs <;> simp only [h.clearPath, h.stepTo]
  · split_ifs <;> simp only [h.clearPath, h.stepTo, h.unit, id]
  · split_ifs <;> simp only [h.clearPath, h.stepTo, h.unit, id]

theorem Unread.remove {β : Type} {p : State → β} (h : Unread p) (c : ChanId) (x : Source) (s : State) :
    p (s.remove c x) = p s := by
  unfold State.remove
  split
  · rw [h.testUnit, State.refold_eq, h.chan, h.chan]
  · rfl

/-- The logs and levels are read by none of these. -/
theorem unread_log (g : Group) : Unread fun s =>
    ((s.group g).level, (s.group g).log, (s.group g).unrecorded, (s.group g).logFull) where
  queue _ _ _ := rfl
  unit _ _ _ := rfl
  chan _ _ _ := rfl
  busy s k := by
    rw [State.group_modGroup]
    split
    · next e => subst e; rfl
    · rfl

/-- The guards are read by none of these. -/
theorem unread_swu : Unread fun s => s.swu where
  queue _ _ _ := rfl
  unit _ _ _ := rfl
  chan _ _ _ := rfl
  busy _ _ := rfl

/-- The speed monitor is read by none of these. -/
theorem unread_tsm : Unread fun s => s.tsm where
  queue _ _ _ := rfl
  unit _ _ _ := rfl
  chan _ _ _ := rfl
  busy _ _ := rfl

end Sys2Proof.Machine
end

