-- ==== Sys2Proof/Laws/Turns.lean ====
section
/-! SUPPORT. What a command can do, said once: every command is a run of the turns listed here, but for the two resets
and the set-up, which begin a state of their own. A property that each turn keeps is kept by every step. -/

namespace Sys2Proof.Machine

/-- A change of records other than stacks, targets, unit states, groups and guards; queues may only shrink. -/
structure Other (s t : State) : Prop where
  queue : ∀ m, (s.port m).queue.length ≤ queueSize → (t.port m).queue.length ≤ queueSize
  chan : ∀ c, (t.chan c).params = (s.chan c).params ∧ (t.chan c).base = (s.chan c).base ∧
    (t.chan c).stack = (s.chan c).stack ∧ (t.chan c).target = (s.chan c).target ∧
    (t.chan c).applied = (s.chan c).applied ∧ ((t.chan c).oneShot = .idle ↔ (s.chan c).oneShot = .idle)
  unit : ∀ u, (t.unit u).params = (s.unit u).params ∧ (t.unit u).state = (s.unit u).state ∧
    (t.unit u).phase = (s.unit u).phase
  groups : t.groups = s.groups
  classOf : ∀ c, t.classOf c = s.classOf c
  guard : ∀ k, t.guard k = s.guard k

/-- One turn of a command. -/
inductive Turn (s : State) : State → Prop
  | react (t : State) (h : Prim s t) : Turn s t
  | other (t : State) (h : Other s t) : Turn s t
  /-- A base is stored, and the fold recomputed. -/
  | base (c : ChanId) (v : Nat) : Turn s (s.setBase c v)
  /-- A ramp tick moves a FREQUENCY or WAVEFORM channel whose unit is not at rest. -/
  | ramp (c : ChanId) (up : Bool) (hm : (s.chan c).params.mode ≠ .oneshot)
      (hr : (s.unit (unitOf c)).atRest = false) : Turn s (s.modChan c fun ch => ch.setApplied ((s.chan c).rampValue up))
  /-- A trip-class arrival is recorded in a group in TRIP. -/
  | known (g : Group) (c : Cause) (hl : (s.group g).level = .trip) (hc : s.classOf c = .trip)
      (hm : c.isMomentary = false) : Turn s (s.record g c .trip)
  /-- A trip-class arrival is recorded in a group outside TRIP, and makes its trip entry (steps 1 to 3 of R97). -/
  | trip (g : Group) (c : Cause) (hl : (s.group g).level ≠ .trip) (hc : s.classOf c = .trip)
      (hm : c.isMomentary = false) : Turn s ((s.record g c .trip).tripSteps g)
  /-- A group without an active trip-class cause loses its TRIP entries and leaves TRIP. -/
  | release (g : Group) (hl : (s.group g).level = .trip) (ha : (s.group g).tripActive = false) :
      Turn s ((s.dropTrips g).setLevel g ((s.dropTrips g).group g).quietLevel)
  /-- ACK acts on a log (R102 steps 1 to 4). -/
  | ack (g : Group) : Turn s ((s.modGroup g GroupRec.acknowledge).giveRecords g)

/-- A run of turns. -/
abbrev Turns : State → State → Prop := Relation.ReflTransGen Turn

theorem Turn.turns {s t : State} (h : Turn s t) : Turns s t := .single h
theorem Turns.trans {s t r : State} (h : Turns s t) (k : Turns t r) : Turns s r := Relation.ReflTransGen.trans h k
theorem Turns.refl {s : State} : Turns s s := Relation.ReflTransGen.refl

theorem Reacts.turns {s t : State} (h : Reacts s t) : Turns s t := by
  induction h with
  | refl => exact .refl
  | tail _ h ih => exact ih.tail (.react _ h)

theorem Other.turns {s t : State} (h : Other s t) : Turns s t := (Turn.other t h).turns

theorem Turns.each {α : Type} (l : List α) (f : α → State → State) (h : ∀ x s, Turns s (f x s)) (s : State) :
    Turns s (s.each l f) :=
  State.each_induct (P := fun t => Turns s t) l f (fun x _ t ht => ht.trans (h x t)) s .refl

/-- A property that each turn keeps is kept by a run of them. -/
theorem Turns.keep {P : State → Prop} (hT : ∀ s t, Turn s t → P s → P t) {s t : State} (h : Turns s t) (hs : P s) :
    P t := by
  induction h with
  | refl => exact hs
  | tail _ h ih => exact hT _ _ h ih

variable (s : State)

/-! ### Other changes -/

theorem Other.refl : Other s s := by constructor <;> simp

theorem State.guard_of_swu {s t : State} (h : t.swu = s.swu) (k : GuardId) : t.guard k = s.guard k := by
  cases k <;> simp [State.guard, h]

/-- A change of ports alone, none of whose queues grows. -/
theorem State.modPort_other (m : Master) (f : Port → Port)
    (h : (s.port m).queue.length ≤ queueSize → (f (s.port m)).queue.length ≤ queueSize) : Other s (s.modPort m f) where
  queue n := by
    rw [State.port_modPort]
    split
    · next e => subst e; exact h
    · exact id
  chan c := by simp
  unit u := by simp
  groups := rfl
  classOf c := by cases c <;> rfl
  guard k := State.guard_of_swu rfl k

theorem State.modEntry_other (c : ChanId) (f : MapEntry → MapEntry) : Other s (s.modEntry c f) where
  queue m := id
  chan c := by simp
  unit u := by simp
  groups := rfl
  classOf c := by cases c <;> rfl
  guard k := State.guard_of_swu rfl k

theorem State.modAnalog_other (n : Fin 16) (f : Analog → Analog) (h : ∀ a, (f a).params = a.params) :
    Other s (s.modAnalog n f) where
  queue m := id
  chan c := by simp
  unit u := by simp
  groups := rfl
  classOf c := by
    cases c <;> try rfl
    next m k =>
      by_cases e : m = n
      · subst e
        simp [State.classOf, State.analog_modAnalog, h]
      · simp [State.classOf, State.analog_modAnalog, e]
  guard k := State.guard_of_swu rfl k

theorem State.modPulse_other (j : PulseId) (f : Pulse → Pulse) : Other s (s.modPulse j f) where
  queue m := id
  chan c := by simp
  unit u := by simp
  groups := rfl
  classOf c := by cases c <;> rfl
  guard k := State.guard_of_swu rfl k

theorem State.modPfl_other (f : Pfl → Pfl) : Other s (s.modPfl f) where
  queue m := id
  chan c := by simp
  unit u := by simp
  groups := rfl
  classOf c := by cases c <;> rfl
  guard k := State.guard_of_swu rfl k

theorem State.modUnit_other (u : UnitId) (f : UnitRec → UnitRec)
    (h : ∀ x, (f x).params = x.params ∧ (f x).state = x.state ∧ (f x).phase = x.phase) : Other s (s.modUnit u f) where
  queue m := id
  chan c := by simp
  unit v := by
    rw [State.unit_modUnit]
    split
    · next e => subst e; exact h _
    · exact ⟨rfl, rfl, rfl⟩
  groups := rfl
  classOf c := by cases c <;> rfl
  guard k := State.guard_of_swu rfl k

theorem State.modChan_other (c : ChanId) (f : Channel → Channel)
    (h : ∀ x, (f x).params = x.params ∧ (f x).base = x.base ∧ (f x).stack = x.stack ∧ (f x).target = x.target ∧
      (f x).applied = x.applied ∧ ((f x).oneShot = .idle ↔ x.oneShot = .idle)) : Other s (s.modChan c f) where
  queue m := id
  chan d := by
    rw [State.chan_modChan]
    split
    · next e => subst e; exact h _
    · simp
  unit v := by simp
  groups := rfl
  classOf c := by cases c <;> rfl
  guard k := State.guard_of_swu rfl k

/-! ### Requests -/

theorem State.respond_turns (m : Master) (tag : Byte) (r : Result) (p : List Byte) : Turns s (s.respond m tag r p) := by
  have h := s.modPort_other m (fun x => { x with buffer := .ready ⟨tag, r, p⟩, partialFlag := false }) id
  exact Other.turns ⟨h.queue, h.chan, h.unit, h.groups, h.classOf, h.guard⟩

theorem State.takeFrame_turns (m : Master) : Turns s (s.takeFrame m) :=
  (s.modPort_other m (fun p => { p with received := p.received.tail }) id).turns

theorem State.validFrame_turns (m : Master) : Turns s (s.validFrame m) := by
  unfold State.validFrame
  refine Turns.trans ?_ (State.modPort_other _ m Port.reload id).turns
  split
  · exact (s.modPort_other m (fun p => { p with silent := false }) id).turns.trans (s.hear_reacts m).turns
  · exact .refl

/-- A request is a run of turns when what its owner makes of it is. -/
theorem State.takeRequest_turns (m : Master) (tag : Byte) (owner : State → Answer)
    (h : ∀ e, Turns e (owner e).1) : Turns s (s.takeRequest m tag owner) := by
  unfold State.takeRequest
  dsimp only
  split
  · exact (((s.takeFrame_turns m).trans (State.validFrame_turns _ m)).trans (h _)).trans (State.respond_turns _ _ _ _ _)
  · exact (s.takeFrame_turns m).trans (State.respond_turns _ _ _ _ _)

theorem State.index_turns {α : Type} (field : Option α) (k : α → Answer) (h : ∀ x, Turns s (k x).1) :
    Turns s (s.index field k).1 := by
  cases field
  · exact .refl
  · exact h _

theorem State.needWriter_turns (ok : Bool) (k : Answer) (h : Turns s k.1) : Turns s (s.needWriter ok k).1 := by
  unfold State.needWriter
  split
  · exact h
  · exact .refl

theorem State.needReader_turns (m : Master) (c : ChanId) (k : Answer) (h : Turns s k.1) :
    Turns s (s.needReader m c k).1 := by
  unfold State.needReader
  split
  · exact h
  · exact .refl

/-! ### Channels -/

theorem State.storePoint_turns (c : ChanId) (v : Nat) : Turns s (s.storePoint c v) := by
  unfold State.storePoint State.setDemand
  refine Turns.trans ?_ (State.testUnit_reacts _ _).turns
  dsimp only
  split
  · exact (((Prim.tsm (fun t => { t with demand := v }) fun _ => rfl).reacts.turns).tail (.base 8 _)).tail (.base 9 _)
  · exact (Turn.base c v).turns

theorem State.rampChannel_turns (c : ChanId) : Turns s (s.rampChannel c) := by
  unfold State.rampChannel
  dsimp only
  split
  · exact .refl
  · next h =>
    have h1 : Turns s _ := (Turn.ramp (s := s) c (decide ¬((s.unit (unitOf c)).phase = .none ∧
      (s.unit (unitOf c)).state = .paused)) (fun a => h (.inl a)) (by simpa using fun a => h (.inr (.inl a)))).turns
    split
    · exact h1.trans (State.queue_reacts _ _ _).turns
    · exact h1

theorem ownSetPoint_turns (m : Master) (ch : Byte) (v : Half) : Turns s (ownSetPoint m ch v s).1 := by
  refine s.index_turns _ _ fun c => s.needWriter_turns _ _ ?_
  split_ifs
  · exact .refl
  · exact .refl
  · exact s.storePoint_turns _ _

theorem ownForce_turns (m : Master) (ch k : Byte) (v : Half) : Turns s (ownForce m ch k v s).1 := by
  refine s.index_turns _ _ fun c => s.index_turns _ _ fun k => s.needWriter_turns _ _ ?_
  exact (s.push_reacts _ _ (by simp) (by simp)).turns

theorem ownUnforce_turns (m : Master) (ch : Byte) : Turns s (ownUnforce m ch s).1 := by
  refine s.index_turns _ _ fun c => s.needWriter_turns _ _ ?_
  exact (s.remove_reacts _ _ (by simp) (by simp)).turns

/-! ### Map -/

theorem State.endOffer_turns (c : ChanId) (f : Option Master → Master → List (Option Master)) (r : ExpiryReason) :
    Turns s (s.endOffer c f r) := by
  unfold State.endOffer
  split
  · exact .refl
  · exact (s.modEntry_other c (fun e => { e with offer := none })).turns.trans (State.queue_reacts _ _ _).turns

theorem State.dropWriterEntries_turns (c : ChanId) : Turns s (s.dropWriterEntries c) := by
  unfold State.dropWriterEntries
  dsimp only
  split
  · refine Turns.trans ?_ (State.testUnit_reacts _ _).turns
    let p (e : Entry) : Bool := decide (e.source ≠ .link) && decide (e.source ≠ .force)
    have e : (fun ch : Channel => { ch with stack := removeEntry .link (removeEntry .force ch.stack) }) =
        fun ch => { ch with stack := ch.stack.filter p } := by
      funext ch
      simp only [removeEntry, List.filter_filter, p]
    rw [e]
    exact (Prim.pop c p (fun e h => by rcases h with h | h <;> simp [p, h])).reacts.turns
  · exact .refl

theorem State.reviewLink_turns (c : ChanId) (w : Option Master) : Turns s (s.reviewLink c w) := by
  unfold State.reviewLink
  split
  · exact .refl
  · split
    · exact (s.deactivate_reacts _ _).turns
    · exact .refl

theorem State.changeWriter_turns (c : ChanId) (new : Option Master) : Turns s (s.changeWriter c new) := by
  unfold State.changeWriter
  dsimp only
  exact (((((State.modEntry_other _ _ _).turns.trans (State.dropWriterEntries_turns _ _))).trans
    (State.modEntry_other _ _ _).turns).trans (State.reviewLink_turns _ _ _)).trans (State.queue_reacts _ _ _).turns

theorem ownClaim_turns (m : Master) (ch : Byte) : Turns s (ownClaim m ch s).1 := by
  refine s.index_turns _ _ fun c => ?_
  dsimp only
  split
  · exact .refl
  · split
    · exact s.changeWriter_turns _ _
    · split_ifs
      · exact .refl
      · exact .refl
      · exact .refl
      · exact s.changeWriter_turns _ _

theorem ownReleaseCh_turns (m : Master) (ch : Byte) : Turns s (ownReleaseCh m ch s).1 := by
  refine s.index_turns _ _ fun c => s.needWriter_turns _ _ ?_
  split
  · exact .refl
  · exact s.changeWriter_turns _ _

theorem State.setOffer_turns (c : ChanId) (o : Master) : Turns s (s.setOffer c o) := by
  unfold State.setOffer State.replaceOffer
  dsimp only
  refine Turns.trans ?_ (State.queue_reacts _ _ _).turns
  refine Turns.trans ?_ (State.modEntry_other _ _ _).turns
  split
  · exact .refl
  · split
    · exact .refl
    · exact (State.queue_reacts _ _ _).turns

theorem ownOffer_turns (m : Master) (ch o : Byte) : Turns s (ownOffer m ch o s).1 := by
  refine s.index_turns _ _ fun c => s.index_turns _ _ fun o => s.needWriter_turns _ _ ?_
  split_ifs
  · exact .refl
  · exact .refl
  · exact .refl
  · exact s.setOffer_turns _ _

theorem ownAccept_turns (m : Master) (ch : Byte) : Turns s (ownAccept m ch s).1 := by
  refine s.index_turns _ _ fun c => ?_
  split
  · exact .refl
  · split
    · exact s.changeWriter_turns _ _
    · exact .refl

theorem ownLock_turns (m : Master) (ch : Byte) : Turns s (ownLock m ch s).1 := by
  refine s.index_turns _ _ fun c => s.needWriter_turns _ _ ?_
  split
  · exact .refl
  · refine (s.modEntry_other c (fun e => { e with locked := true })).turns.trans ?_
    exact State.endOffer_turns _ c (fun w o => [w, some o]) .locked

theorem State.dropOffersTo_turns (m : Master) : Turns s (s.dropOffersTo m) := by
  unfold State.dropOffersTo
  refine Turns.each _ _ (fun c s => ?_) s
  split
  · exact State.endOffer_turns _ _ _ _
  · exact .refl

theorem State.silenceMap_turns (m : Master) : Turns s (s.silenceMap m) := by
  unfold State.silenceMap
  dsimp only
  have h2 (t : State) : Reacts t (t.each (t.written m) fun c s =>
      s.push c ⟨.link, .value, (s.chan c).params.fallback, s.ms⟩) :=
    Reacts.each _ _ (fun _ s => s.push_reacts _ _ (by simp) (by simp)) t
  have h3 (t : State) : Reacts t (t.each (t.writtenGroups m) fun g s => s.arriveAlarm g (.linkSilent m)) :=
    Reacts.each _ _ (fun _ s => s.arriveAlarm_reacts _ _ rfl rfl) t
  exact ((s.dropOffersTo_turns m).trans (h2 _).turns).trans (h3 _).turns

theorem unitGroup_of_mem {g : Group} {u : UnitId} (h : u ∈ groupUnits g) : unitGroup u = g := by
  revert h
  cases g <;> revert u <;> decide

/-! ### Units -/

theorem State.startGo_turns (g : Group) (hg : s.goTripped g = false) : Turns s (s.startGo g) := by
  unfold State.startGo
  dsimp only
  have key : Reacts s (s.each (s.pathUnits g) fun u s => s.startPath u) := by
    refine State.each_induct (P := fun t => Reacts s t) _ _ (fun u hu t ht => ht.trans (t.startPath_reacts u ?_)) s .refl
    intro hn hne
    have hs := ht.same
    rw [(hs.unit u).2] at hn
    simp only [State.pathUnits, List.mem_filter, Bool.and_eq_true, decide_eq_true_eq] at hu
    intro hl
    rw [unitGroup_of_mem hu.1, hs.level] at hl
    simp only [State.goTripped, hl, decide_true, Bool.true_and, List.any_eq_false] at hg
    have := hg u hu.1
    simp [hu.2.1, hn] at this
  refine Turns.trans key.turns ?_
  unfold State.endGo
  split
  · exact (Prim.busy g true _).reacts.turns
  · exact (State.queue_reacts _ _ _).turns

theorem ownGo_turns (m : Master) (g : Byte) : Turns s (ownGo m g s).1 := by
  refine s.index_turns _ _ fun g => s.needWriter_turns _ _ ?_
  split_ifs with h1 h2
  · exact .refl
  · exact .refl
  · exact s.startGo_turns _ (by simpa using h2)

theorem ownSetNext_turns (m : Master) (u st : Byte) : Turns s (ownSetNext m u st s).1 := by
  refine s.index_turns _ _ fun u => s.index_turns _ _ fun st => s.needWriter_turns _ _ ?_
  exact (s.modUnit_other u (fun x => { x with next := st, protAltered := false }) fun _ => ⟨rfl, rfl, rfl⟩).turns

theorem State.drainExpired_turns (u : UnitId) : Turns s (s.drainExpired u) :=
  (s.endDrain_reacts u _ _ fun s => s.momentary_reacts _ _ rfl rfl).turns

/-! ### Protection -/

theorem State.arriveWith_turns (f : State → State) (g : Group) (c : Cause) (hm : c.isMomentary = false)
    (hf : ∀ t, t.group g = ((s.record g c .trip).group g) → (t.group g).level ≠ .trip → s.classOf c = .trip →
      t = s.record g c .trip → Turns s (f t)) : Turns s (s.arriveWith f g c) := by
  unfold State.arriveWith
  split
  · next h => exact (s.arriveAlarm_reacts g c h hm).turns
  · next h =>
    dsimp only
    refine Turns.trans ?_ (State.relevel_reacts _ _).turns
    have e := (s.record_raws g c .trip).same.level g
    split
    · next hl => exact (Turn.known g c (e.mp hl) h hm).turns
    · next hl => exact hf _ rfl hl h rfl

theorem State.tripped_turns (g : Group) (c : Cause) (hl : ((s.record g c .trip).group g).level ≠ .trip)
    (hc : s.classOf c = .trip) (hm : c.isMomentary = false) : Turns s ((s.record g c .trip).tripSteps g) :=
  (Turn.trip g c (fun a => hl (((s.record_raws g c .trip).same.level g).mpr a)) hc hm).turns

theorem State.arriveTrip_turns (g : Group) (c : Cause) (hm : c.isMomentary = false) :
    Turns s (s.arriveWith (fun s => s.tripAlarm g) g c) := by
  refine s.arriveWith_turns _ g c hm fun t _ hl hc e => ?_
  subst e
  exact (s.tripped_turns g c hl hc hm).trans (State.propagateAlarm_reacts _ _).turns

theorem State.propagateField_turns : Turns s s.propagateField :=
  (s.arriveTrip_turns .turbine .fieldTripped rfl).trans (State.arriveTrip_turns _ .heat .fieldTripped rfl)

theorem State.propagate_turns (g : Group) : Turns s (s.propagate g) := by
  unfold State.propagate
  split
  · exact s.propagateField_turns
  · exact (s.propagateAlarm_reacts g).turns

theorem State.arrive_turns (g : Group) (c : Cause) (hm : c.isMomentary = false) : Turns s (s.arrive g c) := by
  refine s.arriveWith_turns _ g c hm fun t _ hl hc e => ?_
  subst e
  exact (s.tripped_turns g c hl hc hm).trans (State.propagate_turns _ _)

theorem State.handOver_turns (g : Group) (c : Cause) (b : Bool) (hm : c.isMomentary = false) :
    Turns s (s.handOver g c b) := by
  unfold State.handOver
  split
  · exact s.arrive_turns g c hm
  · exact (s.deactivate_reacts g c).turns

theorem ownAck_turns (m : Master) (g : Byte) : Turns s (ownAck m g s).1 := by
  refine s.index_turns _ _ fun g => s.needWriter_turns _ _ ?_
  exact (Turn.ack g).turns.trans (State.relevel_reacts _ _).turns

/-- What the moves of a reaction and the removal of one TRIP entry keep is kept by the removal of a group's. -/
theorem State.dropTrips_keep {P : State → Prop} (hR : ∀ s t, Prim s t → P s → P t)
    (g : Group) (hD : ∀ s, ∀ c ∈ groupChannels g, P s →
      P ((s.modChan c fun ch => { ch with stack := removeEntry .trip ch.stack }).refold c)) (hs : P s) :
    P (s.dropTrips g) := by
  refine State.each_induct (P := P) _ _ (fun c hc t ht => ?_) s hs
  unfold State.remove
  split
  · exact (State.testUnit_reacts _ _).keep hR (hD t c hc ht)
  · exact ht

/-- The removal of the TRIP entries of a group leaves its level, its log, its unrecorded set and LOG_FULL. -/
theorem State.dropTrips_log (g h : Group) : ((s.dropTrips g).group h).level = (s.group h).level ∧
    ((s.dropTrips g).group h).log = (s.group h).log ∧ ((s.dropTrips g).group h).unrecorded = (s.group h).unrecorded ∧
    ((s.dropTrips g).group h).logFull = (s.group h).logFull := by
  unfold State.dropTrips
  simpa only [Prod.mk.injEq] using State.each_frame (fun s => ((s.group h).level, (s.group h).log, (s.group h).unrecorded,
    (s.group h).logFull)) (groupChannels g) (fun c s => State.remove s c .trip)
    (fun c s => (unread_log h).remove c .trip s) s

theorem State.release_turns (g : Group) (hl : (s.group g).level = .trip) (ha : (s.group g).tripActive = false) :
    Turns s (s.release g) := by
  exact (Turn.release g hl ha).turns.trans (State.propagateEnd_reacts _ _).turns

theorem ownReleaseTrip_turns (m : Master) (g : Byte) : Turns s (ownReleaseTrip m g s).1 := by
  refine s.index_turns _ _ fun g => s.needWriter_turns _ _ ?_
  split_ifs with h1 h2
  · exact .refl
  · exact .refl
  · exact s.release_turns g (by simpa using h1) (by simpa using h2)

/-! ### Scaling watch and meter -/

theorem State.modEx_turns (f : Exchanger → Exchanger) : Turns s (s.modEx f) :=
  (Prim.swu (fun w => { w with ex := f w.ex }) fun _ => ⟨rfl, rfl, rfl⟩).reacts.turns

theorem State.modSil_turns (f : Silica → Silica) : Turns s (s.modSil f) :=
  (Prim.swu (fun w => { w with sil := f w.sil }) fun _ => ⟨rfl, rfl, rfl⟩).reacts.turns

theorem State.modCal_turns (i : Fin 8) (f : Calcite → Calcite) : Turns s (s.modCal i f) :=
  (Prim.swu (fun w => { w with cal := w.cal.set i (f w.cal[i]) }) fun _ => ⟨rfl, rfl, rfl⟩).reacts.turns

theorem State.stepFouling_turns : Turns s s.stepFouling := by
  unfold State.stepFouling
  dsimp only
  split
  · exact .refl
  · exact (State.modEx_turns _ _).trans (State.handOver_turns _ _ _ _ rfl)

theorem State.evalExchanger_turns : Turns s s.evalExchanger := by
  unfold State.evalExchanger
  dsimp only
  split
  · have key (t : State) : Turns t (if t.swu.ex.outcome = .evaluated then t.stepFouling else t) := by
      split
      · exact t.stepFouling_turns
      · exact .refl
    exact (s.modEx_turns _).trans (key _)
  · exact s.modEx_turns _

theorem State.stepMargin_turns : Turns s s.stepMargin := by
  unfold State.stepMargin
  dsimp only
  split
  · exact .refl
  · exact (State.modSil_turns _ _).trans (State.handOver_turns _ _ _ _ rfl)

theorem State.stepTrip_turns : Turns s s.stepTrip := by
  unfold State.stepTrip
  dsimp only
  split
  · exact State.modSil_turns _ _
  · exact (State.modSil_turns _ _).trans (State.handOver_turns _ _ _ _ rfl)

theorem State.evalSilica_turns : Turns s s.evalSilica := by
  unfold State.evalSilica
  dsimp only
  split
  · have key (t : State) : Turns t (if (t.stepMargin.stepTrip.unit unitHX).inUse then
        t.stepMargin.stepTrip.runGuard .silica t.stepMargin.stepTrip.swu.sil.sm else t.stepMargin.stepTrip) := by
      refine (t.stepMargin_turns.trans (State.stepTrip_turns _)).trans ?_
      split
      · exact (State.runGuard_reacts _ _ _).turns
      · exact .refl
    exact (State.modSil_turns _ _).trans (key _)
  · have key (t : State) : Turns t (if (t.unit unitHX).inUse then t.holdGuard .silica else t) := by
      split
      · exact (State.holdGuard_reacts _ _).turns
      · exact .refl
    exact (State.modSil_turns _ _).trans (key _)

theorem State.stepCalcite_turns (i : Fin 8) : Turns s (s.stepCalcite i) := by
  unfold State.stepCalcite
  dsimp only
  split
  · exact .refl
  · exact (State.modCal_turns _ _ _).trans (State.handOver_turns _ _ _ _ rfl)

theorem State.evalCalcite_turns (i : Fin 8) : Turns s (s.evalCalcite i) := by
  unfold State.evalCalcite
  dsimp only
  split_ifs
  · exact ((State.modCal_turns _ _ _).trans (State.stepCalcite_turns _ _)).trans (State.runGuard_reacts _ _ _).turns
  · exact (State.modCal_turns _ _ _).trans (State.holdGuard_reacts _ _).turns
  · exact State.modCal_turns _ _ _

theorem State.modSwu_turns (f : Swu → Swu)
    (h : ∀ w, (f w).params = w.params ∧ (f w).silGuard = w.silGuard ∧ (f w).calGuards = w.calGuards) :
    Turns s (s.modSwu f) := (Prim.swu f h).reacts.turns

theorem State.evaluate_turns : Turns s s.evaluate := by
  unfold State.evaluate
  dsimp only
  refine (s.modSwu_turns (fun w => { w with counter := 0, lastTime := s.snap.time }) fun _ => ⟨rfl, rfl, rfl⟩).trans ?_
  exact ((State.evalExchanger_turns _).trans (State.evalSilica_turns _)).trans
    (Turns.each wells (fun i s => s.evalCalcite i) (fun i s => s.evalCalcite_turns i) _)

theorem State.countScan_turns : Turns s s.countScan := by
  unfold State.countScan
  split
  · exact s.evaluate_turns
  · exact s.modSwu_turns (fun w => { w with counter := w.counter + 1 }) fun _ => ⟨rfl, rfl, rfl⟩

theorem ownSetLab_turns (m : Master) (i : Byte) (v : Word) : Turns s (ownSetLab m i v s).1 := by
  refine s.index_turns _ _ fun x => s.needWriter_turns _ _ ?_
  cases x with
  | silica => exact s.modSwu_turns (fun w => { w with cSil := min LabItem.silica.max v.toNat }) fun _ => ⟨rfl, rfl, rfl⟩
  | bubble i =>
    exact s.modSwu_turns (fun w => { w with pBub := w.pBub.set i (min (LabItem.bubble i).max v.toNat) })
      fun _ => ⟨rfl, rfl, rfl⟩

/-- A change of fields that no turn law reads. -/
theorem other_of {s t : State} (hp : t.ports = s.ports) (hc : t.ch = s.ch) (ha : t.ai = s.ai) (hu : t.units = s.units)
    (hg : t.groups = s.groups) (hw : t.swu = s.swu) : Other s t where
  queue m := by simp [State.port, hp]
  chan c := by simp [State.chan, hc]
  unit u := by simp [State.unit, hu]
  groups := hg
  classOf c := by cases c <;> simp [State.classOf, State.analog, ha]
  guard k := State.guard_of_swu hw k

theorem turns_of {s t : State} (hp : t.ports = s.ports) (hc : t.ch = s.ch) (ha : t.ai = s.ai) (hu : t.units = s.units)
    (hg : t.groups = s.groups) (hw : t.swu = s.swu) : Turns s t := (other_of hp hc ha hu hg hw).turns

theorem State.meterScan_turns : Turns s s.meterScan := turns_of rfl rfl rfl rfl rfl rfl

theorem ownReadMeter_turns : Turns s (ownReadMeter s).1 := turns_of rfl rfl rfl rfl rfl rfl

/-! ### Inputs -/

theorem Analog.convert_params (a : Analog) (code : Nat) : (a.convert code).params = a.params := by
  unfold Analog.convert
  dsimp only
  split <;> rfl

theorem Analog.setActive_params (a : Analog) (k : Fin 2) (b : Bool) : (a.setActive k b).params = a.params := by
  unfold Analog.setActive
  split <;> rfl

theorem State.convert_turns (n : Fin 16) (code : Nat) : Turns s (s.convert n code) := by
  unfold State.convert State.sensorChange
  dsimp only
  refine (s.modAnalog_other n (fun a => a.convert code) fun a => a.convert_params code).turns.trans ?_
  split_ifs
  · exact State.handOver_turns _ _ _ _ rfl
  · exact State.handOver_turns _ _ _ _ rfl
  · exact .refl

theorem State.limitCheck_turns (n : Fin 16) (k : Fin 2) : Turns s (s.limitCheck n k) := by
  unfold State.limitCheck
  dsimp only
  split
  · exact (State.modAnalog_other _ n _ fun a => a.setActive_params k _).turns.trans (State.handOver_turns _ _ _ _ rfl)
  · exact .refl

theorem State.completeScan_turns : Turns s s.completeScan := by
  unfold State.completeScan State.limitChecks
  have h1 : Turns s s.takeSnapshot := turns_of rfl rfl rfl rfl rfl rfl
  exact ((h1.trans (Turns.each analogs (fun n s => (s.limitCheck n 0).limitCheck n 1)
    (fun n s => (s.limitCheck_turns n 0).trans (State.limitCheck_turns _ n 1)) _)).trans
    (State.meterScan_turns _)).trans (State.countScan_turns _)

theorem State.nextEntry_turns (p : Nat) : Turns s (s.nextEntry p) := by
  unfold State.nextEntry
  split
  · exact turns_of rfl rfl rfl rfl rfl rfl
  · refine Turns.trans ?_ (State.completeScan_turns _)
    exact turns_of rfl rfl rfl rfl rfl rfl

theorem State.comparePeriod_turns (p : Nat) : Turns s (s.comparePeriod p) := by
  unfold State.comparePeriod
  dsimp only
  refine Turns.trans (Prim.tsm (fun t => { t with
    overspeed := (overspeedNext s.tsm.overspeed s.tsm.run (decide (p ≤ s.tsm.params.tripPeriod))).1
    run := (overspeedNext s.tsm.overspeed s.tsm.run (decide (p ≤ s.tsm.params.tripPeriod))).2 })
    fun _ => rfl).reacts.turns ?_
  split
  · exact .refl
  · exact State.handOver_turns _ _ _ _ rfl

theorem State.speedPeriod_turns (p : Nat) : Turns s (s.speedPeriod p) := by
  unfold State.speedPeriod State.setSpeed
  refine Turns.trans (Turns.trans ?_ (State.regainSpeed_reacts _).turns) (State.comparePeriod_turns _ _)
  exact (Prim.tsm (fun t => { t with speed := roundHalfUp (s.pulse piSpeed).params.k p, quality := .good })
    fun _ => rfl).reacts.turns

theorem State.stopOverspeed_turns : Turns s s.stopOverspeed := by
  unfold State.stopOverspeed
  dsimp only
  refine Turns.trans (Prim.tsm (fun t => { t with overspeed := false, run := 0 }) fun _ => rfl).reacts.turns ?_
  split
  · exact (State.deactivate_reacts _ _ _).turns
  · exact .refl

theorem State.speedLoss_turns : Turns s s.speedLoss := by
  unfold State.speedLoss
  dsimp only
  refine Turns.trans (Prim.tsm (fun t => { t with speed := 0, quality := .noSignal }) fun _ => rfl).reacts.turns ?_
  refine (State.stopOverspeed_turns _).trans ?_
  split
  · exact (State.loseSpeed_reacts _).turns
  · exact .refl

theorem State.testPulse_turns (j : PulseId) : Turns s (s.testPulse j) := by
  unfold State.testPulse
  split
  · exact (s.testUnit_reacts _).turns
  · exact .refl

theorem State.latchPulse_turns (j : PulseId) : Turns s (s.latchPulse j) := by
  unfold State.latchPulse
  dsimp only
  refine Turns.trans ?_ (State.testPulse_turns _ _)
  have h : Turns s { s.modPulse j (fun p => p.latch ((s.pulse j).period s.draws)) with draws := s.draws + 1 } :=
    turns_of rfl rfl rfl rfl rfl rfl
  refine h.trans ?_
  split
  · exact State.speedPeriod_turns _ _
  · exact .refl

theorem State.losePulse_turns (j : PulseId) : Turns s (s.losePulse j) := by
  unfold State.losePulse
  dsimp only
  refine Turns.trans ?_ (State.testPulse_turns _ _)
  refine (s.modPulse_other j Pulse.lose).turns.trans ?_
  split
  · exact State.speedLoss_turns _
  · exact .refl

theorem mem_freeOrder {α : Type} (d : Nat) (l : List α) (x : α) : x ∈ freeOrder d l ↔ x ∈ l := by
  have hi (r : Nat) (y : α) (l : List (Nat × α)) :
      x ∈ (insertRanked r y l).map Prod.snd ↔ x = y ∨ x ∈ l.map Prod.snd := by
    induction l with
    | nil => simp [insertRanked]
    | cons z l ih =>
      obtain ⟨q, z⟩ := z
      unfold insertRanked
      split
      · simp
      · simp only [List.map_cons, List.mem_cons, ih]
        tauto
  have hr (l : List α) (n : Nat) : x ∈ (rankedFrom d n l).map Prod.snd ↔ x ∈ l := by
    induction l generalizing n with
    | nil => simp [rankedFrom]
    | cons y l ih => rw [rankedFrom, hi, ih, List.mem_cons]
  unfold freeOrder
  split
  · rfl
  · rfl
  · exact hr _ 0

theorem handsOf_momentary {old new : Vector Discrete 12} {d : Fin 12} {x : Hand} (h : x ∈ handsOf old new d) :
    x.cause.isMomentary = false := by
  unfold handsOf at h
  split at h
  · simp at h
  · obtain ⟨y, hy, rfl⟩ := List.mem_map.mp h
    revert hy
    unfold discreteCauses
    split
    · simp only [List.mem_singleton]; rintro rfl; rfl
    · split <;> simp only [List.mem_cons, List.not_mem_nil, or_false] <;> rintro (rfl | rfl | rfl) <;> rfl

theorem State.sampleDiscretes_turns (l : BitVec 12) : Turns s (s.sampleDiscretes l) := by
  unfold State.sampleDiscretes
  dsimp only
  have h : Turns s { s with di := vec12 fun d => (s.di[d]).sample (l.getLsbD d.val), draws := s.draws + 1 } :=
    turns_of rfl rfl rfl rfl rfl rfl
  refine h.trans ?_
  refine State.each_induct (P := Turns _) _ (fun (x : Hand) s => State.handOver s x.group x.cause x.arrives)
    (fun x hx t ht => ht.trans (t.handOver_turns _ _ _ ?_)) _ .refl
  rw [mem_freeOrder, List.mem_flatMap] at hx
  obtain ⟨d, _, hx⟩ := hx
  exact handsOf_momentary hx

/-! ### Link ports -/

theorem Port.fetch_queue (p : Port) (n : Nat) : (p.fetch n).queue = p.queue := by
  unfold Port.fetch
  split
  · rfl
  · rfl
  · dsimp only
    split <;> rfl

theorem Port.transact_queue (p : Port) (b : List Byte) : (p.transact b).queue = p.queue := by
  unfold Port.transact
  split
  · rfl
  · split
    · exact p.fetch_queue _
    · rfl

theorem ownStatus_turns (m : Master) : Turns s (ownStatus m s).1 :=
  (s.modPort_other m (fun p => { p with lost := false }) id).turns

theorem ownReadEvent_turns (m : Master) : Turns s (ownReadEvent m s).1 := by
  unfold ownReadEvent
  split
  · exact .refl
  · next e rest h =>
    exact (s.modPort_other m (fun p => { p with queue := rest }) (by simp only [h, List.length_cons]; omega)).turns

theorem ownPortReset_turns (m : Master) : Turns s (ownPortReset m s).1 := by
  unfold ownPortReset State.portReset State.withdrawOffers State.dropForces
  refine Turns.trans ?_ (State.modPort_other _ m Port.restart (by simp [Port.restart])).turns
  have h1 : ∀ (c : ChanId) (s : State), Turns s (if (s.entry c).writer = some m then
      s.endOffer c (fun _ o => [some o]) .portReset
    else if (s.entry c).offer.any (fun o => decide (o.offeree = m)) then s.endOffer c (fun w _ => [w]) .portReset
    else s) := by
    intro c s
    split_ifs
    · exact s.endOffer_turns _ _ _
    · exact s.endOffer_turns _ _ _
    · exact .refl
  have h2 (t : State) : Reacts t (t.each (t.written m) fun c s => s.remove c .force) :=
    Reacts.each _ _ (fun _ s => s.remove_reacts _ _ (by simp) (by simp)) t
  exact (Turns.each channels _ h1 s).trans (h2 _).turns

theorem State.badFrame_turns (m : Master) (b : List Byte) : Turns s (s.badFrame m b) := by
  unfold State.badFrame
  split
  · exact (s.takeFrame_turns m).trans (State.respond_turns _ _ _ _ _)
  · exact s.takeRequest_turns m _ _ fun _ => .refl

/-! ### Profile requests -/

theorem State.whenIdle_turns (k : Answer) (h : Turns s k.1) : Turns s (s.whenIdle k).1 := by
  unfold State.whenIdle
  split
  · exact .refl
  · exact h

theorem ownProfileRead_turns (o : Half) : Turns s (ownProfileRead o s).1 :=
  s.index_turns _ _ fun _ => s.whenIdle_turns _ .refl

theorem ownProfileWrite_turns (o : Half) (d : List Byte) : Turns s (ownProfileWrite o d s).1 := by
  refine s.index_turns _ _ fun a => s.whenIdle_turns _ ?_
  split
  · exact (s.modPfl_other (fun p => { p with busy := some pageWriteTime, write := some ⟨a, d⟩ })).turns
  · exact .refl

theorem ownProfileCheck_turns : Turns s (ownProfileCheck s).1 := s.whenIdle_turns _ .refl

/-! ### Commands -/

/-- A state that is not the run of another: what a reset or the set-up leaves. -/
inductive Fresh (s : State) : State → Prop
  | powerOn : Fresh s s.powerOn
  | warm : Fresh s s.warm
  | setUp (a : Option (List Byte)) : Fresh s ((s.modPfl fun p => p.load a).setUp (s.pfl.load a).parameters)

/-- The rest of start-up after set-up (R107, R180, R181). -/
theorem State.startUp_turns (p : Profile) :
    Turns (s.setUp p) ((((s.setUp p).badProfile.startUpTrips.emptyQueues).startTimers).leaveStartUp) := by
  have trips (t : State) : Turns t t.startUpTrips := by
    unfold State.startUpTrips
    dsimp only
    have h1 : Reacts t (t.each allGroups fun g s => (s.pushTripList g).forceGroup g) :=
      Reacts.each _ _ (fun g s => (s.pushTripList_reacts g).trans (State.forceGroup_reacts _ g)) t
    exact ((h1.turns.trans (State.propagateField_turns _)).trans (State.propagateAlarm_reacts _ _).turns).trans
      (State.propagateAlarm_reacts _ _).turns
  have empty (t : State) : Turns t t.emptyQueues := by
    refine (Other.turns (t := t.emptyQueues) ⟨fun m _ => ?_, fun c => ?_, fun u => ?_, rfl, fun c => ?_, fun k => ?_⟩)
    · cases m <;> exact Nat.zero_le _
    · exact ⟨rfl, rfl, rfl, rfl, rfl, Iff.rfl⟩
    · exact ⟨rfl, rfl, rfl⟩
    · cases c <;> rfl
    · exact State.guard_of_swu rfl k
  have timers (t : State) : Turns t t.startTimers := by
    unfold State.startTimers State.startScan
    have h1 : Turns t { t with asu := { t.asu with pos := some 0, nextScan := t.ms + BitVec.ofNat 32 t.asu.period } } :=
      turns_of rfl rfl rfl rfl rfl rfl
    exact h1.trans (Turns.each masters (fun m s => s.modPort m Port.reload)
      (fun m s => (s.modPort_other m Port.reload id).turns) _)
  have leave (t : State) : Turns t t.leaveStartUp := by
    unfold State.leaveStartUp State.queueAll
    refine (t.queue_reacts (fun _ => true) (.profileDone t.pfl.state t.pfl.failing)).turns.trans ?_
    exact turns_of rfl rfl rfl rfl rfl rfl
  have bad (t : State) (ht : ∀ g, (t.group g).level = .trip) : Turns t t.badProfile := by
    unfold State.badProfile
    split
    · exact .refl
    · refine (State.each_induct (P := fun r => Turns t r ∧ ∀ g, (r.group g).level = .trip) _ _
        (fun g _ r hr => ⟨hr.1.tail (Turn.known g .profileBad (hr.2 g) rfl rfl), fun k => ?_⟩) t ⟨.refl, ht⟩).1
      exact ((r.record_raws g .profileBad .trip).same.level k).mpr (hr.2 k)
  refine Turns.trans (Turns.trans (Turns.trans (Turns.trans (bad _ ?_) (trips _)) (empty _)) (timers _)) (leave _)
  intro g
  cases g <;> rfl

theorem State.fallSilent_turns (m : Master) : Turns s (s.fallSilent m) := by
  unfold State.fallSilent State.queueOthers
  exact ((s.modPort_other m (fun p => { p with silent := true, timer := none, silentSince := s.ms }) id).turns.trans
    (State.queue_reacts _ _ _).turns).trans (State.silenceMap_turns _ _)

theorem execSilenceTimerExpiry_turns (m : Master) {t : State} (h : execSilenceTimerExpiry m s = .next t) :
    Turns s t := by
  cases h
  split
  · exact s.fallSilent_turns m
  · exact .refl

theorem State.rampAll_turns : Turns s (s.each channels fun c s => s.rampChannel c) :=
  Turns.each channels _ (fun c s => s.rampChannel_turns c) s

theorem State.testAll_turns : Turns s (s.each allUnits fun u s => s.testUnit u) :=
  Turns.each allUnits _ (fun u s => (s.testUnit_reacts u).turns) s

theorem execRampTick_turns {t : State} (h : execRampTick s = .next t) : Turns s t :=
  Host.Outcome.next.inj h ▸ s.rampAll_turns.trans (State.testAll_turns _)

theorem execOfferExpiry_turns (c : ChanId) {t : State} (h : execOfferExpiry c s = .next t) : Turns s t := by
  cases h
  exact s.endOffer_turns _ _ _

theorem execDiSample_turns (l : BitVec 12) {t : State} (h : execDiSample l s = .next t) : Turns s t := by
  cases h
  split
  · exact s.sampleDiscretes_turns _
  · exact .refl

theorem execScanStart_turns {t : State} (h : execScanStart s = .next t) : Turns s t := by
  cases h
  split
  · exact turns_of rfl rfl rfl rfl rfl rfl
  · exact .refl

theorem execConversionEnd_turns (c : BitVec 12) {t : State} (h : execConversionEnd c s = .next t) : Turns s t := by
  cases h
  split
  · exact .refl
  · split
    · exact .refl
    · exact (s.convert_turns _ _).trans (State.nextEntry_turns _ _)

theorem execPulseActiveEdge_turns (j : PulseId) {t : State} (h : execPulseActiveEdge j s = .next t) : Turns s t := by
  cases h
  split_ifs
  · exact .refl
  · exact s.latchPulse_turns _
  · exact (s.modPulse_other _ _).turns

theorem execSignalTimeout_turns (j : PulseId) {t : State} (h : execSignalTimeout j s = .next t) : Turns s t := by
  cases h
  split
  · exact s.losePulse_turns _
  · exact .refl

theorem execPeriodCounterOverflow_turns (j : PulseId) {t : State} (h : execPeriodCounterOverflow j s = .next t) : Turns s t := by
  cases h
  split
  · exact s.losePulse_turns _
  · exact .refl

theorem execHighPhaseEnd_turns (c : ChanId) {t : State} (h : execHighPhaseEnd c s = .next t) : Turns s t := by
  cases h
  refine (s.modChan_other _ _ fun x => ?_).turns
  unfold Channel.endHigh
  split <;> simp

theorem execPeriodBoundary_turns (c : ChanId) {t : State} (h : execPeriodBoundary c s = .next t) : Turns s t := by
  cases h
  refine (s.modChan_other _ _ fun x => ?_).turns
  unfold Channel.boundary
  split <;> simp

theorem execOneshotDelayExpiry_turns (c : ChanId) {t : State} (h : execOneshotDelayExpiry c s = .next t) : Turns s t := by
  cases h
  refine (s.modChan_other _ _ fun x => ?_).turns
  unfold Channel.endDelay Channel.startPulse
  split <;> simp_all

theorem execOneshotPulseExpiry_turns (c : ChanId) {t : State} (h : execOneshotPulseExpiry c s = .next t) : Turns s t := by
  cases h
  refine (s.modChan_other _ _ fun x => ?_).turns
  unfold Channel.endPulse
  split <;> simp_all

theorem execDrainTimerExpiry_turns (u : UnitId) {t : State} (h : execDrainTimerExpiry u s = .next t) : Turns s t := by
  cases h
  split
  · exact s.drainExpired_turns _
  · exact .refl

theorem execPageWriteEnd_turns {t : State} (h : execPageWriteEnd s = .next t) : Turns s t := by
  cases h
  split
  · exact (s.modPfl_other _).turns
  · exact .refl

theorem execStartUpBegin_turns {t : State} (h : execStartUpBegin s = .next t) : Turns s t := by
  cases h
  split
  · exact turns_of rfl rfl rfl rfl rfl rfl
  · exact .refl

theorem execFetch_turns (m : Master) (n : Nat) {t : State} (h : execFetch m n s = .next t) : Turns s t := by
  cases h
  split
  · exact .refl
  · exact (s.modPort_other _ _ (by simp [Port.fetch_queue])).turns

theorem execRequestTransactionEnd_turns (m : Master) (b : List Byte) {t : State} (h : execRequestTransactionEnd m b s = .next t) : Turns s t := by
  cases h
  exact (s.modPort_other _ _ (by simp [Port.transact_queue])).turns

/-- A command that begins a state of its own: the two resets, and the load with its set-up. -/
def begins (i : Instr) : Prop := i = .powerOnReset ∨ i = .warmReset ∨ ∃ a, i = .profileLoadComplete a

/-- Every other command is a run of turns. -/
theorem exec_plain_turns (i : Instr) (hi : ¬begins i) {t : State} (h : exec i s = .next t) : Turns s t := by
  cases i <;> simp only [exec] at h
  case powerOnReset => simp [begins] at hi
  case warmReset => simp [begins] at hi
  case profileLoadComplete => simp [begins] at hi
  case badFrame => cases h; exact s.badFrame_turns _ _
  case unknownRequest => cases h; exact s.takeRequest_turns _ _ _ fun _ => .refl
  case status => cases h; exact s.takeRequest_turns _ _ _ fun e => ownStatus_turns e _
  case portReset => cases h; exact s.takeRequest_turns _ _ _ fun e => ownPortReset_turns e _
  case readEvent => cases h; exact s.takeRequest_turns _ _ _ fun e => ownReadEvent_turns e _
  case setPoint => cases h; exact s.takeRequest_turns _ _ _ fun e => ownSetPoint_turns e _ _ _
  case force => cases h; exact s.takeRequest_turns _ _ _ fun e => ownForce_turns e _ _ _ _
  case unforce => cases h; exact s.takeRequest_turns _ _ _ fun e => ownUnforce_turns e _ _
  case readChannel =>
    cases h
    exact s.takeRequest_turns _ _ _ fun e => e.index_turns _ _ fun c => e.needReader_turns _ _ _ .refl
  case readInput => cases h; exact s.takeRequest_turns _ _ _ fun e => e.index_turns _ _ fun c => .refl
  case claim => cases h; exact s.takeRequest_turns _ _ _ fun e => ownClaim_turns e _ _
  case releaseCh => cases h; exact s.takeRequest_turns _ _ _ fun e => ownReleaseCh_turns e _ _
  case offer => cases h; exact s.takeRequest_turns _ _ _ fun e => ownOffer_turns e _ _ _
  case accept => cases h; exact s.takeRequest_turns _ _ _ fun e => ownAccept_turns e _ _
  case lock => cases h; exact s.takeRequest_turns _ _ _ fun e => ownLock_turns e _ _
  case readMap =>
    cases h
    exact s.takeRequest_turns _ _ _ fun e => e.index_turns _ _ fun c => e.needReader_turns _ _ _ .refl
  case setNext => cases h; exact s.takeRequest_turns _ _ _ fun e => ownSetNext_turns e _ _ _
  case go => cases h; exact s.takeRequest_turns _ _ _ fun e => ownGo_turns e _ _
  case readUnit =>
    cases h
    exact s.takeRequest_turns _ _ _ fun e => e.index_turns _ _ fun c => e.needReader_turns _ _ _ .refl
  case releaseTrip => cases h; exact s.takeRequest_turns _ _ _ fun e => ownReleaseTrip_turns e _ _
  case ack => cases h; exact s.takeRequest_turns _ _ _ fun e => ownAck_turns e _ _
  case readLog => cases h; exact s.takeRequest_turns _ _ _ fun e => e.index_turns _ _ fun c => .refl
  case setLab => cases h; exact s.takeRequest_turns _ _ _ fun e => ownSetLab_turns e _ _ _
  case readScale => cases h; exact s.takeRequest_turns _ _ _ fun e => e.index_turns _ _ fun c => .refl
  case readMeter => cases h; exact s.takeRequest_turns _ _ _ fun e => ownReadMeter_turns e
  case profileRead => cases h; exact s.takeRequest_turns _ _ _ fun e => ownProfileRead_turns e _
  case profileWrite => cases h; exact s.takeRequest_turns _ _ _ fun e => ownProfileWrite_turns e _ _
  case profileCheck => cases h; exact s.takeRequest_turns _ _ _ fun e => ownProfileCheck_turns e
  case silenceTimerExpiry => exact execSilenceTimerExpiry_turns s _ h
  case offerExpiry => exact execOfferExpiry_turns s _ h
  case rampTick => exact execRampTick_turns s h
  case diSample => exact execDiSample_turns s _ h
  case scanStart => exact execScanStart_turns s h
  case conversionEnd => exact execConversionEnd_turns s _ h
  case pulseActiveEdge => exact execPulseActiveEdge_turns s _ h
  case signalTimeout => exact execSignalTimeout_turns s _ h
  case periodCounterOverflow => exact execPeriodCounterOverflow_turns s _ h
  case highPhaseEnd => exact execHighPhaseEnd_turns s _ h
  case periodBoundary => exact execPeriodBoundary_turns s _ h
  case oneshotDelayExpiry => exact execOneshotDelayExpiry_turns s _ h
  case oneshotPulseExpiry => exact execOneshotPulseExpiry_turns s _ h
  case drainTimerExpiry => exact execDrainTimerExpiry_turns s _ h
  case pageWriteEnd => exact execPageWriteEnd_turns s h
  case startUpBegin => exact execStartUpBegin_turns s h
  case fetch => exact execFetch_turns s _ _ h
  case requestTransactionEnd => exact execRequestTransactionEnd_turns s _ _ h

/-- What a command leaves is the run of the state before it, or of a fresh state. -/
theorem exec_turns (i : Instr) {t : State} (h : exec i s = .next t) : Turns s t ∨ ∃ r, Fresh s r ∧ Turns r t := by
  by_cases hi : begins i
  · rcases hi with rfl | rfl | ⟨a, rfl⟩
    · cases h; exact .inr ⟨_, .powerOn, .refl⟩
    · cases h; exact .inr ⟨_, .warm, .refl⟩
    · simp only [exec, execProfileLoadComplete] at h
      cases h
      split
      · exact .inr ⟨_, .setUp a, State.startUp_turns _ _⟩
      · exact .inl .refl
  · exact .inl (exec_plain_turns s i hi h)

/-! ### Steps -/

/-- No command stops. -/
theorem exec_next (i : Instr) : ∃ t, exec i s = .next t := by
  cases i <;> exact ⟨_, rfl⟩

theorem Channel.clock_spec (ch : Channel) : ch.clock.params = ch.params ∧ ch.clock.base = ch.base ∧
    ch.clock.stack = ch.stack ∧ ch.clock.target = ch.target ∧ ch.clock.applied = ch.applied ∧
    ch.clock.oneShot = ch.oneShot := by
  unfold Channel.clock
  split <;> exact ⟨rfl, rfl, rfl, rfl, rfl, rfl⟩

/-- R38, R40: a tick moves the two counters of a pulse input and nothing else. -/
theorem Pulse.clock_spec (p : Pulse) :
    p.clock = { p with count := p.clock.count, sub := p.clock.sub, timer := p.clock.timer, timerSub := p.clock.timerSub } := by
  unfold Pulse.clock Pulse.clockTimer Pulse.clockPeriod
  split <;> split <;> (try split) <;> rfl

theorem State.tickCounters_turns : Turns s { s with
    tick := s.tick + 1, ch := vec16 fun c => s.ch[c].clock, pi := vec12 fun j => s.pi[j].clock } := by
  refine Other.turns ⟨fun m => id, fun c => ?_, fun u => ⟨rfl, rfl, rfl⟩, rfl, fun c => by cases c <;> rfl,
    fun k => State.guard_of_swu rfl k⟩
  have h := (s.ch[c]).clock_spec
  simp only [State.chan, vec16_get]
  exact ⟨h.1, h.2.1, h.2.2.1, h.2.2.2.1, h.2.2.2.2.1, by rw [h.2.2.2.2.2]⟩

theorem State.millisecond_turns : Turns s s.millisecond := by
  unfold State.millisecond
  refine Other.turns ⟨fun m => ?_, fun c => ?_, fun u => ?_, rfl, fun c => ?_, fun k => State.guard_of_swu rfl k⟩
  · simp [State.port]
  · simp [State.chan]
  · simp [State.unit]
  · cases c <;> simp [State.classOf, State.analog]

theorem State.clock_turns : Turns s s.clock := by
  unfold State.clock
  dsimp only
  split
  · exact s.tickCounters_turns.trans (State.millisecond_turns _)
  · exact s.tickCounters_turns

/-- A property that each turn keeps, and that carries over to a fresh state, is kept by every command. -/
theorem exec_keep {P : State → Prop} (hT : ∀ s t, Turn s t → P s → P t) (hF : ∀ s r, Fresh s r → P s → P r) {i : Instr}
    {s t : State} (h : exec i s = .next t) (hs : P s) : P t := by
  rcases exec_turns s i h with h | ⟨r, hr, h⟩
  · exact h.keep hT hs
  · exact h.keep hT (hF s r hr hs)

/-- The arrivals that a tick makes due are all taken, one after the other. -/
theorem State.fireAll_keep {P : State → Prop} (hT : ∀ s t, Turn s t → P s → P t) (hF : ∀ s r, Fresh s r → P s → P r) {s : State}
    (hs : P s) : ∃ t, s.fireAll = .next t ∧ P t := by
  have key (l : List Instr) (t : State) (ht : P t) : ∃ r, l.foldl fireDue (.next t) = .next r ∧ P r := by
    induction l generalizing t with
    | nil => exact ⟨t, rfl, ht⟩
    | cons i l ih =>
      rw [List.foldl_cons]
      unfold fireDue
      dsimp only
      split
      · obtain ⟨r, hr⟩ := exec_next t i
        rw [hr]
        exact ih r (exec_keep hT hF hr ht)
      · exact ih t ht
  unfold State.fireAll
  have h0 : Turns s { s with draws := s.draws + 1 } := turns_of rfl rfl rfl rfl rfl rfl
  exact key _ _ (h0.keep hT hs)

/-- A property that each turn keeps, and that carries over to a fresh state, is kept by every step. -/
theorem step_keep {P : State → Prop} (hT : ∀ s t, Turn s t → P s → P t) (hF : ∀ s r, Fresh s r → P s → P r) {s t : State}
    (h : step s = .next t) (hs : P s) : P t := by
  unfold step at h
  split at h
  · next i rest _ =>
    have h0 : Turns s { s with pending := rest } := turns_of rfl rfl rfl rfl rfl rfl
    exact exec_keep hT hF h (h0.keep hT hs)
  · unfold State.idle at h
    split at h
    · unfold State.runTick at h
      split at h
      · cases h
        exact hs
      · obtain ⟨r, hr, hp⟩ := State.fireAll_keep hT hF (s.clock_turns.keep hT hs)
        cases hr.symm.trans h
        exact hp
    · exact exec_keep hT hF h hs

/-! ### Steps without a beginning -/

theorem due_plain {i : Instr} (h : s.due i = true) : ¬begins i := by
  rintro (rfl | rfl | ⟨a, rfl⟩) <;> cases h

theorem requestOf_plain (m : Master) (code tag : Byte) (p : List Byte) : ∀ i ∈ requestOf m code tag p, ¬begins i := by
  unfold requestOf
  generalize code.toNat = n
  split <;> first
    | simp [begins]; done
    | (simp only [payload0, payload1, payload2, payload3, payload4, payload5, payloadPage]
       split <;> simp [begins])

theorem decodeFrame_plain (m : Master) (f : List Byte) : ¬begins (decodeFrame m f) := by
  unfold decodeFrame
  dsimp only
  split
  · simp [begins]
  · split
    · simp [begins]
    · cases h : requestOf m (f.getD 0 0) (tagEcho f) ((f.drop 3).take (f.length - 5)) with
      | none => simp [begins]
      | some i => exact requestOf_plain m _ _ _ i h

/-- The arrivals that a tick makes due are a run of turns. -/
theorem State.fireAll_turns {t : State} (h : s.fireAll = .next t) : Turns s t := by
  have key (l : List Instr) (t r : State) (h : l.foldl fireDue (.next t) = .next r) : Turns t r := by
    induction l generalizing t with
    | nil => cases h; exact .refl
    | cons i l ih =>
      rw [List.foldl_cons] at h
      unfold fireDue at h
      dsimp only at h
      split at h
      · next hd =>
        obtain ⟨q, hq⟩ := exec_next t i
        rw [hq] at h
        exact (exec_plain_turns t i (due_plain t hd) hq).trans (ih q h)
      · exact ih t h
  have h0 : Turns s { s with draws := s.draws + 1 } := turns_of rfl rfl rfl rfl rfl rfl
  exact h0.trans (key _ _ _ h)

/-- A step is a run of turns, but for a reset or a load at the front of the queue. -/
theorem step_turns {t : State} (h : step s = .next t) :
    Turns s t ∨ ∃ i rest, s.pending = i :: rest ∧ begins i ∧ exec i { s with pending := rest } = .next t := by
  unfold step at h
  split at h
  · next i rest e =>
    by_cases hi : begins i
    · exact .inr ⟨i, rest, e, hi, h⟩
    · have h0 : Turns s { s with pending := rest } := turns_of rfl rfl rfl rfl rfl rfl
      exact .inl (h0.trans (exec_plain_turns _ i hi h))
  · left
    unfold State.idle at h
    split at h
    · unfold State.runTick at h
      split at h
      · cases h; exact .refl
      · exact s.clock_turns.trans (State.fireAll_turns _ h)
    · exact exec_plain_turns s _ (decodeFrame_plain _ _) h

end Sys2Proof.Machine
end

