-- ==== Sys2Proof/Laws/Stacks.lean ====
section
/-! SUPPORT. The override stack: what a push, a removal, a fold and the push of a trip list give (R16, R17, R19, R20, R97). -/

namespace Sys2Proof.Machine

/-- A stack in its form has no TRIP entry, or one on top. -/
theorem StackOk.shape {l : List Entry} (h : StackOk l) :
    (∀ e ∈ l, e.source ≠ .trip) ∨ ∃ a t, l = a ++ [t] ∧ t.source = .trip ∧ t.kind = .value ∧ ∀ e ∈ a, e.source ≠ .trip := by
  rcases List.eq_nil_or_concat l with rfl | ⟨a, t, rfl⟩
  · simp
  · simp only [List.concat_eq_append] at h ⊢
    have ha : ∀ e ∈ a, e.source ≠ .trip := by simpa using h.2.2.1
    by_cases ht : t.source = .trip
    · exact .inr ⟨a, t, rfl, ht, h.2.2.2 t (by simp) ht, ha⟩
    · left
      simp only [List.mem_append, List.mem_singleton]
      rintro e (he | rfl)
      · exact ha e he
      · exact ht

theorem hasSource_iff (x : Source) (l : List Entry) : hasSource x l = true ↔ x ∈ l.map (·.source) := by
  simp [hasSource]

theorem hasSource_false (x : Source) (l : List Entry) : hasSource x l = false ↔ ∀ e ∈ l, e.source ≠ x := by
  simp [hasSource]

theorem replaceEntry_sources (e : Entry) (l : List Entry) :
    (replaceEntry e l).map (·.source) = l.map (·.source) := by
  simp only [replaceEntry, List.map_map, List.map_inj_left, Function.comp]
  intro x _
  split <;> simp_all

theorem insertBelowTrip_none (e : Entry) (l : List Entry) (h : ∀ x ∈ l, x.source ≠ .trip) :
    insertBelowTrip e l = l ++ [e] := by
  induction l with
  | nil => rfl
  | cons x l ih =>
    simp only [List.mem_cons, forall_eq_or_imp] at h
    rw [insertBelowTrip, if_neg h.1, ih h.2, List.cons_append]

theorem insertBelowTrip_trip (e t : Entry) (l : List Entry) (h : ∀ x ∈ l, x.source ≠ .trip) (ht : t.source = .trip) :
    insertBelowTrip e (l ++ [t]) = l ++ [e, t] := by
  induction l with
  | nil => simp [insertBelowTrip, ht]
  | cons x l ih =>
    simp only [List.mem_cons, forall_eq_or_imp] at h
    rw [List.cons_append, insertBelowTrip, if_neg h.1, ih h.2, List.cons_append]

theorem StackOk.tail {l : List Entry} (h : StackOk l) : StackOk l.tail := by
  cases l with
  | nil => exact h
  | cons x l =>
    obtain ⟨h1, h2, h3, h4⟩ := h
    refine ⟨by simp at h1 ⊢; omega, by simp at h2 ⊢; exact h2.2, fun e he => h3 e ?_, fun e he => h4 e (by simp_all)⟩
    cases l with
    | nil => simp at he
    | cons y l => simp_all

theorem StackOk.insert {e : Entry} {l : List Entry} (h : StackOk l) (hl : l.length < 4) (hn : hasSource e.source l = false)
    (hk : e.source = .trip → e.kind = .value) : StackOk (insertEntry e l) := by
  rw [hasSource_false] at hn
  have hn' : e.source ∉ l.map (·.source) := by simpa using hn
  unfold insertEntry
  split
  · next ht =>
    refine ⟨by simp; omega, ?_, ?_, ?_⟩
    · rw [List.map_append, List.nodup_append]
      exact ⟨h.2.1, by simp, by simpa using hn⟩
    · simpa [ht] using fun x hx => ht ▸ hn x hx
    · simp only [List.mem_append, List.mem_singleton]
      rintro x (hx | rfl)
      · exact h.2.2.2 x hx
      · exact hk
  · next ht =>
    rcases h.shape with hs | ⟨a, t, rfl, htt, htk, ha⟩
    · rw [insertBelowTrip_none e l hs]
      refine ⟨by simp; omega, ?_, ?_, ?_⟩
      · rw [List.map_append, List.nodup_append]
        exact ⟨h.2.1, by simp, by simpa using hn⟩
      · simpa using hs
      · simp only [List.mem_append, List.mem_singleton]
        rintro x (hx | rfl)
        · exact h.2.2.2 x hx
        · exact hk
    · rw [insertBelowTrip_trip e t a ha htt]
      have hd := h.2.1
      simp only [List.map_append, List.map_cons, List.map_nil, List.nodup_append] at hd
      refine ⟨by simp at hl ⊢; omega, ?_, ?_, ?_⟩
      · simp only [List.map_append, List.map_cons, List.map_nil, List.nodup_append, List.mem_map, List.mem_cons]
        refine ⟨hd.1, by simpa [htt] using ht, ?_⟩
        rintro x ⟨y, hy, rfl⟩ z (rfl | rfl | h0)
        · exact hn y (by simp [hy])
        · rw [htt]
          exact ha y hy
        · simp at h0
      · intro x hx
        rw [List.dropLast_append_of_ne_nil (by simp)] at hx
        simp only [List.dropLast_cons_cons, List.dropLast_singleton, List.mem_append, List.mem_singleton] at hx
        rcases hx with hx | rfl
        · exact ha x hx
        · exact ht
      · simp only [List.mem_append, List.mem_cons, List.not_mem_nil, or_false]
        rintro x (hx | rfl | rfl)
        · exact fun a' => absurd a' (ha x hx)
        · exact hk
        · exact fun _ => htk

/-- R16, R17: a push keeps the form. -/
theorem StackOk.push {e : Entry} {l : List Entry} (h : StackOk l) (hk : e.source = .trip → e.kind = .value) :
    StackOk (pushEntry e l) := by
  unfold pushEntry
  split
  · refine ⟨by simpa [replaceEntry] using h.1, by rw [replaceEntry_sources]; exact h.2.1, ?_, ?_⟩
    · intro x hx
      have hx' : x ∈ replaceEntry e l.dropLast := by
        simpa [replaceEntry, List.map_dropLast] using hx
      simp only [replaceEntry, List.mem_map] at hx'
      obtain ⟨y, hy, rfl⟩ := hx'
      have := h.2.2.1 y hy
      split
      · next e1 => rw [← e1]; exact this
      · exact this
    · intro x hx
      simp only [replaceEntry, List.mem_map] at hx
      obtain ⟨y, hy, rfl⟩ := hx
      split
      · exact hk
      · exact h.2.2.2 y hy
  · next hn =>
    simp only [Bool.not_eq_true] at hn
    split
    · next hl =>
      refine h.tail.insert ?_ ?_ hk
      · have := h.1
        simp only [List.length_tail]
        omega
      · rw [hasSource_false] at hn ⊢
        exact fun x hx => hn x (List.mem_of_mem_tail hx)
    · next hl => exact h.insert (by simpa [stackSize] using hl) hn hk

/-- R19: a removal keeps the form. -/
theorem StackOk.filter {l : List Entry} (h : StackOk l) (p : Entry → Bool) : StackOk (l.filter p) := by
  refine ⟨(List.length_filter_le _ _).trans h.1, (h.2.1.sublist (List.Sublist.map _ List.filter_sublist)), ?_,
    fun e he => h.2.2.2 e (List.mem_of_mem_filter he)⟩
  rcases List.eq_nil_or_concat l with rfl | ⟨a, t, rfl⟩
  · simp
  · simp only [List.concat_eq_append, List.filter_append] at h ⊢
    have ha : ∀ e ∈ a, e.source ≠ .trip := by simpa using h.2.2.1
    intro e he
    cases hp : p t
    · simp only [List.filter_cons, hp, List.filter_nil, Bool.false_eq_true, if_false, List.append_nil] at he
      exact ha e (List.mem_of_mem_filter (List.mem_of_mem_dropLast he))
    · simp only [List.filter_cons, hp, List.filter_nil, if_true, List.dropLast_concat] at he
      exact ha e (List.mem_of_mem_filter he)

/-- What a push holds: the entry, and entries that were there. -/
theorem mem_pushEntry {e x : Entry} {l : List Entry} (h : x ∈ pushEntry e l) : x = e ∨ x ∈ l := by
  have hi (l : List Entry) (h : x ∈ insertBelowTrip e l) : x = e ∨ x ∈ l := by
    induction l with
    | nil => simpa [insertBelowTrip] using h
    | cons y l ih =>
      unfold insertBelowTrip at h
      split at h
      · simpa using h
      · rcases List.mem_cons.mp h with rfl | h
        · simp
        · rcases ih h with h | h <;> simp [h]
  have hin (l : List Entry) (h : x ∈ insertEntry e l) : x = e ∨ x ∈ l := by
    unfold insertEntry at h
    split at h
    · rcases List.mem_append.mp h with h | h
      · exact .inr h
      · exact .inl (by simpa using h)
    · exact hi l h
  unfold pushEntry at h
  split at h
  · simp only [replaceEntry, List.mem_map] at h
    obtain ⟨y, hy, rfl⟩ := h
    split
    · exact .inl rfl
    · exact .inr hy
  · split at h
    · exact (hin _ h).imp_right List.mem_of_mem_tail
    · exact hin _ h

/-- R20: a TRIP entry on top decides alone. -/
theorem foldStack_trip (b : Bool) (v : Nat) (a : List Entry) (t : Entry) (ht : t.source = .trip) (hk : t.kind = .value) :
    foldStack b v (a ++ [t]) = t.value := by
  simp [foldStack, List.foldl_append, ht, Entry.apply, hk]

theorem StackOk.fold_trip {l : List Entry} (h : StackOk l) {e : Entry} (he : e ∈ l) (ht : e.source = .trip) (b : Bool)
    (v : Nat) : foldStack b v l = e.value := by
  rcases h.shape with hs | ⟨a, t, rfl, htt, hk, ha⟩
  · exact absurd ht (hs e he)
  · rcases List.mem_append.mp he with h1 | h1
    · exact absurd ht (ha e h1)
    · rw [List.mem_singleton.mp h1]
      exact foldStack_trip b v a t htt hk

theorem mem_insertEntry {e x : Entry} {l : List Entry} (h : x ∈ l ∨ x = e) : x ∈ insertEntry e l := by
  have hi (l : List Entry) (h : x ∈ l ∨ x = e) : x ∈ insertBelowTrip e l := by
    induction l with
    | nil => simpa [insertBelowTrip] using h
    | cons y l ih =>
      unfold insertBelowTrip
      split
      · simpa [or_comm] using h
      · rw [List.mem_cons, or_assoc] at h
        exact List.mem_cons.mpr (h.imp_right ih)
  unfold insertEntry
  split
  · simpa using h
  · exact hi l h

/-- R16: the pushed entry stands in the stack. -/
theorem mem_pushEntry_self (e : Entry) (l : List Entry) : e ∈ pushEntry e l := by
  unfold pushEntry
  split
  · next h =>
    simp only [hasSource, List.any_eq_true, decide_eq_true_eq] at h
    obtain ⟨x, hx, he⟩ := h
    exact List.mem_map.mpr ⟨x, hx, if_pos he⟩
  · split <;> exact mem_insertEntry (.inr rfl)

/-- R16, R17: a push of another identity keeps a TRIP entry, which stands on top and is not discarded. -/
theorem StackOk.push_keeps_trip {e x : Entry} {l : List Entry} (h : StackOk l) (hx : x ∈ l) (ht : x.source = .trip)
    (he : e.source ≠ .trip) : x ∈ pushEntry e l := by
  unfold pushEntry
  split
  · exact List.mem_map.mpr ⟨x, hx, if_neg (by rw [ht]; exact he.symm)⟩
  · split
    · next hl =>
      refine mem_insertEntry (.inl ?_)
      cases l with
      | nil => simp at hx
      | cons y l =>
        rcases List.mem_cons.mp hx with rfl | hx
        · cases l with
          | nil => simp [stackSize] at hl
          | cons z l => exact absurd ht (h.2.2.1 _ (by simp))
        · exact hx
    · exact mem_insertEntry (.inl hx)

variable (s : State)

/-- R17, R18: a push changes the stack of its channel alone, whatever it discards. -/
theorem State.pushRaw_stack (c d : ChanId) (e : Entry) :
    ((s.pushRaw c e).chan d).stack = if d = c then pushEntry e (s.chan c).stack else (s.chan d).stack := by
  have hlevel (t : State) (g : Group) : (t.relevel g).ch = t.ch := by
    unfold State.relevel State.setLevel
    dsimp only
    split_ifs <;> rfl
  have hmom (t : State) (g : Group) (x : Cause) : (t.momentary g x).ch = t.ch := by
    unfold State.momentary State.recordWith
    rw [hlevel]
    dsimp only
    split <;> rfl
  have hlose (t : State) (k : GuardId) : (t.loseGuard k).ch = t.ch := by
    unfold State.loseGuard State.tellGuard
    dsimp only
    split_ifs <;> cases k <;> rfl
  have hd (x : Entry) : (s.discarded c x).ch = s.ch := by
    unfold State.discarded
    dsimp only
    split
    · rw [hmom]
      split
      · exact hlose s _
      · rfl
    · rfl
  unfold State.pushRaw
  cases discardedBy e (s.chan c).stack with
  | none => rw [State.chan_modChan]; split <;> rfl
  | some x => rw [State.chan_modChan]; split <;> simp only [State.chan, hd]

theorem State.pushTrip_stack (c d : ChanId) (v : Nat) : ((s.pushTrip c v).chan d).stack =
    if d = c then pushEntry ⟨.trip, .value, v, s.ms⟩ (s.chan c).stack else (s.chan d).stack := by
  unfold State.pushTrip
  rw [State.chan_modChan]
  have h := s.pushRaw_stack c d ⟨.trip, .value, v, s.ms⟩
  split
  · next e => subst e; rw [(Channel.tripJump_spec _ _).2.2.1, h, if_pos rfl]
  · next e => rw [h, if_neg e]

/-- R97 step 2: a trip list that names no channel twice leaves each of its channels with the listed TRIP entry, and the
stacks of the others as they were. -/
theorem State.pushTripList_stack (g : Group) (hl : ((s.group g).tripList.map (·.channel)).Nodup) :
    (∀ x ∈ (s.group g).tripList, ((s.pushTripList g).chan x.channel).stack =
      pushEntry ⟨.trip, .value, x.value, s.ms⟩ (s.chan x.channel).stack) ∧
    ∀ d, (∀ x ∈ (s.group g).tripList, x.channel ≠ d) → ((s.pushTripList g).chan d).stack = (s.chan d).stack := by
  unfold State.pushTripList
  generalize (s.group g).tripList = l at hl
  induction l generalizing s with
  | nil => exact ⟨by simp, fun _ _ => rfl⟩
  | cons y l ih =>
    simp only [List.map_cons, List.nodup_cons] at hl
    rw [State.each_cons]
    have hm : (s.pushTrip y.channel y.value).ms = s.ms := (Prim.pushTrip y.channel y.value).raws.same.ms
    have h := ih (s.pushTrip y.channel y.value) hl.2
    refine ⟨fun x hx => ?_, fun d hd => ?_⟩
    · rcases List.mem_cons.mp hx with rfl | hx
      · rw [h.2 _ fun z hz a => hl.1 (List.mem_map.mpr ⟨z, hz, a⟩), s.pushTrip_stack, if_pos rfl]
      · rw [h.1 x hx, hm, s.pushTrip_stack, if_neg fun a => hl.1 (List.mem_map.mpr ⟨x, hx, a⟩)]
    · rw [h.2 d fun z hz => hd z (.tail _ hz), s.pushTrip_stack, if_neg (hd y (.head _)).symm]

end Sys2Proof.Machine
end

