-- ==== Sys2Proof/Laws/Settled.lean ====
section
/-! SUPPORT. What a recomputed fold can set off, said once: a one-shot may be armed or ended (R8 to R10), a phase of the
channel's unit may end (R73, R76), and with it a GO (R78); and what that leaves as it was. Removals, pushes and set points are
read through it. -/

namespace Sys2Proof.Machine

variable {e s t r : State} {u : UnitId} {T : ChanId → Prop}

/-! ### Records told -/

/-- R165: a port that is sent a record holds it, or has lost one. -/
theorem Port.append_told (p : Port) (e : Event) : (p.append e).Told e := by
  unfold Port.append Port.Told
  split
  · left; simp
  · right; rfl

theorem Port.Told.append {p : Port} {x : Event} (h : p.Told x) (e : Event) : (p.append e).Told x := by
  unfold Port.append Port.Told at *
  split
  · exact h.imp_left fun h => by simp [h]
  · exact .inr rfl

/-- R166: each receiver of a queued record is told. -/
theorem State.queue_told (s : State) (who : Master → Bool) (b : EventBody) (m : Master) (h : who m = true) :
    ((s.queue who b).port m).Told ⟨s.ms, b⟩ := by
  rw [State.port_queue, if_pos h]
  exact Port.append_told _ _

/-- What a reaction tells stays told. -/
theorem State.queue_keeps_told (s : State) (who : Master → Bool) (b : EventBody) (m : Master) {x : Event}
    (h : (s.port m).Told x) : ((s.queue who b).port m).Told x := by
  rw [State.port_queue]
  split
  · exact h.append _
  · exact h

/-! ### Within one unit -/

/-- All that differs lies in a unit, its channels' values, the busy flags and appended records. -/
structure Within (e t : State) (u : UnitId) : Prop where
  swu : t.swu = e.swu
  tsm : t.tsm = e.tsm
  unit : ∀ v, v ≠ u → t.unit v = e.unit v
  group : ∀ g, t.group g = { e.group g with busy := (t.group g).busy }
  chan : ∀ c, unitOf c ≠ u → t.chan c = e.chan c
  stack : ∀ c, (t.chan c).stack = (e.chan c).stack
  queue : ∀ m, (e.port m).queue <+: (t.port m).queue

theorem Within.refl (e : State) (u : UnitId) : Within e e u :=
  ⟨rfl, rfl, fun _ _ => rfl, fun _ => rfl, fun _ _ => rfl, fun _ => rfl, fun _ => List.prefix_refl _⟩

theorem Port.append_queue_extends (p : Port) (x : Event) : p.queue <+: (p.append x).queue := by
  unfold Port.append
  split
  · exact List.prefix_append _ _
  · exact List.prefix_refl _

theorem Within.queued (h : Within e t u) (who : Master → Bool) (b : EventBody) : Within e (t.queue who b) u :=
  ⟨h.swu, h.tsm, h.unit, h.group, h.chan, h.stack, fun m => by
    rw [State.port_queue]
    split
    · exact (h.queue m).trans (Port.append_queue_extends _ _)
    · exact h.queue m⟩

theorem Within.noted (h : Within e t u) (f : UnitRec → UnitRec) : Within e (t.modUnit u f) u :=
  { h with unit := fun v hv => by rw [State.unit_modUnit, if_neg hv]; exact h.unit v hv }

theorem Within.busied (h : Within e t u) (g : Group) : Within e (t.modGroup g fun x => { x with busy := false }) u :=
  ⟨h.swu, h.tsm, h.unit, fun k => by
    rw [State.group_modGroup]
    split
    · next hk => subst hk; rw [h.group k]
    · exact h.group k, h.chan, h.stack, h.queue⟩

theorem Within.refolded (h : Within e t u) (c : ChanId) (hc : unitOf c = u) : Within e (t.refold c) u := by
  rw [State.refold_eq]
  refine { h with chan := fun d hd => ?_, stack := fun d => ?_ }
  · rw [State.chan_modChan, if_neg (by rintro rfl; exact hd hc)]
    exact h.chan d hd
  · rw [State.chan_modChan]
    split
    · next a => subst a; rw [(Channel.retarget_spec _ _ _).2.2.1]; exact h.stack d
    · exact h.stack d

theorem unitOf_of_mem {c : ChanId} {u : UnitId} (h : c ∈ unitChannels u) : unitOf c = u := by
  revert u c; decide

theorem mem_unitChannels (c : ChanId) : c ∈ unitChannels (unitOf c) := by revert c; decide

theorem Within.refoldedUnit (h : Within e t u) : Within e (t.refoldUnit u) u :=
  State.each_induct (P := fun t => Within e t u) _ _ (fun c hc _ ht => ht.refolded c (unitOf_of_mem hc)) t h

theorem Within.stepped (h : Within e t u) (st : UState) (r : StateReason) : Within e (t.stepTo u st r) u := by
  unfold State.stepTo State.queueUnitState State.queueUnit State.queueReaders
  exact (h.noted _).refoldedUnit.queued _ _

theorem Within.cleared (h : Within e t u) : Within e (t.clearPath u) u := by
  unfold State.clearPath State.pathEnd State.queueAll
  split
  · exact ((h.noted _).busied _).queued _ _
  · exact h.noted _

theorem Within.endedStarting (h : Within e t u) : Within e (t.endStarting u) u := by
  unfold State.endStarting
  dsimp only
  split
  · exact ((h.stepped _ _).stepped _ _).cleared
  · exact (h.stepped _ _).cleared

theorem Within.endedDrain (h : Within e t u) (r : StateReason) : Within e (t.endDrain u r id) u := by
  unfold State.endDrain
  dsimp only [id]
  split
  · exact (((h.noted _).stepped _ _).stepped _ _).cleared
  · exact ((h.noted _).stepped _ _).cleared

theorem State.testUnit_within (s : State) (u : UnitId) : Within s (s.testUnit u) u := by
  unfold State.testUnit
  have h := Within.refl s u
  split
  · exact h
  · split
    · exact h.endedStarting
    · exact h
  · split
    · exact h.endedDrain _
    · exact h
  · split
    · exact h.endedDrain _
    · exact h

theorem State.testUnit_none (s : State) (u : UnitId) (h : (s.unit u).phase = .none) : s.testUnit u = s := by
  unfold State.testUnit
  rw [h]

/-! ### Targets of a unit -/

/-- The target of a channel is its fold. -/
def State.Folded (s : State) (c : ChanId) : Prop := (s.chan c).target = (s.chan c).fold (s.unit (unitOf c)).foldsFromBase

theorem Channel.fold_congr {a b : Channel} (hp : a.params = b.params) (hb : a.base = b.base) (hs : a.stack = b.stack)
    (k : Bool) : a.fold k = b.fold k := by
  simp only [Channel.fold, hp, hb, hs]

theorem State.refold_folded (s : State) (c : ChanId) : (s.refold c).Folded c := by
  unfold State.Folded
  rw [State.refold_eq, State.chan_modChan, if_pos rfl, State.modChan_unit]
  have h := Channel.retarget_spec (s.chan c) (s.unit (unitOf c)).atRest ((s.chan c).fold (s.unit (unitOf c)).foldsFromBase)
  rw [h.2.2.2]
  exact Channel.fold_congr h.1.symm h.2.1.symm h.2.2.1.symm _

theorem State.refold_keepsFolded (s : State) (c d : ChanId) (h : s.Folded d) : (s.refold c).Folded d := by
  by_cases hd : d = c
  · subst hd; exact s.refold_folded d
  · unfold State.Folded
    rw [State.refold_eq, State.chan_modChan, if_neg hd]
    exact h

theorem State.refoldUnit_folded (s : State) (c : ChanId) : (s.refoldUnit (unitOf c)).Folded c := by
  unfold State.refoldUnit
  have key : ∀ (l : List ChanId) (s : State), (c ∈ l ∨ s.Folded c) → (s.each l fun c s => s.refold c).Folded c := by
    intro l
    induction l with
    | nil => intro s h; simpa using h
    | cons x l ih =>
      intro s h
      rw [State.each_cons]
      apply ih
      rcases h with h | h
      · rcases List.mem_cons.1 h with rfl | h
        · exact .inr (s.refold_folded _)
        · exact .inl h
      · exact .inr (s.refold_keepsFolded x c h)
  exact key _ s (.inl (mem_unitChannels c))

theorem State.stepTo_folded (s : State) (c : ChanId) (st : UState) (r : StateReason) : (s.stepTo (unitOf c) st r).Folded c :=
  State.refoldUnit_folded (s.modUnit (unitOf c) fun x => { x with state := st, phase := .none }) c

theorem State.clearPath_folded (s : State) (c : ChanId) (h : s.Folded c) (u : UnitId) : (s.clearPath u).Folded c := by
  have h1 : (s.modUnit u fun x => { x with dest := none, timer := none }).Folded c := by
    unfold State.Folded at h ⊢
    rw [State.unit_modUnit]
    split
    · next a => rw [← a]; exact h
    · exact h
  unfold State.clearPath State.pathEnd
  split
  · exact h1
  · exact h1

theorem State.testUnit_folded (s : State) (c : ChanId) (h : s.Folded c) : (s.testUnit (unitOf c)).Folded c := by
  unfold State.testUnit State.endStarting State.endDrain
  dsimp only [id]
  split <;> (try split_ifs) <;>
    first
    | exact h
    | exact State.clearPath_folded _ c (State.stepTo_folded _ c _ _) _

/-! ### One-shots -/

/-- R8 to R10: a ONESHOT channel takes a recomputed target. -/
theorem Channel.retarget_takes (ch : Channel) (a : Bool) (t : Nat) (hm : ch.params.mode = .oneshot) :
    OneShotTakes ch (ch.retarget a t) := by
  unfold Channel.retarget Channel.oneShotTarget Channel.arm Channel.startPulse
  dsimp only
  rw [if_pos hm]
  split_ifs <;> constructor <;> intros <;> first
    | omega
    | simp_all

/-- A ONESHOT channel whose target is its fold stays in a recomputation. -/
theorem State.refold_still (s : State) (c d : ChanId) (hm : (s.chan c).params.mode = .oneshot) (h : s.Folded c) :
    (s.refold d).chan c = s.chan c := by
  rw [State.refold_eq, State.chan_modChan]
  split
  · next e =>
    subst e
    unfold Channel.retarget
    rw [if_pos hm, if_pos h.symm]
  · rfl

theorem State.stepTo_still (s : State) (c : ChanId) (st : UState) (r : StateReason)
    (hm : (s.chan c).params.mode = .oneshot) (h : s.Folded c)
    (hf : ({ s.unit (unitOf c) with state := st, phase := .none } : UnitRec).foldsFromBase =
      (s.unit (unitOf c)).foldsFromBase) : (s.stepTo (unitOf c) st r).chan c = s.chan c := by
  have key := State.each_induct
    (P := fun t => t.chan c = s.chan c ∧ t.unit (unitOf c) = { s.unit (unitOf c) with state := st, phase := .none })
    (unitChannels (unitOf c)) (fun c s => s.refold c)
    (fun d _ t ht => by
      refine ⟨?_, ?_⟩
      · rw [t.refold_still c d (by rw [ht.1]; exact hm) (by unfold State.Folded; rw [ht.1, ht.2, hf]; exact h)]
        exact ht.1
      · rw [State.refold_eq, State.modChan_unit]; exact ht.2)
    (s.modUnit (unitOf c) fun x => { x with state := st, phase := .none })
    ⟨rfl, by rw [State.unit_modUnit, if_pos rfl]⟩
  unfold State.stepTo State.queueUnitState State.queueUnit State.queueReaders
  rw [State.queue_chan]
  exact key.1

theorem State.clearPath_chan (s : State) (u : UnitId) (c : ChanId) : (s.clearPath u).chan c = s.chan c := by
  unfold State.clearPath State.pathEnd State.queueAll
  split <;> rfl

/-- A ONESHOT channel whose target is its fold stays in the test of its unit. -/
theorem State.testUnit_still (s : State) (c : ChanId) (hm : (s.chan c).params.mode = .oneshot) (h : s.Folded c) :
    (s.testUnit (unitOf c)).chan c = s.chan c := by
  have two (t : State) (x y : UState) (q r : StateReason) (hc : t.chan c = s.chan c) (ht : t.Folded c)
      (hx : ({ t.unit (unitOf c) with state := x, phase := .none } : UnitRec).foldsFromBase =
        (t.unit (unitOf c)).foldsFromBase)
      (hy : ({ t.unit (unitOf c) with state := y, phase := .none } : UnitRec).foldsFromBase =
        ({ t.unit (unitOf c) with state := x, phase := .none } : UnitRec).foldsFromBase) :
      (t.stepTo (unitOf c) x q).chan c = s.chan c ∧
        ((t.stepTo (unitOf c) x q).stepTo (unitOf c) y r).chan c = s.chan c := by
    have h1 := (t.stepTo_still c x q (by rw [hc]; exact hm) ht hx).trans hc
    refine ⟨h1, (State.stepTo_still _ c y r (by rw [h1]; exact hm) (t.stepTo_folded c x q) ?_).trans h1⟩
    rw [State.stepTo_unit, if_pos rfl]
    exact hy
  unfold State.testUnit State.endStarting State.endDrain
  dsimp only [id]
  have drained (p : Phase) (hp : (s.unit (unitOf c)).phase = p) (hn : p ≠ .none) (hs : p ≠ .starting) (q r : StateReason) :
      let t := s.modUnit (unitOf c) fun x => { x with timer := none }
      (t.stepTo (unitOf c) .standby q).chan c = s.chan c ∧
        ((t.stepTo (unitOf c) .standby q).stepTo (unitOf c) .isolated r).chan c = s.chan c := by
    have hu : (s.modUnit (unitOf c) fun x => { x with timer := none }).unit (unitOf c) =
        { s.unit (unitOf c) with timer := none } := by rw [State.unit_modUnit, if_pos rfl]
    refine two _ _ _ q r rfl ?_ ?_ ?_
    · unfold State.Folded; rw [hu]; exact h
    · rw [hu]; cases p <;> simp_all [UnitRec.foldsFromBase]
    · rw [hu]; simp [UnitRec.foldsFromBase]
  split
  · rfl
  · next hp =>
    have key := two s .running .paused .go .go rfl h (by simp [UnitRec.foldsFromBase, hp]) (by simp [UnitRec.foldsFromBase])
    split_ifs <;> first
      | rfl
      | (rw [State.clearPath_chan]; first
          | exact key.1
          | exact key.2)
  · next hp =>
    have key := drained _ hp (by decide) (by decide) .drainEnd .go
    split_ifs <;> first
      | rfl
      | (rw [State.clearPath_chan]; first
          | exact key.1
          | exact key.2)
  · next hp =>
    have key := drained _ hp (by decide) (by decide) .drainEnd .go
    split_ifs <;> first
      | rfl
      | (rw [State.clearPath_chan]; first
          | exact key.1
          | exact key.2)

/-! ### The end of a GO -/

theorem mem_groupUnits (u : UnitId) : u ∈ groupUnits (unitGroup u) := by revert u; decide

/-- R78: a state with the same units, busy flags and time ends its GOs alike. -/
theorem GoEnds.of_eq (h : GoEnds t r) (hu : t.units = e.units) (hg : t.groups = e.groups) (hm : t.ms = e.ms) :
    GoEnds e r := by
  intro hb
  have hgr : ∀ g, t.group g = e.group g := fun g => by simp only [State.group, hg]
  have hun : ∀ u, t.unit u = e.unit u := fun u => by simp only [State.unit, hu]
  have hb' : t.BusyOk := fun g => by rw [hgr g]; simpa only [hun] using hb g
  obtain ⟨h1, h2⟩ := h hb'
  exact ⟨h1, fun g => by rw [← hgr g, ← hm]; exact h2 g⟩

/-- R78: a path is over. Every other unit, the groups and the time being as before, a flag falls with its GO_DONE. -/
theorem State.clearPath_go (s : State) (u : UnitId) (hu : (s.unit u).phase = .none)
    (hv : ∀ v, v ≠ u → s.unit v = e.unit v) (hp : (e.unit u).phase ≠ .none) (hg : s.groups = e.groups) (hm : s.ms = e.ms) :
    GoEnds e (s.clearPath u) := by
  intro hb
  have hgr : ∀ g, s.group g = e.group g := fun g => by simp only [State.group, hg]
  let t := s.modUnit u fun x => { x with dest := none, timer := none }
  have htu : ∀ v, (t.unit v).phase = if v = u then .none else (e.unit v).phase := fun v => by
    change ((s.modUnit u fun x => { x with dest := none, timer := none }).unit v).phase = _
    rw [State.unit_modUnit]
    split
    · next hvu => subst hvu; exact hu
    · next hvu => rw [hv v hvu]
  have htg : ∀ g, t.group g = e.group g := hgr
  have hbusy : (e.group (unitGroup u)).busy = true := (hb _).2 ⟨u, mem_groupUnits u, hp⟩
  have flight : t.pathInFlight (unitGroup u) = true ↔ ∃ v ∈ groupUnits (unitGroup u), (t.unit v).phase ≠ .none := by
    simp [State.pathInFlight]
  have other : ∀ g, g ≠ unitGroup u → ((∃ v ∈ groupUnits g, (t.unit v).phase ≠ .none) ↔
      ∃ v ∈ groupUnits g, (e.unit v).phase ≠ .none) := fun g hne => by
    have : ∀ v ∈ groupUnits g, (t.unit v).phase = (e.unit v).phase := fun v hvg => by
      rw [htu, if_neg]
      rintro rfl
      exact hne (unitGroup_of_mem hvg).symm
    constructor <;> rintro ⟨v, hvg, hne'⟩ <;> exact ⟨v, hvg, by simpa [this v hvg] using hne'⟩
  unfold State.clearPath State.pathEnd State.queueAll
  change (if (t.group (unitGroup u)).busy && !t.pathInFlight (unitGroup u) then _ else t).BusyOk ∧ _
  split
  · next hc =>
    simp only [Bool.and_eq_true, Bool.not_eq_true', htg] at hc
    have none' : ¬∃ v ∈ groupUnits (unitGroup u), (t.unit v).phase ≠ .none := by rw [← flight]; simp [hc.2]
    have hgroup : ∀ g, (((t.modGroup (unitGroup u) fun x => { x with busy := false }).queue (fun _ => true)
        (.goDone (unitGroup u) false (t.group (unitGroup u)).started)).group g).busy =
        if g = unitGroup u then false else (e.group g).busy := fun g => by
      rw [State.queue_group, State.group_modGroup]
      split
      · rfl
      · rw [htg]
    refine ⟨fun g => ?_, fun g hbg hng m => ?_⟩
    · rw [hgroup]
      split
      · next e' => subst e'; simpa using none'
      · next e' => rw [hb g]; exact (other g e').symm
    · rw [hgroup] at hng
      split at hng
      · next e' =>
        subst e'
        have := State.queue_told (t.modGroup (unitGroup u) fun x => { x with busy := false }) (fun _ => true)
          (.goDone (unitGroup u) false (t.group (unitGroup u)).started) m rfl
        rw [htg] at this
        rw [htg, ← hm]
        exact this
      · rw [hbg] at hng; cases hng
  · next hc =>
    simp only [htg, hbusy, Bool.true_and, Bool.not_eq_true', Bool.not_eq_false] at hc
    refine ⟨fun g => ?_, fun g hbg hng => ?_⟩
    · rw [htg]
      by_cases e' : g = unitGroup u
      · subst e'; simpa [hbusy] using flight.1 hc
      · rw [hb g]; exact (other g e').symm
    · rw [htg, hbg] at hng; cases hng

theorem State.stepTo_ms (s : State) (u : UnitId) (st : UState) (r : StateReason) : (s.stepTo u st r).ms = s.ms := by
  unfold State.stepTo State.queueUnitState State.queueUnit State.queueReaders
  exact State.refoldUnit_frame (s := s.modUnit u fun x => { x with state := st, phase := .none }) (·.ms)
    (fun _ _ _ => rfl) u

/-- R73, R76, R78: the test of a unit ends at most its own path. -/
theorem State.testUnit_go (s : State) (u : UnitId) : GoEnds s (s.testUnit u) := by
  have one (t : State) (st : UState) (r : StateReason) (hv : ∀ v, v ≠ u → t.unit v = s.unit v)
      (hg : t.groups = s.groups ∧ t.ms = s.ms) :
      (∀ v, v ≠ u → (t.stepTo u st r).unit v = s.unit v) ∧
        (t.stepTo u st r).groups = s.groups ∧ (t.stepTo u st r).ms = s.ms :=
    ⟨fun v hvu => by rw [((Within.refl t u).stepped st r).unit v hvu]; exact hv v hvu,
      (State.stepTo_groups t u st r).trans hg.1, (t.stepTo_ms u st r).trans hg.2⟩
  have last (t : State) (st : UState) (r : StateReason) (hv : ∀ v, v ≠ u → t.unit v = s.unit v)
      (hg : t.groups = s.groups ∧ t.ms = s.ms) (hp : (s.unit u).phase ≠ .none) :
      GoEnds s ((t.stepTo u st r).clearPath u) := by
    have h := one t st r hv hg
    exact State.clearPath_go _ u (by rw [State.stepTo_unit, if_pos rfl]) h.1 hp h.2.1 h.2.2
  have timer (v : UnitId) (hvu : v ≠ u) : (s.modUnit u fun x => { x with timer := none }).unit v = s.unit v := by
    rw [State.unit_modUnit, if_neg hvu]
  have same : GoEnds s s := fun hb => ⟨hb, fun g h1 h2 => by rw [h1] at h2; cases h2⟩
  unfold State.testUnit State.endStarting State.endDrain
  dsimp only [id]
  split
  · exact same
  · next hp =>
    have h := one s .running .go (fun _ _ => rfl) ⟨rfl, rfl⟩
    split_ifs <;> first
      | exact same
      | exact last _ _ _ h.1 h.2 (by simp [hp])
      | exact last _ _ _ (fun _ _ => rfl) ⟨rfl, rfl⟩ (by simp [hp])
  all_goals
    next hp =>
      have h := one (s.modUnit u fun x => { x with timer := none }) .standby .drainEnd timer ⟨rfl, rfl⟩
      split_ifs <;> first
        | exact same
        | exact last _ _ _ h.1 h.2 (by simp [hp])
        | exact last _ _ _ timer ⟨rfl, rfl⟩ (by simp [hp])

/-! ### Settled -/

/-- `Settled` without the targets, the one-shots and the ends of GOs. -/
structure Calm (e r : State) (T : ChanId → Prop) : Prop where
  swu : r.swu = e.swu
  tsm : r.tsm = e.tsm
  unit : ∀ u, (e.unit u).phase = .none → r.unit u = e.unit u
  group : ∀ g, r.group g = { e.group g with busy := (r.group g).busy }
  chan : ∀ c, ¬T c → (e.unit (unitOf c)).phase = .none → r.chan c = e.chan c
  stack : ∀ c, ¬T c → (r.chan c).stack = (e.chan c).stack
  queue : ∀ m, (e.port m).queue <+: (r.port m).queue
  quiet : (∀ u, (e.unit u).phase = .none) → r.ports = e.ports

theorem Calm.refl (e : State) (T : ChanId → Prop) : Calm e e T :=
  ⟨rfl, rfl, fun _ _ => rfl, fun _ => rfl, fun _ _ _ => rfl, fun _ _ => rfl, fun _ => List.prefix_refl _, fun _ => rfl⟩

theorem Calm.trans (h : Calm e t T) (k : Calm t r T) : Calm e r T where
  swu := k.swu.trans h.swu
  tsm := k.tsm.trans h.tsm
  unit u hu := by
    have := h.unit u hu
    rw [k.unit u (by rw [this]; exact hu), this]
  group g := by rw [k.group g, h.group g]
  chan c hc hu := by
    have h1 := h.unit (unitOf c) hu
    rw [k.chan c hc (by rw [h1]; exact hu), h.chan c hc hu]
  stack c hc := (k.stack c hc).trans (h.stack c hc)
  queue m := (h.queue m).trans (k.queue m)
  quiet hu := (k.quiet fun u => by rw [h.unit u (hu u)]; exact hu u).trans (h.quiet hu)

theorem Calm.mono {T' : ChanId → Prop} (h : Calm e r T) (hT : ∀ c, T c → T' c) : Calm e r T' :=
  { h with chan := fun c hc => h.chan c (fun a => hc (hT c a)), stack := fun c hc => h.stack c (fun a => hc (hT c a)) }

theorem Calm.settled (h : Calm e r T) (ht : ∀ c, T c → r.Folded c)
    (ho : ∀ c, T c → (e.chan c).params.mode = .oneshot → OneShotTakes (e.chan c) (r.chan c)) (hg : GoEnds e r) :
    Settled e r T :=
  ⟨h.swu, h.tsm, h.unit, h.group, h.chan, h.stack, ht, ho, hg, h.queue, h.quiet⟩

theorem Settled.calm (h : Settled e r T) : Calm e r T :=
  ⟨h.swu, h.tsm, h.unit, h.group, h.chan, h.stack, h.queue, h.quiet⟩

theorem State.testUnit_calm (s : State) (u : UnitId) (T : ChanId → Prop) : Calm s (s.testUnit u) T := by
  by_cases hp : (s.unit u).phase = .none
  · rw [s.testUnit_none u hp]
    exact Calm.refl s T
  · have h := s.testUnit_within u
    exact ⟨h.swu, h.tsm, fun v hv => h.unit v (fun a => hp (a ▸ hv)), h.group,
      fun c _ hc => h.chan c (fun a => hp (a ▸ hc)), fun c _ => h.stack c, h.queue, fun hq => absurd (hq u) hp⟩

theorem State.modChan_calm (s : State) (c : ChanId) (f : Channel → Channel) (hT : T c) : Calm s (s.modChan c f) T where
  swu := rfl
  tsm := rfl
  unit _ _ := rfl
  group _ := rfl
  chan d hd _ := by rw [State.chan_modChan, if_neg (by rintro rfl; exact hd hT)]
  stack d hd := by rw [State.chan_modChan, if_neg (by rintro rfl; exact hd hT)]
  queue _ := List.prefix_refl _
  quiet _ := rfl

/-- R21, R73, R75: the stack or the base of a channel changes, its fold is recomputed, and the unit tested. -/
theorem State.refold_settled (s : State) (c : ChanId) (f : Channel → Channel)
    (hf : (f (s.chan c)).params = (s.chan c).params ∧ (f (s.chan c)).target = (s.chan c).target ∧
      (f (s.chan c)).applied = (s.chan c).applied ∧ (f (s.chan c)).oneShot = (s.chan c).oneShot ∧
      (f (s.chan c)).timer = (s.chan c).timer) :
    Settled s (((s.modChan c f).refold c).testUnit (unitOf c)) (· = c) ∧
    ((((s.modChan c f).refold c).testUnit (unitOf c)).chan c).stack = (f (s.chan c)).stack := by
  have h0 : ((s.modChan c f).refold c).chan c = (f (s.chan c)).retarget (s.unit (unitOf c)).atRest
      ((f (s.chan c)).fold (s.unit (unitOf c)).foldsFromBase) := by
    rw [State.refold_eq, State.chan_modChan, if_pos rfl, State.chan_modChan, if_pos rfl, State.modChan_unit]
  have hc : Calm s ((s.modChan c f).refold c) (· = c) := by
    refine Calm.trans (s.modChan_calm (T := (· = c)) c f rfl) ?_
    rw [State.refold_eq]
    exact State.modChan_calm _ c _ rfl
  refine ⟨(hc.trans (State.testUnit_calm _ _ _)).settled ?_ ?_ ?_, ?_⟩
  · rintro d rfl
    exact State.testUnit_folded _ _ (State.refold_folded _ d)
  · rintro d rfl hm
    have hk := (f (s.chan d)).retarget_takes (s.unit (unitOf d)).atRest
      ((f (s.chan d)).fold (s.unit (unitOf d)).foldsFromBase) (by rw [hf.1]; exact hm)
    rw [State.testUnit_still _ d (by rw [h0, (Channel.retarget_spec _ _ _).1, hf.1]; exact hm) (State.refold_folded _ d), h0]
    obtain ⟨h1, h2, h3, h4, h5⟩ := hf
    exact ⟨fun a b c => by rw [← h1]; exact hk.rise (h4.trans a) (h2.trans b) c,
      fun a b => hk.fall (by rw [h2]; exact a) b,
      fun a => by rw [← h4, ← h5]; exact hk.keep (by rw [h2, h4]; exact a),
      fun a => hk.applied (by rw [h2, h3]; exact a)⟩
  · refine (State.testUnit_go _ _).of_eq ?_ ?_ ?_ <;> rw [State.refold_eq] <;> rfl
  · rw [(State.testUnit_within _ (unitOf c)).stack, h0, (Channel.retarget_spec _ _ _).2.2.1]

/-- R19, R21: a removal. -/
theorem State.remove_settled (s : State) (c : ChanId) (x : Source) (h : hasSource x (s.chan c).stack = true) :
    Settled s (s.remove c x) (· = c) ∧ ((s.remove c x).chan c).stack = removeEntry x (s.chan c).stack := by
  unfold State.remove
  rw [if_pos h]
  exact s.refold_settled c (fun ch => { ch with stack := removeEntry x ch.stack }) ⟨rfl, rfl, rfl, rfl, rfl⟩

theorem State.remove_none (s : State) (c : ChanId) (x : Source) (h : hasSource x (s.chan c).stack = false) :
    s.remove c x = s := by
  unfold State.remove
  rw [if_neg (by simp [h])]

theorem State.remove_stack (s : State) (c : ChanId) (x : Source) :
    ((s.remove c x).chan c).stack = removeEntry x (s.chan c).stack := by
  cases h : hasSource x (s.chan c).stack with
  | true => exact (s.remove_settled c x h).2
  | false =>
    rw [s.remove_none c x h, removeEntry, eq_comm, List.filter_eq_self]
    simpa [hasSource_false] using h

theorem State.remove_calm (s : State) (c : ChanId) (x : Source) (hT : T c) : Calm s (s.remove c x) T := by
  cases h : hasSource x (s.chan c).stack with
  | true =>
    exact (s.remove_settled c x h).1.calm.mono (fun d hd => hd ▸ hT)
  | false => rw [s.remove_none c x h]; exact Calm.refl s T

/-- R16, R21: a push that discards nothing. -/
theorem State.push_settled (s : State) (c : ChanId) (x : Entry) (h : discardedBy x (s.chan c).stack = none) :
    Settled s (s.push c x) (· = c) := by
  unfold State.push State.pushRaw
  rw [h]
  exact (s.refold_settled c (fun ch => { ch with stack := pushEntry x ch.stack }) ⟨rfl, rfl, rfl, rfl, rfl⟩).1

/-- R52 step 2: the entries of a writer leave the channel's stack, and the fold is recomputed when there were any. -/
theorem State.dropWriterEntries_calm (s : State) (c : ChanId) : Calm s (s.dropWriterEntries c) (· = c) ∧
    ((s.dropWriterEntries c).chan c).stack = removeEntry .link (removeEntry .force (s.chan c).stack) := by
  unfold State.dropWriterEntries
  dsimp only
  split
  · have h1 := s.refold_settled c (fun ch => { ch with stack := removeEntry .link (removeEntry .force ch.stack) })
      ⟨rfl, rfl, rfl, rfl, rfl⟩
    exact ⟨h1.1.calm, h1.2⟩
  · next h =>
    simp only [Bool.or_eq_true, not_or, Bool.not_eq_true, hasSource_false] at h
    have hforce : removeEntry .force (s.chan c).stack = (s.chan c).stack := by
      simpa [removeEntry, List.filter_eq_self] using h.1
    refine ⟨Calm.refl _ _, ?_⟩
    rw [hforce, removeEntry, eq_comm, List.filter_eq_self]
    simpa using h.2

/-- R90, R95: the ALARM entries of a cause's actions are removed, each from its channel. -/
theorem State.removeAll_calm (s : State) (l : List Action) (x : Source) :
    Calm s (s.each l fun a s => s.remove a.channel x) (fun c => ∃ a ∈ l, a.channel = c) := by
  suffices key : ∀ (l' : List Action) (t : State), (∀ a ∈ l', a ∈ l) →
      Calm t (t.each l' fun a s => s.remove a.channel x) (fun c => ∃ a ∈ l, a.channel = c) from key l s fun _ h => h
  intro l' t hl
  induction l' generalizing t with
  | nil => exact Calm.refl t _
  | cons a l' ih =>
    rw [State.each_cons]
    exact (t.remove_calm a.channel x ⟨a, hl a (.head _), rfl⟩).trans (ih _ fun b hb => hl b (.tail _ hb))

end Sys2Proof.Machine
end

