-- ==== Sys2Proof/Laws/Service.lean ====
section
/-! SUPPORT. What a unit that leaves service loses, said once for each block: its guard (R143), CALCITE (R139) and SPEED_LOST
(R118), over what an arrival and a deactivation leave (R88, R90). -/

namespace Sys2Proof.Machine

/-! ### Causes -/

theorem mem_insertUnrecorded (x : Unrecorded) (l : List Unrecorded) : ∃ y ∈ insertUnrecorded x l, y.cause = x.cause := by
  induction l with
  | nil => exact ⟨x, by simp [insertUnrecorded], rfl⟩
  | cons y l ih =>
    unfold insertUnrecorded
    split_ifs with h1 h2
    · exact ⟨y, by simp, h1.symm⟩
    · exact ⟨x, by simp, rfl⟩
    · obtain ⟨z, hz, e⟩ := ih
      exact ⟨z, .tail _ hz, e⟩

/-- R88: a cause that arrives is active. -/
theorem GroupRec.arrive_holds (g : GroupRec) (c : Cause) (cls : CauseClass) (now : Word) :
    (g.arrive c cls now).1.Holds c := by
  unfold GroupRec.arrive GroupRec.Holds
  split_ifs with h1 h2
  · left
    simp only [GroupRec.has, List.any_eq_true, decide_eq_true_eq] at h1
    obtain ⟨r, hr, e⟩ := h1
    exact ⟨_, List.mem_map.mpr ⟨r, hr, rfl⟩, by simp [e]⟩
  · left; simp
  · right; exact mem_insertUnrecorded _ _
  · right; exact mem_insertUnrecorded _ _

/-- R90: a cause that is deactivated is not active, in a log in its form. -/
theorem GroupRec.deactivate_not_holds {f : Cause → CauseClass} (g : GroupRec) (h : g.LogOk f) (c : Cause) (now : Word) :
    ¬(g.deactivate c now).Holds c := by
  unfold GroupRec.deactivate GroupRec.Holds
  split
  · next h1 =>
    simp only [GroupRec.has, List.any_eq_true, decide_eq_true_eq] at h1
    obtain ⟨r, hr, e⟩ := h1
    rintro (⟨x, hx, hc, ha⟩ | ⟨x, hx, hc⟩)
    · simp only [GroupRec.modRecord, List.mem_map] at hx
      obtain ⟨y, hy, rfl⟩ := hx
      split at ha <;> simp_all
      split at ha <;> simp_all
    · exact (h.2.2.2.2.1 x hx).2.2 r hr (e.trans hc.symm)
  · next h1 =>
    simp only [GroupRec.has, List.any_eq_true, decide_eq_true_eq, not_exists, not_and] at h1
    rintro (⟨x, hx, hc, _⟩ | ⟨x, hx, hc⟩)
    · exact h1 x hx hc
    · simp only [List.mem_filter, decide_eq_true_eq] at hx
      exact hx.2 hc

/-- The level of a group is not what its log holds. -/
theorem State.relevel_holds (s : State) (g h : Group) (c : Cause) :
    ((s.relevel g).group h).Holds c ↔ (s.group h).Holds c := by
  unfold State.relevel State.setLevel State.queueAll
  dsimp only
  split_ifs
  · rfl
  · rw [State.queue_group, State.group_modGroup]
    split
    · next e => subst e; rfl
    · rfl

/-- R90: after a deactivation the cause is not active in the group. -/
theorem State.deactivate_not_holds (s : State) (g : Group) (c : Cause) (h : s.LogsOk) :
    ¬((s.deactivate g c).group g).Holds c := by
  unfold State.deactivate
  dsimp only
  rw [State.relevel_holds]
  have hc := State.removeAll_calm (s.modGroup g fun x => x.deactivate c s.ms) (s.actionsIn g c) (.alarm c)
  change ¬(((s.modGroup g fun x => x.deactivate c s.ms).each (s.actionsIn g c) fun a s =>
    s.remove a.channel (.alarm c)).group g).Holds c
  rw [hc.group g, State.group_modGroup, if_pos rfl]
  exact GroupRec.deactivate_not_holds _ (h g) c s.ms

/-! ### Blocks -/

theorem State.guard_setGuard (s : State) (k q : GuardId) (x : Guard) :
    (s.setGuard k x).guard q = if q = k then x else s.guard q := by
  cases k <;> cases q <;> simp [State.setGuard, State.guard, State.modSwu, Vector.getElem_set, Fin.ext_iff, eq_comm]

/-- R143: the guard is CLEAR with no ceiling and without its SCALE entry, its readers are told, and the other guards, the
causes of the wells and the speed monitor stay. -/
theorem State.guardOff_spec (s : State) (k : GuardId) (h : (s.guard k).state ≠ .clear) :
    (∀ q, (s.guardOff k).guard q = if q = k then (s.guard k).cleared else s.guard q) ∧
    (∀ c, ((s.guardOff k).chan c).stack =
      if c = k.chan then removeEntry .scale (s.chan c).stack else (s.chan c).stack) ∧
    (s.guardOff k).swu.cal = s.swu.cal ∧ (s.guardOff k).tsm = s.tsm ∧
    (∀ u, (s.unit u).phase = .none → (s.guardOff k).unit u = s.unit u) ∧
    (∀ g, (s.guardOff k).group g = { s.group g with busy := ((s.guardOff k).group g).busy }) ∧
    ∀ m, (s.entry k.chan).readers.has m = true →
      ((s.guardOff k).port m).Told ⟨s.ms, .guardState k.chan .clear .service none⟩ := by
  have hc := State.remove_calm (T := (· = k.chan)) (s.setGuard k (s.guard k).cleared) k.chan .scale rfl
  have hs := State.remove_stack (s.setGuard k (s.guard k).cleared) k.chan .scale
  have hm := (State.dropScale_reacts s k (s.guard k).cleared rfl).same
  unfold State.guardOff State.tellGuard
  dsimp only
  rw [if_neg h]
  generalize hr : (s.setGuard k (s.guard k).cleared).remove k.chan .scale = r at hc hs hm ⊢
  have hg (q : GuardId) : r.guard q = if q = k then (s.guard k).cleared else s.guard q := by
    rw [State.guard_of_swu hc.swu, State.guard_setGuard]
  have hk : r.guard k = (s.guard k).cleared := by rw [hg, if_pos rfl]
  have hne : (r.guard k).state ≠ (s.guard k).state := by rw [hk]; exact fun a => h a.symm
  rw [if_neg hne]
  unfold State.queueReaders
  refine ⟨fun q => by rw [State.guard_of_swu (State.queue_swu _ _ _)]; exact hg q, fun c => ?_, ?_, ?_, fun u hu => ?_,
    fun g => ?_, fun m hm' => ?_⟩
  · rw [State.queue_chan]
    split
    · next e => subst e; rw [hs, State.setGuard_stack]
    · next e => rw [hc.stack c e, State.setGuard_stack]
  · rw [State.queue_swu, hc.swu]; cases k <;> rfl
  · rw [State.queue_tsm, hc.tsm]; cases k <;> rfl
  · rw [State.queue_unit, hc.unit u (by cases k <;> exact hu)]; cases k <;> rfl
  · rw [State.queue_group, hc.group g]; cases k <;> rfl
  · have he : r.entry k.chan = s.entry k.chan := by simp only [State.entry, hm.map]
    have ht := r.queue_told (fun m => (r.entry k.chan).readers.has m)
      (.guardState k.chan (r.guard k).state .service (r.guard k).ceiling) m (by rw [he]; exact hm')
    rw [hm.ms, hk] at ht
    rw [hk]
    exact ht

/-- A deactivation leaves the scaling watch and the speed monitor. -/
theorem State.deactivate_blocks (s : State) (g : Group) (c : Cause) :
    (s.deactivate g c).swu = s.swu ∧ (s.deactivate g c).tsm = s.tsm := by
  have hc := State.removeAll_calm (s.modGroup g fun x => x.deactivate c s.ms) (s.actionsIn g c) (.alarm c)
  have hl (t : State) : (t.relevel g).swu = t.swu ∧ (t.relevel g).tsm = t.tsm := by
    unfold State.relevel State.setLevel State.queueAll
    dsimp only
    split_ifs <;> exact ⟨rfl, rfl⟩
  exact ⟨(hl _).1.trans hc.swu, (hl _).2.trans hc.tsm⟩

/-- R139: the CALCITE of the well is over. -/
theorem State.calciteOff_spec (s : State) (i : Fin 8) :
    (s.calciteOff i).swu = { s.swu with cal := s.swu.cal.set i { s.swu.cal[i] with active := false } } ∧
    (s.calciteOff i).tsm = s.tsm ∧
    ((s.swu.cal[i]).active = true → s.LogsOk → ¬((s.calciteOff i).group .field).Holds (.calcite i)) := by
  unfold State.calciteOff
  split
  · next h =>
    have hb := State.deactivate_blocks
      (s.modSwu fun w => { w with cal := w.cal.set i { w.cal[i] with active := false } }) .field (.calcite i)
    exact ⟨hb.1, hb.2, fun _ hl => State.deactivate_not_holds
      (s.modSwu fun w => { w with cal := w.cal.set i { w.cal[i] with active := false } }) .field (.calcite i) hl⟩
  · next h =>
    have e : s.swu.cal.set i { s.swu.cal[i] with active := false } = s.swu.cal := by
      apply Vector.ext
      intro j hj
      rw [Vector.getElem_set]
      split
      · next a => subst a; simp at h; simp [← h]
      · rfl
    exact ⟨by rw [e], rfl, fun a => absurd a h⟩

/-- R118: SPEED_LOST is over. -/
theorem State.regainSpeed_spec (s : State) :
    s.regainSpeed.tsm = { s.tsm with speedLost := false } ∧ s.regainSpeed.swu = s.swu ∧
    (s.tsm.speedLost = true → s.LogsOk → ¬(s.regainSpeed.group .turbine).Holds .speedLost) := by
  unfold State.regainSpeed
  split
  · have hb := State.deactivate_blocks (s.modTsm fun t => { t with speedLost := false }) .turbine .speedLost
    exact ⟨hb.2, hb.1, fun _ hl => State.deactivate_not_holds (s.modTsm fun t => { t with speedLost := false }) .turbine
      .speedLost hl⟩
  · next h => exact ⟨by simp at h; simp [← h], rfl, fun a => absurd a h⟩

end Sys2Proof.Machine
end

