-- ==== Sys2Proof/Laws/Records.lean ====
section
/-! SUPPORT. What arrivals and deactivations of causes leave, in the words of the statements: the log and the unrecorded set
(R88 to R92), the ALARM entries of an action record (R94), and the drain condition of Table 4-6 (R75). -/

namespace Sys2Proof.Machine

theorem GroupRec.has_iff (g : GroupRec) (c : Cause) : g.has c = true ↔ ∃ r ∈ g.log, r.cause = c := by
  simp [GroupRec.has]

theorem GroupRec.has_false (g : GroupRec) (c : Cause) : g.has c = false ↔ ¬∃ r ∈ g.log, r.cause = c := by
  simp [GroupRec.has]

/-- R90: a deactivation. -/
theorem GroupRec.deactivate_eq (g : GroupRec) (c : Cause) (now : Word) : g.deactivate c now = g.without c now := by
  unfold GroupRec.deactivate GroupRec.without
  cases hc : g.has c with
  | true =>
    rw [if_pos rfl, if_pos ((g.has_iff c).1 hc)]
    unfold GroupRec.modRecord
    congr 1
    refine List.map_congr_left fun r _ => ?_
    split_ifs <;> simp_all
  | false =>
    have h := (g.has_false c).1 hc
    rw [if_neg (by simp), if_neg h]
    congr 1
    rw [eq_comm]
    conv_rhs => rw [← List.map_id g.log]
    refine List.map_congr_left fun r hr => ?_
    rw [if_neg fun a => h ⟨r, hr, a.1⟩]
    rfl

/-- R91: a code takes its place in a set in order that does not hold it. -/
theorem insertUnrecorded_eq (x : Unrecorded) (l : List Unrecorded)
    (hs : l.Pairwise (fun a b => a.cause.code < b.cause.code)) (hn : ¬∃ y ∈ l, y.cause = x.cause)
    (hcode : ∀ y ∈ l, y.cause.code = x.cause.code → y.cause = x.cause) :
    insertUnrecorded x l = l.filter (fun y => decide (y.cause.code < x.cause.code)) ++ [x] ++
      l.filter (fun y => decide (x.cause.code < y.cause.code)) := by
  induction l with
  | nil => rfl
  | cons y l ih =>
    simp only [List.mem_cons, exists_eq_or_imp, not_or] at hn
    rw [List.pairwise_cons] at hs
    unfold insertUnrecorded
    rw [if_neg fun a => hn.1 a.symm]
    split
    · next h =>
      have hall : ∀ z ∈ y :: l, x.cause.code < z.cause.code := by
        rintro z (_ | ⟨_, hz⟩)
        · exact h
        · exact h.trans (hs.1 z hz)
      rw [List.filter_eq_nil_iff.mpr fun z hz => by simpa using (hall z hz).le,
        List.filter_eq_self.mpr fun z hz => by simpa using hall z hz]
      rfl
    · next h =>
      have hlt : y.cause.code < x.cause.code := by
        have := mt (hcode y (.head _)) hn.1
        omega
      rw [ih hs.2 hn.2 fun z hz => hcode z (.tail _ hz), List.filter_cons_of_pos (by simpa using hlt),
        List.filter_cons_of_neg (by simpa using hlt.le)]
      rfl

/-- R173: the cause codes differ. -/
theorem Cause.code_inj {a b : Cause} (h : a.code = b.code) : a = b := by
  have harg (c : Cause) : c.argument < 256 := by
    cases c <;> simp only [Cause.argument] <;> first
      | omega
      | (cases ‹Master› <;> decide)
  have hn : a.number = b.number ∧ a.argument = b.argument := by
    unfold Cause.code at h
    have := harg a
    have := harg b
    omega
  obtain ⟨h1, h2⟩ := hn
  cases a <;> cases b <;> simp_all [Cause.number, Cause.argument, Fin.ext_iff] <;> first
    | omega
    | (rename_i m n; cases m <;> cases n <;> simp_all [masterCode])

/-- R88: an arrival of a cause that is not momentary. -/
theorem GroupRec.arrive_eq {f : Cause → CauseClass} (g : GroupRec) (h : g.LogOk f) (c : Cause) (cls : CauseClass)
    (now : Word) (hm : c.isMomentary = false) : (g.arrive c cls now).1 = g.withArrival c cls now := by
  unfold GroupRec.arrive GroupRec.withArrival
  cases hc : g.has c with
  | true =>
    rw [if_pos rfl, if_pos ((g.has_iff c).1 hc)]
    simp [GroupRec.modRecord, countMax, hm]
  | false =>
    rw [if_neg (by simp), if_neg ((g.has_false c).1 hc)]
    unfold logSize
    by_cases hl : g.log.length < 8
    · rw [if_pos hl, if_pos hl]; simp [hm]
    rw [if_neg hl, if_neg hl]
    dsimp only
    simp only [hm, Bool.false_eq_true, false_or]
    split_ifs with hu
    · congr 1
      have key : ∀ l : List Unrecorded, l.Pairwise (fun a b => a.cause.code < b.cause.code) → (∃ y ∈ l, y.cause = c) →
          insertUnrecorded ⟨c, cls⟩ l = l := by
        intro l
        induction l with
        | nil => rintro _ ⟨_, h, _⟩; cases h
        | cons y l ih =>
          rintro hs ⟨z, hz, e⟩
          rw [List.pairwise_cons] at hs
          unfold insertUnrecorded
          rcases List.mem_cons.1 hz with rfl | hz
          · rw [if_pos e.symm]
          · have := e ▸ hs.1 z hz
            split_ifs with h1 h2
            · rfl
            · simp only at h2; omega
            · rw [ih hs.2 ⟨z, hz, e⟩]
      exact key _ h.2.2.2.1 hu
    · congr 1
      exact insertUnrecorded_eq ⟨c, cls⟩ g.unrecorded h.2.2.2.1 hu fun y _ e => Cause.code_inj e

/-- R89: an arrival of a momentary cause. -/
theorem GroupRec.arriveMomentary_eq (g : GroupRec) (c : Cause) (cls : CauseClass) (now : Word) (hm : c.isMomentary = true) :
    (g.arriveMomentary c cls now).1 = g.withArrival c cls now := by
  unfold GroupRec.arriveMomentary GroupRec.withArrival
  cases hc : g.has c with
  | true =>
    rw [if_pos rfl, if_pos ((g.has_iff c).1 hc)]
    simp [GroupRec.modRecord, countMax, hm]
  | false =>
    rw [if_neg (by simp), if_neg ((g.has_false c).1 hc)]
    unfold logSize
    split_ifs <;> simp_all

/-- R92: the level that a log asks for. -/
theorem GroupRec.quietLevel_alarm (g : GroupRec) : g.quietLevel = .alarm ↔ g.asksAlarm := by
  unfold GroupRec.quietLevel GroupRec.asksAlarm
  split
  · next h => simpa [or_assoc] using h
  · next h => simpa [or_assoc] using h

/-- R16, R21: a push changes the stack of its channel alone. -/
theorem State.push_stack (s : State) (c d : ChanId) (e : Entry) :
    ((s.push c e).chan d).stack = if d = c then pushEntry e (s.chan c).stack else (s.chan d).stack := by
  unfold State.push
  rw [(State.testUnit_within _ _).stack, State.refold_eq, State.chan_modChan]
  split
  · next h => subst h; rw [(Channel.retarget_spec _ _ _).2.2.1, s.pushRaw_stack, if_pos rfl]
  · next h => rw [s.pushRaw_stack, if_neg h]

/-- R94: what the actions of a cause leave in each stack. -/
theorem State.applyActions_stack (s : State) (g : Group) (c : Cause) (d : ChanId) :
    ((s.applyActions g c).chan d).stack = s.alarmed g c d (s.chan d).stack := by
  unfold State.applyActions State.alarmed
  generalize s.actionsIn g c = l
  suffices key : ∀ t : State, t.ms = s.ms → ((t.each l fun a s => s.push a.channel ⟨.alarm c, a.kind, a.value, s.ms⟩).chan
      d).stack = l.foldl (fun l a => if a.channel = d then pushEntry ⟨.alarm c, a.kind, a.value, s.ms⟩ l else l)
        (t.chan d).stack from key s rfl
  induction l with
  | nil => intro t _; rfl
  | cons a l ih =>
    intro t ht
    have hm := (t.push_reacts a.channel ⟨.alarm c, a.kind, a.value, t.ms⟩ nofun nofun).same.ms
    rw [State.each_cons, List.foldl_cons, ih _ (hm.trans ht), t.push_stack, ht]
    by_cases hd : a.channel = d
    · subst hd; rw [if_pos rfl]
    · rw [if_neg hd, if_neg fun e => hd e.symm]

/-- R73, R75: ramp done of a unit. -/
theorem State.unitRampDone_iff (s : State) (u : UnitId) : s.unitRampDone u = true ↔ s.RampsDone u := by
  unfold State.unitRampDone State.RampsDone Channel.rampDone
  simp only [List.all_eq_true, Bool.or_eq_true, decide_eq_true_eq]
  constructor
  · intro h c hc hm
    exact (h c (hc ▸ mem_unitChannels c)).resolve_left hm
  · intro h c hc
    by_cases hm : (s.chan c).params.mode = .oneshot
    · exact .inl hm
    · exact .inr (h c (unitOf_of_mem hc) hm)

/-- R75, Table 4-6: the drain condition. -/
theorem State.drainMet_iff (s : State) (u : UnitId) : s.drainMet u = true ↔ s.Drained u := by
  unfold State.drainMet State.Drained
  rw [Bool.and_eq_true, s.unitRampDone_iff]
  refine and_congr_right fun _ => ?_
  have hw : ∀ i : UnitId, i.val < 8 → i ≠ unitTG ∧ i ≠ unitRI := by decide
  by_cases h1 : u.val < 8
  · have hj : ∀ j, drainInput j u ↔ j = ⟨u.val, u.isLt⟩ := fun j => by
      simp [drainInput, h1, (hw u h1).1, (hw u h1).2, Fin.ext_iff]
    simp [h1, hj, Pulse.below, (hw u h1).1]
  by_cases h2 : u = unitRI
  · subst h2
    have hj : ∀ j, drainInput j unitRI ↔ j = piReinjection := fun j => by unfold drainInput; revert j; decide
    simp [hj, Pulse.below, show unitRI ≠ unitTG by decide, show ¬unitRI.val < 8 by decide]
  by_cases h3 : u = unitTG
  · subst h3
    have hj : ∀ j, drainInput j unitTG ↔ j = piSpeed := fun j => by unfold drainInput; revert j; decide
    simp [hj, State.speedBelow, show unitTG ≠ unitRI by decide, show ¬unitTG.val < 8 by decide]
  · have hj : ∀ j, ¬drainInput j u := fun j => by simp [drainInput, h1, h2, h3]
    simp [hj, h1, h2, h3]

end Sys2Proof.Machine
end

