-- ==== Sys2Proof/Tests/Slice0.lean ====
section
/-! SUPPORT. Tests. Expected results are the manual's: its tables, its worked examples, its rules, and CRCs computed apart
from the model. A theorem `witness_<Name>` shows that what `Obligations.<Name>` assumes can be met, clause by clause. -/

-- Each test holds its memory until it is checked, so they are checked one after the other.
set_option Elab.async false

namespace Sys2Proof.Tests

open Sys2Proof.Machine

/-! ### Small states -/

def after : Out → State
  | .next t => t
  | .fault _ => State.reset
  | .refused _ => State.reset

def ran : Out → Bool
  | .next _ => true
  | .fault _ => false
  | .refused _ => false

/-- The result that a port's buffer holds after a command. -/
def held (m : Master) (o : Out) : Option Result :=
  match ((after o).port m).buffer with
  | .ready r => some r.result
  | _ => none

/-- What a port's queue holds. -/
def told (m : Master) (s : State) : List EventBody := (s.port m).queue.map (·.body)

/-- A cause is active in a group's log. -/
def active (s : State) (g : Machine.Group) (c : Cause) : Bool :=
  (s.group g).log.any fun r => decide (r.cause = c) && r.active

/-- In operation with the defaults: no writers, units ISOLATED, groups in TRIP with empty logs. -/
def op : State := { State.reset with run := .running }

/-- The same with every group NORMAL. -/
def calm : State := op.each allGroups fun g s => s.modGroup g fun x => { x with level := .normal }

def owned (m : Master) (c : ChanId) (s : State) : State := s.modEntry c fun x => { x with writer := some m }

def silent (m : Master) (s : State) : State := s.modPort m fun p => { p with silent := true }

def unitAs (u : UnitId) (st next : UState) (s : State) : State :=
  s.modUnit u fun x => { x with state := st, next := next }

def stackAs (c : ChanId) (l : List Entry) (s : State) : State := s.modChan c fun ch => { ch with stack := l }

def force (v : Nat) : Entry := ⟨.force, .value, v, 0⟩
def trip (v : Nat) : Entry := ⟨.trip, .value, v, 0⟩
def link (v : Nat) : Entry := ⟨.link, .value, v, 0⟩
def scale (v : Nat) : Entry := ⟨.scale, .ceiling, v, 0⟩
def alarm (c : Cause) (v : Nat) : Entry := ⟨.alarm c, .ceiling, v, 0⟩

def record (c : Cause) (cls : CauseClass) (active : Bool) : CauseRec := ⟨c, cls, c.isMomentary, 0, 0, 1, active, false⟩

/-- A plant at work: OC0 of a RUNNING well under FORCE and SCALE, the Turbine group tripped on overspeed, records waiting. -/
def plant : State :=
  let s := owned .field 0 calm
  let s := s.modEntry 0 fun x => { x with locked := true }
  let s := unitAs 0 .running .running s
  let s := s.modChan 0 fun ch => { ch with base := 900, stack := [force 880, scale 875], target := 875, applied := 870 }
  let s := s.setGuard (.calcite 0) ⟨.lowering, some 875, 520, .current⟩
  let s := stackAs 8 [trip 0] s
  let s := s.modGroup .turbine fun x => { x with level := .trip, log := [record .overspeed .trip true] }
  let s := s.modGroup .field fun x => { x with level := .alarm, log := [record .tgTripped .alarm true] }
  let s := s.modPort .field fun p => { p with queue := [⟨0, .rampDone 0 870⟩] }
  { s with
    pending := [.status .field 0]
    hmt := { s.hmt with kwh := 5, residue := 7 }
    pfl := { s.pfl with mirror := [(0, 0x43)], eeprom := [(0, 0x43)] } }

theorem forallMaster {P : Master → Prop} (f : P .field) (t : P .turbine) (h : P .heat) : ∀ m, P m := by
  intro m; cases m <;> assumption

theorem forallGroup {P : Machine.Group → Prop} (f : P .field) (t : P .turbine) (h : P .heat) : ∀ g, P g := by
  intro g; cases g <;> assumption

theorem forallGuard {P : GuardId → Prop} (s : P .silica) (c : ∀ i, P (.calcite i)) : ∀ k, P k := by
  intro k; cases k with
  | silica => exact s
  | calcite i => exact c i

theorem forallSome {α : Type} {o : Option α} {P : α → Prop} (h : ∀ x ∈ o.toList, P x) : ∀ x, o = some x → P x := by
  intro x hx; subst hx; exact h x (by simp)

theorem existsGuard {P : GuardId → Prop} : (P .silica ∨ ∃ i, P (.calcite i)) ↔ ∃ k, P k := by
  constructor
  · rintro (h | ⟨i, h⟩)
    · exact ⟨_, h⟩
    · exact ⟨_, h⟩
  · rintro ⟨k, h⟩
    cases k with
    | silica => exact .inl h
    | calcite i => exact .inr ⟨i, h⟩

/-! ### Steps and laws -/

theorem plant_runs : Ran (step plant) := ⟨_, rfl⟩

theorem plant_stacks : plant.StacksOk := by unfold State.StacksOk StackOk; decide +kernel

theorem plant_logs : plant.LogsOk := by
  refine forallGroup ?_ ?_ ?_ <;> unfold GroupRec.LogOk <;> decide +kernel

theorem plant_map : plant.MapOk := by
  refine fun c => ⟨forallMaster ?_ ?_ ?_, forallSome ?_, ?_⟩ <;> revert c <;> decide +kernel

theorem plant_levels : plant.LevelsFollow := by
  refine forallGroup ?_ ?_ ?_ <;> unfold GroupRec.asksAlarm <;> decide +kernel

theorem plant_values : plant.ValuesFit :=
  ⟨by decide +kernel, forallGroup (by decide +kernel) (by decide +kernel) (by decide +kernel), by decide +kernel,
    forallGuard ⟨by decide +kernel, forallSome (by decide +kernel)⟩
      (fun i => ⟨by revert i; decide +kernel, forallSome (by revert i; decide +kernel)⟩)⟩

theorem witness_StepRunsFrontCommand : ∃ c rest, plant.pending = c :: rest := ⟨_, _, rfl⟩

/-- A record that a step adds goes to the readers of its channel, and no further. -/
theorem witness_StepKeepsQueues : plant.QueuesFit ∧ plant.MapOk ∧ Ran (step plant) ∧
    (let l := [link 9, alarm .hxTripped 6, alarm .tgTripped 7, trip 0]
     let s := (stackAs 0 l (owned .field 0 op)).modEntry 0 fun x => { x with readers := ⟨true, false, true⟩ }
     let t := after (step { s with pending := [.force .field 0 0 0 5] })
     let lost : EventBody := .overrideLost 0 .link .value 9
     ([.field, .turbine, .heat].map fun m => told m t) = [[lost], [], [lost]] ∧ lost.readBy = some 0) :=
  ⟨forallMaster (by decide +kernel) (by decide +kernel) (by decide +kernel), plant_map, plant_runs, by decide +kernel⟩

theorem witness_StepKeepsStacks : plant.StacksOk ∧ Ran (step plant) := ⟨plant_stacks, plant_runs⟩

theorem witness_StepKeepsTargets : plant.StacksOk ∧ plant.ChannelsFollow ∧ Ran (step plant) :=
  ⟨plant_stacks, by unfold State.ChannelsFollow; decide +kernel, plant_runs⟩

/-- A LOCKED entry, and a command that is no reset and no load. -/
theorem witness_StepKeepsMap : plant.MapOk ∧ Ran (step plant) ∧ plant.pending.head? = some (.status .field 0) ∧
    (plant.entry 0).locked = true := by
  exact ⟨plant_map, plant_runs, rfl, by decide +kernel⟩

/-- Groups of each level: the Field group in ALARM by its log, the Turbine group in TRIP, the Heat group NORMAL. -/
theorem witness_StepKeepsLogs : plant.LogsOk ∧ plant.LevelsFollow ∧ Ran (step plant) := ⟨plant_logs, plant_levels, plant_runs⟩

theorem witness_ActiveTripCauseHoldsTrip : plant.LogsOk ∧ plant.TripsHold ∧ Ran (step plant) :=
  ⟨plant_logs, forallGroup (by decide +kernel) (by decide +kernel) (by decide +kernel), plant_runs⟩

/-- The plant with the whole list of Table 5-5 standing in the Turbine group. -/
def standing : State := stackAs 15 [trip 1000] (stackAs 9 [trip 0] plant)

theorem witness_TrippedUnitsRest : plant.TripStatesOk ∧ plant.TrippedAtRest ∧ plant.BusyOk ∧ Ran (step plant) ∧
    standing.run = .running ∧ standing.StacksOk ∧ standing.TripListsOk ∧ standing.TripListsHold ∧
    ((standing.group .turbine).level, (standing.group .turbine).tripList) = (.trip, [⟨8, 0⟩, ⟨9, 0⟩, ⟨15, 1000⟩]) ∧
    Ran (step standing) ∧ (after (step standing)).run = .running :=
  ⟨by unfold State.TripStatesOk; decide +kernel,
    forallGroup (by decide +kernel) (by decide +kernel) (by decide +kernel),
    forallGroup (by decide +kernel) (by decide +kernel) (by decide +kernel), plant_runs, rfl,
    by unfold State.StacksOk StackOk; decide +kernel,
    forallGroup (by decide +kernel) (by decide +kernel) (by decide +kernel),
    forallGroup (by decide +kernel) (by decide +kernel) (by decide +kernel), by decide +kernel, ⟨_, rfl⟩, by decide +kernel⟩

theorem witness_StepKeepsTripLists : plant.TripListsOk ∧ Ran (step plant) :=
  ⟨forallGroup (by decide +kernel) (by decide +kernel) (by decide +kernel), plant_runs⟩

/-- A SCALE entry at its guard's ceiling of 875, and eight guards that are CLEAR. -/
theorem witness_StepKeepsGuards : plant.StacksOk ∧ plant.GuardsMatch ∧ plant.ValuesFit ∧ plant.CeilingsOk ∧
    Ran (step plant) :=
  ⟨plant_stacks, fun c => Iff.trans (by revert c; decide +kernel) existsGuard, plant_values,
    forallGuard (by decide +kernel) (by decide +kernel), plant_runs⟩

theorem plant_stores : plant.StoresOk := by unfold State.StoresOk; decide +kernel

theorem witness_StepKeepsStores : plant.StoresOk ∧ Ran (step plant) := ⟨plant_stores, plant_runs⟩

theorem witness_StepKeepsValues : plant.ValuesFit ∧ Ran (step plant) := ⟨plant_values, plant_runs⟩

/-- A command that is no power-on reset, with the count below its full scale after it. -/
theorem witness_MeterNeverFalls : plant.MeterOk ∧ Ran (step plant) ∧ plant.pending.head? ≠ some .powerOnReset ∧
    (after (step plant)).hmt.kwh < 4294967295 :=
  ⟨by unfold State.MeterOk; decide +kernel, plant_runs, by decide +kernel, by decide +kernel⟩

/-- A waiting frame; a tick in reset; a tick with nothing due, one that completes a millisecond, and one that ends a high
phase of one count. -/
theorem witness_IdleStep :
    (op.modPort .field fun p => { p with received := [[1]] }).pending = [] ∧
    ((op.modPort .field fun p => { p with received := [[1]] }).port .field).received ≠ [] ∧
    State.reset.run = .inReset ∧ (∀ m, (op.port m).received = []) ∧ op.run ≠ .inReset ∧
    tickArrivals.filter op.clock.due = [] ∧ ({ op with tick := 9999 }).clock.ms = 1 ∧
    (let s := op.modChan 3 fun ch => { ch with pair := .counts 1 5, wave := .high }
     tickArrivals.filter s.clock.due = [.highPhaseEnd 3] ∧ s.clock.tick ≠ 0 ∧
       ((after (step s)).chan 3).wave = .low) := by
  refine ⟨rfl, by decide, rfl, forallMaster rfl rfl rfl, by decide, by decide +kernel, by decide +kernel, ?_⟩
  decide +kernel

/-- Figure 2-3: the signal timeout is counted from the edge at 3986.5 ms, so it expires half a millisecond after a boundary
of the timebase, and no boundary moves its timer. -/
theorem test_signalTimeout_from_edge :
    (let s := { op with tick := 4999 }.modPulse 8 fun p => { p with timer := some 1999, timerSub := 9999, quality := .good }
     (s.clock.tick, (s.clock.pulse 8).timer, (s.clock.pulse 8).timerSub) = (5000, some 2000, 0) ∧
       ((after (step s)).pulse 8).quality = .noSignal) ∧
    (let s := { op with tick := 9999 }.modPulse 8 fun p => { p with timer := some 1999, timerSub := 4999, quality := .good }
     (s.clock.tick, (s.clock.pulse 8).timer, (s.clock.pulse 8).timerSub) = (0, some 1999, 5000) ∧
       s.clock.due (.signalTimeout 8) = false) := by decide +kernel

/-- A phase of 3 counts, the 24-bit counter, an offer, and a scan due at 5 ms: due then, and not a count or a millisecond
before. -/
theorem test_due_at_their_times :
    (let s (n : Nat) := op.modChan 3 fun ch => { ch with pair := .counts 3 4, wave := .high, count := n }
     let q (n : Nat) := op.modChan 3 fun ch => { ch with pair := .counts 3 4, wave := .low, count := n }
     ([1, 2].map fun n => (s n).clock.due (.highPhaseEnd 3)) = [false, true] ∧
       ([2, 3].map fun n => (q n).clock.due (.periodBoundary 3)) = [false, true]) ∧
    (let s (n : Nat) := op.modPulse 4 fun p => { p with running := true, count := n, params := { p.params with presc := 0 } }
     ([16777214, 16777215].map fun n => (s n).clock.due (.periodCounterOverflow 4)) = [false, true]) ∧
    (let s (n : Word) := { op with tick := 9999, ms := n, asu := { op.asu with nextScan := 5 } }.modEntry 2 fun x =>
       { x with offer := some ⟨.heat, 5⟩ }
     ([3, 4, 5].map fun n => (s n).clock.due (.offerExpiry 2)) = [false, true, false] ∧
       ([3, 4, 5].map fun n => (s n).clock.due .scanStart) = [false, true, true]) := by decide +kernel

/-! ### Resets and start-up -/

/-- A page write that a reset cuts, and none; START_UP_BEGIN in reset and outside it. -/
theorem witness_ResetsBegin : plant.StoresOk ∧ plant.pfl.write = none ∧
    ({ plant with pfl := { plant.pfl with write := some ⟨32, [1, 2]⟩ } }).StoresOk ∧
    ((after (exec .warmReset plant)).hmt.kwh, (after (exec .powerOnReset plant)).hmt.kwh) = (5, 0) ∧
    (after (exec .startUpBegin { State.reset with ms := 9 })).ms = 0 ∧ after (exec .startUpBegin op) = op :=
  ⟨plant_stores, rfl, plant_stores, by decide +kernel, by decide +kernel, by decide +kernel⟩

/-- Table 5-8: the logs after a load that finds an absent EEPROM (item 1), the trip coil armed (R180), and PROFILE_DONE. -/
theorem witness_LoadCompletes : plant.StoresOk ∧ ({ plant with run := .startUp }).run = .startUp ∧
    (let s := { plant with run := .startUp, pfl := { plant.pfl with write := some ⟨4095, [1]⟩ } }
     let t := after (exec (.profileLoadComplete (some [])) s)
     s.StoresOk ∧ (t.group .field).log.map (·.cause) = [.reset, .profileBad, .tgTripped, .hxTripped] ∧
       (t.group .turbine).log.map (·.cause) = [.reset, .profileBad, .fieldTripped] ∧
       (t.group .heat).log.map (·.active) = [false, true, true] ∧ (t.chan 15).oneShot = .pulse ∧
       told .heat t = [.profileDone .bad 1] ∧ ((t.chan 15).applied, (t.chan 3).stack) = (1000, [trip 0]) ∧
       ((t.pulse 11).timer, (t.analog 0).params.hi, (t.analog 15).params.hi) = (some 0, 20000, 1000) ∧
       ((after (exec (.profileLoadComplete none) s)).pfl.mirror) = [(0, 0x43), (4095, 1)]) :=
  ⟨plant_stores, rfl, plant_stores, by decide +kernel⟩

/-! ### Frames and ports -/

/-- Each check refuses an ill-formed term. -/
theorem test_wellFormed_refuses :
    (Instr.requestTransactionEnd .field []).wellFormed = false ∧
    (Instr.requestTransactionEnd .field [0, 1]).wellFormed = false ∧ (Instr.fetch .field 0).wellFormed = false ∧
    (Instr.badFrame .field []).wellFormed = false ∧
    (Instr.badFrame .field [0x30, 0x21, 0x02, 0x0A, 0x02, 0xFD, 0xF1]).wellFormed = false ∧
    (Instr.unknownRequest .field 0 0).wellFormed = false ∧ (Instr.unknownRequest .field 0 0x30).wellFormed = false ∧
    (Instr.profileWrite .field 0 0 (List.replicate 31 0)).wellFormed = false ∧
    (Instr.profileLoadComplete (some [0x43])).wellFormed = false := by decide +kernel

/-- R160 and R175 give the checks over "123456789". -/
theorem test_crc_checks :
    crc16 [0x31, 0x32, 0x33, 0x34, 0x35, 0x36, 0x37, 0x38, 0x39] = 0x29B1 ∧
    crc32 [0x31, 0x32, 0x33, 0x34, 0x35, 0x36, 0x37, 0x38, 0x39] = 0xCBF43926 := by decide +kernel

/-- Frames written out by R160 and Table 9-3: SET_NEXT of TG to RUNNING, an unknown code, and CLAIM with no payload. -/
theorem test_frames_decode :
    decodeFrame .turbine [0x30, 0x21, 0x02, 0x0A, 0x02, 0xFD, 0xF1] = .setNext .turbine 0x21 0x0A 0x02 ∧
    decodeFrame .field [0x20, 0x05, 0x01, 0x00, 0x6B, 0x4F] = .claim .field 0x05 0x00 ∧
    decodeFrame .field [0x20, 0x05, 0x00, 0xB5, 0xAF] = .badFrame .field [0x20, 0x05, 0x00, 0xB5, 0xAF] ∧
    decodeFrame .field (frameOf 0x77 1 []) = .unknownRequest .field 1 0x77 := by decide +kernel

theorem witness_FrameRoundTrip :
    (Instr.profileWrite .heat 9 0x0FE0 (List.replicate 32 7)).wellFormed = true ∧
    requestPort (.profileWrite .heat 9 0x0FE0 (List.replicate 32 7)) = some .heat ∧
    (encodeFrame (.profileWrite .heat 9 0x0FE0 (List.replicate 32 7))).map List.length = some 39 ∧
    (encodeFrame (.status .field 1)).map List.length = some 5 := by decide +kernel

/-- A request, a fetch by its first byte, and a transaction without a whole byte. -/
theorem witness_RequestTransaction :
    ((after (exec (.requestTransactionEnd .heat [0x30, 0x21]) op)).port .heat).received = [[0x30, 0x21]] ∧
    ((after (exec (.requestTransactionEnd .heat [0x30, 0x21]) op)).port .heat).buffer = .pending ∧
    ((after (exec (.requestTransactionEnd .heat [0x00, 0x21]) op)).port .heat).sdo = [0xA5, 0x00] ∧
    after (exec (.requestTransactionEnd .heat []) op) = op := by decide +kernel

/-- Figure 9-1: a fetch cut after 3 bytes, and the repeat; one byte short keeps the response; NO_REQUEST and NOT_READY. -/
theorem witness_FetchReturnsBuffer :
    (let s := op.modPort .turbine fun p => { p with buffer := .ready ⟨0x22, .ok, []⟩ }
     let cut := after (exec (.fetch .turbine 3) s)
     let short := after (exec (.fetch .turbine 5) s)
     let again := after (exec (.fetch .turbine 6) cut)
     (cut.port .turbine).sdo = [0xA5, 0x22, 0x00] ∧ (cut.port .turbine).partialFlag = true ∧
       (short.port .turbine).buffer = .ready ⟨0x22, .ok, []⟩ ∧
       (again.port .turbine).sdo = [0xA4, 0x22, 0x00, 0x00, 0x4C, 0xE1] ∧ (again.port .turbine).buffer = .empty) ∧
    ((after (exec (.fetch .field 7) op)).port .field).sdo = [0xA5, 0x00, 0x41, 0x00, 0xEC, 0x0E, 0xFF] ∧
    ((after (exec (.fetch .field 2) (op.modPort .field fun p => { p with buffer := .pending }))).port .field).sdo =
      [0xFF, 0xFF] := by decide +kernel

theorem witness_StartingUntilOperation : State.reset.run ≠ .running ∧
    requestPort (.claim .heat 4 0) = some .heat ∧ requestFields (.claim .heat 4 0) = some (0x20, 4, [0]) ∧
    held .heat (exec (.claim .heat 4 0) { State.reset with run := .startUp }) = some .starting ∧
    held .heat (exec (.unknownRequest .heat 4 0x77) State.reset) = some .starting ∧
    held .heat (exec (.badFrame .heat [1]) State.reset) = some .starting := by decide +kernel

/-- An ACTIVE port, and a SILENT one that writes OC0 under LINK: PORT_HEARD, and the entry is gone. -/
theorem witness_ValidFrameHeard : (op.port .field).silent = false ∧
    (let s := stackAs 0 [link 5] (owned .field 0 (silent .field { op with ms := 70 }))
     let s := s.modGroup .field fun x => { x with log := [record (.linkSilent .field) .alarm true] }
     (s.port .field).silent = true ∧ (s.entry 0).writer = some .field ∧ s.LogsOk ∧
       told .heat (s.heard .field) = [.portHeard .field 70] ∧ ((s.heard .field).chan 0).stack = [] ∧
       active (s.heard .field) .field (.linkSilent .field) = false) := by
  refine ⟨rfl, by decide +kernel, by decide +kernel, forallGroup ?_ ?_ ?_, by decide +kernel⟩ <;>
    unfold GroupRec.LogOk <;> decide +kernel

/-- R160: 4 bytes, a length byte of 49, a count that differs, a wrong CRC; a frame wrong for its code alone; and an
unknown code returns a SILENT port. -/
theorem witness_PortAnswers : op.run = .running ∧
    held .field (exec (.badFrame .field [0x20, 5, 0, 0]) (silent .field op)) = some .badFrame ∧
    faulted (frameOf 0x20 5 (List.replicate 49 0)) = true ∧ faulted (frameOf 0x20 5 (List.replicate 48 0)) = false ∧
    faulted [0x20, 0x05, 0x00, 0xB5, 0xAF, 0x00] = true ∧ faulted [0x20, 0x05, 0x00, 0xB5, 0xAE] = true ∧
    ((after (exec (.badFrame .field [0x20, 5, 0, 0]) (silent .field op))).port .field).silent = true ∧
    ((after (exec (.badFrame .field [0x20, 0x05, 0x00, 0xB5, 0xAF]) (silent .field op))).port .field).silent = false ∧
    held .field (exec (.unknownRequest .field 3 0x77) (silent .field op)) = some .unknownRequest ∧
    ((after (exec (.unknownRequest .field 3 0x77) (silent .field op))).port .field).silent = false := by decide +kernel

/-- Table 9-4 at the bounds of each field. -/
theorem witness_OutOfRangeRefused : op.run = .running ∧ outOfRange (.setPoint .field 0 16 5) ∧
    outOfRange (.force .field 0 15 3 5) ∧ outOfRange (.offer .field 0 0 0) ∧ outOfRange (.offer .field 0 0 4) ∧
    outOfRange (.readInput .field 0 0 16) ∧ outOfRange (.readInput .field 0 1 12) ∧
    outOfRange (.readInput .field 0 3 0) ∧ outOfRange (.setNext .field 0 12 0) ∧ outOfRange (.setNext .field 0 0 4) ∧
    outOfRange (.go .field 0 3) ∧ outOfRange (.setLab .field 0 9 0) ∧ outOfRange (.readScale .field 0 10) ∧
    outOfRange (.profileRead .field 0 4096) ∧ outOfRange (.profileRead .field 0 33) := by
  refine ⟨rfl, ?_⟩
  simp [outOfRange]

/-- The same fields at the bounds, refused, and within them, taken to the check of authority. -/
theorem test_bounds_of_fields :
    held .field (exec (.setPoint .field 0 16 5) op) = some .badIndex ∧
    held .field (exec (.setPoint .field 0 15 5) op) = some .notWriter ∧
    held .field (exec (.offer .field 0 0 0) op) = some .badIndex ∧
    held .field (exec (.readInput .field 0 2 11) op) = some .ok ∧
    held .field (exec (.readInput .field 0 2 12) op) = some .badIndex ∧
    held .field (exec (.readScale .field 0 9) op) = some .ok ∧
    held .field (exec (.profileRead .field 0 4064) op) = some .ok ∧
    held .field (exec (.profileRead .field 0 33) op) = some .badIndex := by decide +kernel

/-- STATUS shows LOST and clears it; READ_EVENT with a record and without. -/
theorem witness_StatusAndEvents : op.run = .running ∧ plant.run = .running ∧
    ((op.heard .field).port .field).queue = [] ∧
    ((plant.heard .field).port .field).queue = [⟨0, .rampDone 0 870⟩] ∧
    (let s := op.modPort .heat fun p => { p with lost := true }
     ((after (exec (.status .heat 0) s)).port .heat).lost = false) ∧
    held .field (exec (.readEvent .field 0) op) = some .queueEmpty ∧
    ((after (exec (.readEvent .field 0) plant)).port .field).queue = [] := by decide +kernel

/-- An offer by the resetting master and one to it, FORCE on a channel it writes, and a queue to empty. -/
theorem witness_PortReset : op.run = .running ∧
    (let s := (owned .field 0 (owned .heat 1 op)).modEntry 0 fun x => { x with offer := some ⟨.heat, 9⟩ }
     let s := s.modEntry 1 fun x => { x with offer := some ⟨.field, 9⟩ }
     let s := stackAs 0 [force 5, alarm .hxTripped 6] s
     let s := s.modPort .field fun p => { p with queue := [⟨0, .rampDone 0 1⟩] }
     let t := after (exec (.portReset .field 0) s)
     (t.entry 0).offer = none ∧ (t.entry 1).offer = none ∧ (t.chan 0).stack = [alarm .hxTripped 6] ∧
       (t.port .field).queue = [] ∧
       told .heat t = [.handoverExpired 0 .heat .portReset, .handoverExpired 1 .field .portReset]) := by decide +kernel

/-- A reader and a master that is none; OC8, whose record has the turbine's fields, and another channel. -/
theorem witness_ReadsOfChannels : op.run = .running ∧ ((op.heard .field).entry 8).readers.has .field = true ∧
    (let s := op.modEntry 8 fun x => { x with readers := ⟨false, true, true⟩ }
     held .field (exec (.readChannel .field 0 8) s) = some .notReader ∧
       held .field (exec (.readUnit .field 0 10) s) = some .notReader ∧
       held .turbine (exec (.readMap .turbine 0 8) s) = some .ok) := by decide +kernel

/-- PROFILE_READ during a page write and without one; READ_METER clears REVERSE. -/
theorem witness_ReadsOfRecords : op.run = .running ∧ (op.heard .field).pfl.busy = none ∧
    (let s := { op with pfl := { op.pfl with busy := some 3 }, hmt := { op.hmt with reverse := true } }
     held .field (exec (.profileRead .field 0 0) s) = some .busy ∧
       held .field (exec (.profileCheck .field 0) s) = some .busy ∧
       (after (exec (.readMeter .field 0) s)).hmt.reverse = false) := by decide +kernel

/-! ### Channels -/

/-- Table 6-3 through the whole request, S = 600, V = 50. -/
def sequenced : State :=
  unitAs unitTG .running .running (owned .turbine 8 (owned .turbine 9 (calm.modTsm fun t =>
    { t with params := { t.params with sequenced := true } })))

/-- R22, R110, R112 in their order: no writer, the slaved valve, an ISOLATED unit, a demand, an own base at 1000 and a value
over it. -/
theorem witness_SetPointStores : op.run = .running ∧
    held .field (exec (.setPoint .field 0 0 5) op) = some .notWriter ∧
    held .turbine (exec (.setPoint .turbine 0 9 5) sequenced) = some .slaved ∧
    held .field (exec (.setPoint .field 0 0 5) (owned .field 0 op)) = some .unitIsolated ∧
    (let t := after (exec (.setPoint .turbine 0 8 700) sequenced)
     t.tsm.demand = 700 ∧ (t.chan 8).base = 1000 ∧ (t.chan 9).base = 333 ∧ (t.chan 9).target = 333 ∧
       (t.chan 9).applied = 0) ∧
    (let s := unitAs 0 .standby .standby (owned .field 0 op)
     held .field (exec (.setPoint .field 0 0 1000) s) = some .ok ∧
       held .field (exec (.setPoint .field 0 0 1001) s) = some .clamped ∧
       ((after (exec (.setPoint .field 0 0 1001) s)).chan 0).base = 1000) := by decide +kernel

/-- R8 to R10 by a SET_POINT and a FORCE of OC15: a rise with a delay of 0 and of 20, a change that leaves the delay, a fall. -/
theorem test_oneShot_arms :
    (let s (d : Nat) := (unitAs unitTG .running .running (owned .turbine 15 calm)).modChan 15 fun ch =>
       { ch with params := { ch.params with delay := d } }
     let set (v : Half) (x : State) := after (exec (.setPoint .turbine 0 15 v) x)
     let shot (x : State) := ((x.chan 15).oneShot, (x.chan 15).timer, (x.chan 15).applied)
     shot (set 700 (s 0)) = (.pulse, some 500, 700) ∧ shot (set 700 (s 20)) = (.delay, some 20, 700) ∧
       shot (set 300 (set 700 (s 20))) = (.delay, some 20, 300) ∧ shot (set 0 (set 700 (s 20))) = (.idle, none, 0) ∧
       shot (after (exec (.force .turbine 0 15 0 5) (s 20))) = (.delay, some 20, 5)) := by decide +kernel

/-- Tables 6-3 and 6-4, and the bounds of S and V. -/
theorem witness_ValveBases :
    (let p : TsmParams := ⟨true, 600, 50, 33000, 3030⟩
     (p.gv1 550, p.gv2 550) = (916, 0) ∧ (p.gv1 551, p.gv2 551) = (918, 2) ∧ (p.gv1 599) = 998 ∧
       (p.gv1 600, p.gv2 600) = (1000, 111) ∧ (p.gv1 1000, p.gv2 1000) = (1000, 1000) ∧ p.gv1 0 = 0) ∧
    (let p : TsmParams := ⟨true, 600, 0, 33000, 3030⟩
     (p.gv2 600, p.gv2 601, p.gv2 800) = (0, 2, 500)) ∧
    (100 ≤ 100 ∧ 50 ≤ 100 / 2 ∧ (⟨true, 100, 50, 33000, 3030⟩ : TsmParams).gv2 51 = 1) ∧
    (900 ≤ 900 ∧ (⟨true, 900, 0, 33000, 3030⟩ : TsmParams).gv2 901 = 10) := by decide +kernel

/-- Four entries on OC0, none FORCE: the one at the bottom is discarded. -/
def full (bottom : Entry) : State :=
  stackAs 0 [bottom, alarm .hxTripped 6, alarm .tgTripped 7, trip 0] (owned .field 0 op)

/-- No writer; nothing discarded; an ALARM entry discarded, which the readers hear of; a SCALE entry, whose guard is lost. -/
theorem witness_ForcePushes : op.run = .running ∧
    held .turbine (exec (.force .turbine 0 0 0 5) op) = some .notWriter ∧
    discardedBy ⟨.force, .value, 1000, 0⟩ ((owned .field 0 op).chan 0).stack = none ∧
    held .field (exec (.force .field 0 0 0 1000) (owned .field 0 op)) = some .ok ∧
    held .field (exec (.force .field 0 0 2 1001) (owned .field 0 op)) = some .clamped ∧
    ((after (exec (.force .field 0 0 2 1001) (owned .field 0 op))).chan 0).stack = [⟨.force, .floor, 1000, 0⟩] ∧
    (let t := after (exec (.force .field 0 0 0 5) (full (link 9)))
     (t.chan 0).stack = [alarm .hxTripped 6, alarm .tgTripped 7, force 5, trip 0] ∧
       told .heat t = [.overrideLost 0 .link .value 9]) ∧
    (let s := (full (scale 9)).setGuard (.calcite 0) ⟨.holding, some 9, 3, .current⟩
     let t := after (exec (.force .field 0 0 0 5) s)
     t.guard (.calcite 0) = ⟨.clear, none, 3, .current⟩ ∧ (t.group .field).firstOut = some (.guardLost 0) ∧
       told .heat t = [.guardState 0 .clear .overflow none, .causeNew .field (.guardLost 0) .alarm true true]) := by
  decide +kernel

/-- No writer; no FORCE entry; a removal in a PAUSED unit, where the applied value waits though the target rises. -/
theorem witness_UnforceRemoves : op.run = .running ∧
    held .field (exec (.unforce .field 0 0) op) = some .notWriter ∧
    held .field (exec (.unforce .field 0 0) (owned .field 0 op)) = some .ok ∧
    (let s := (stackAs 0 [force 5, scale 800] (unitAs 0 .paused .paused (owned .field 0 calm))).modChan 0 fun ch =>
       { ch with base := 900, target := 5, applied := 5 }
     let t := after (exec (.unforce .field 0 0) s)
     (t.chan 0).stack = [scale 800] ∧ (t.chan 0).target = 800 ∧ (t.chan 0).applied = 5) := by decide +kernel

/-- R16, R17: replaced in place; a full stack under a TRIP entry; a TRIP entry onto a full stack; beneath and on top. -/
theorem witness_PushKeepsOrder :
    (let l := [link 1, scale 2, force 3, trip 4]
     StackOk l ∧ StackOk [link 1, scale 2] ∧ StackOk [link 1, scale 2, force 3, alarm .hxLeak 4] ∧
       pushEntry (scale 9) l = [link 1, scale 9, force 3, trip 4] ∧ discardedBy (scale 9) l = none ∧
       pushEntry (alarm .hxTripped 9) l = [scale 2, force 3, alarm .hxTripped 9, trip 4] ∧
       discardedBy (alarm .hxTripped 9) l = some (link 1)) ∧
    pushEntry (trip 9) [link 1, scale 2, force 3, alarm .hxLeak 4] = [scale 2, force 3, alarm .hxLeak 4, trip 9] ∧
    pushEntry (force 9) [link 1, scale 2] = [link 1, scale 2, force 9] ∧
    pushEntry (force 9) [link 1, trip 2] = [link 1, force 9, trip 2] := by
  unfold StackOk; decide +kernel

/-- R20: the base or the safe level, a ceiling and a floor, a passed entry, and a TRIP entry from the safe level. -/
theorem witness_FoldInOrder :
    (let ch := { op.chan 0 with base := 900, stack := [force 820, scale 760] }
     let floor : Entry := ⟨.alarm .hxTripped, .floor, 850, 0⟩
     ch.stack = [force 820] ++ [scale 760] ∧ ch.fold true = 760 ∧ ch.fold false = 0 ∧
       { ch with stack := [] }.fold true = 900 ∧ { ch with stack := [force 820, floor] }.fold true = 850 ∧
       { ch with stack := [force 820, trip 250] }.fold false = 250) := by decide +kernel

/-- Table 1-4. -/
theorem witness_FrequencyPair :
    (let p := ChanParams.default 0
     let q := { p with ffs := 400, presc := 3 }
     p.mode = .frequency ∧ 0 < 820 * p.ffs ∧ p.pairOf 820 = .counts 610 610 ∧ p.pairOf 1000 = .counts 500 500 ∧
       p.pairOf 1 = .counts 32768 32767 ∧ p.lowLimitOf 1 = true ∧ p.lowLimitOf 820 = false ∧
       q.pairOf 250 = .counts 6250 6250 ∧ p.pairOf 0 = .staticLow) ∧
    (ChanParams.default 15).mode = .oneshot ∧ (ChanParams.default 15).pairOf 1000 = .staticLow := by decide +kernel

/-- Table 1-5, and the example of R5. -/
theorem witness_WaveformPair :
    (let p := ChanParams.default 8
     p.mode = .waveform ∧ 1 ≤ p.pw ∧ p.pairOf 0 = .staticLow ∧ p.pairOf 333 = .counts 3330 6670 ∧
       p.pairOf 999 = .counts 9990 10 ∧ p.pairOf 1000 = .staticHigh ∧
       { p with pw := 100 }.pairOf 5 = .staticLow) := by decide +kernel

/-- A RUNNING well on its way up, in a phase that ends with it; a TG that drains, its speed NO_SIGNAL. -/
def ramping : State :=
  let s := (unitAs 0 .standby .running calm).modUnit 0 fun x => { x with phase := .starting, dest := some .running }
  let s := s.modChan 0 fun ch => { ch with base := 600, target := 600, applied := 595, pair := .counts 9 9, wave := .high }
  let s := unitAs 1 .running .running s
  let s := s.modChan 1 fun ch => { ch with base := 600, target := 600, applied := 100 }
  let s := unitAs 2 .paused .paused s
  let s := s.modChan 2 fun ch => { ch with base := 600, target := 600, applied := 100 }
  let s := (unitAs unitTG .running .isolated s).modUnit unitTG fun x =>
    { x with phase := .isolating, dest := some .isolated, timer := some 9 }
  let s := s.modChan 8 fun ch => { ch with applied := 10, pair := .counts 9 9, wave := .high }
  let s := (s.modGroup .field fun x => { x with busy := true, started := 2 }).modGroup .turbine fun x =>
    { x with busy := true, started := 1 }
  s.modPulse piSpeed fun p => { p with quality := .noSignal }

/-- R11 to R13, R73, R76, R78: a rise of 5 to the target with a pair to wait, one of 10 on a static output, none in PAUSED,
and the ends of STARTING and ISOLATING, each the last path of a GO. -/
theorem witness_RampTick : ramping.ChannelsFollow ∧ ramping.BusyOk ∧
    (let t := after (exec .rampTick ramping)
     ((t.chan 0).applied, (t.chan 1).applied, (t.chan 2).applied, (t.chan 8).applied) = (600, 110, 100, 0) ∧
       (t.chan 0).pendingPair = some (.counts 834 833) ∧ (t.chan 1).pair = .counts 4546 4545 ∧
       ((t.unit 0).state, (t.unit 10).state) = (.running, .isolated) ∧
       told .heat t = [.rampDone 0 600, .rampDone 8 0, .unitState 0 .running .go, .goDone .field false 2,
         .unitState 10 .standby .drainEnd, .unitState 10 .isolated .go, .goDone .turbine false 1]) := by
  refine ⟨?_, forallGroup (by decide +kernel) (by decide +kernel) (by decide +kernel), by decide +kernel⟩
  unfold State.ChannelsFollow
  decide +kernel

/-- Each end in its own phase or one-shot state, and in another. -/
theorem witness_PhasesAndOneShots :
    (let s := op.modChan 0 fun ch => { ch with pair := .counts 3 4, wave := .high, pendingPair := some .staticHigh }
     let low := after (exec (.highPhaseEnd 0) s)
     let t := after (exec (.periodBoundary 0) low)
     (low.chan 0).wave = .low ∧ (t.chan 0).pair = .staticHigh ∧ (t.chan 0).wave = .static ∧ (t.chan 0).pin = true ∧
       (after (exec (.highPhaseEnd 0) t)) = t ∧ (after (exec (.periodBoundary 0) s)) = s) ∧
    (let s := op.modChan 15 fun ch => { ch with oneShot := .delay, timer := some 0 }
     let on := after (exec (.oneshotDelayExpiry 15) s)
     let off := after (exec (.oneshotPulseExpiry 15) on)
     (on.chan 15).pin = true ∧ (on.chan 15).timer = some 500 ∧ (off.chan 15).oneShot = .done ∧
       (off.chan 15).pin = false ∧ (after (exec (.oneshotDelayExpiry 15) off)) = off) := by decide +kernel

/-! ### Map -/

/-- The six rows of R53, the last two with a SILENT writer. -/
theorem witness_ClaimByTable : op.run = .running ∧
    held .field (exec (.claim .field 0 0) (owned .field 0 op)) = some .ok ∧
    ((after (exec (.claim .heat 0 0) op)).entry 0).writer = some .heat ∧
    told .turbine (after (exec (.claim .heat 0 0) op)) = [.handoverDone 0 none (some .heat)] ∧
    held .heat (exec (.claim .heat 0 0) plant) = some .locked ∧
    held .heat (exec (.claim .heat 0 1) (owned .field 1 op)) = some .heldByOther ∧
    (let s := (owned .field 1 (silent .field op)).modEntry 1 fun x => { x with readers := ⟨true, false, true⟩ }
     let s := stackAs 1 [force 3, link 4, scale 5] s
     held .turbine (exec (.claim .turbine 0 1) s) = some .heldByOther ∧
       ((after (exec (.claim .heat 0 1) s)).entry 1).writer = some .heat ∧
       ((after (exec (.claim .heat 0 1) s)).chan 1).stack = [scale 5]) := by decide +kernel

/-- R52 step 4, R61: LINK_SILENT ends in a group with the last of its channels that the silent master writes. -/
theorem test_claim_reviews_linkSilent :
    (let s := (owned .field 1 (silent .field calm)).modGroup .field fun x => { x with
       level := .alarm, log := [record (.linkSilent .field) .alarm true] }
     let t := after (exec (.claim .heat 0 1) s)
     active t .field (.linkSilent .field) = false ∧ (t.group .field).level = .normal ∧
       told .turbine t = [.groupLevel .field .normal (some (.linkSilent .field)),
         .handoverDone 1 (some .field) (some .heat)] ∧
       active (after (exec (.claim .heat 0 1) (owned .field 2 s))) .field (.linkSilent .field) = true) := by decide +kernel

/-- Not the writer, LOCKED, OPEN; no offer, another's offer, one's own. -/
theorem witness_ReleaseAndAccept : op.run = .running ∧
    held .heat (exec (.releaseCh .heat 0 0) plant) = some .notWriter ∧
    held .field (exec (.releaseCh .field 0 0) plant) = some .locked ∧
    ((after (exec (.releaseCh .field 0 1) (owned .field 1 op))).entry 1).writer = none ∧
    held .heat (exec (.accept .heat 0 1) op) = some .notOffered ∧
    (let s := (owned .field 1 op).modEntry 1 fun x => { x with offer := some ⟨.heat, 9⟩ }
     held .turbine (exec (.accept .turbine 0 1) s) = some .notOffered ∧
       ((after (exec (.accept .heat 0 1) s)).entry 1) = ⟨some .heat, .all, false, none⟩) := by decide +kernel

/-- R56, R58, R59 case by case: the expiry time is 10 s on, and an offer to another master is replaced. -/
theorem witness_OffersAndLocks : op.run = .running ∧
    after (exec (.offerExpiry 1) op) = op ∧ held .field (exec (.offer .field 0 1 3) op) = some .notWriter ∧
    held .field (exec (.offer .field 0 0 3) plant) = some .locked ∧
    (let s := owned .field 1 { op with ms := 5 }
     let t := after (exec (.offer .field 0 1 3) s)
     let u := after (exec (.offer .field 0 1 2) t)
     let n := s.modEntry 1 fun x => { x with readers := ⟨true, true, false⟩ }
     held .field (exec (.offer .field 0 1 1) s) = some .badIndex ∧
       held .field (exec (.offer .field 0 1 3) n) = some .notReader ∧ (t.entry 1).offer = some ⟨.heat, 10005⟩ ∧
       told .heat u = [.handoverOffered 1 .heat 10, .handoverExpired 1 .heat .replaced] ∧
       told .turbine u = [.handoverOffered 1 .turbine 10] ∧
       told .heat (after (exec (.offerExpiry 1) t)) = [.handoverOffered 1 .heat 10, .handoverExpired 1 .heat .timeout] ∧
       ((after (exec (.lock .field 0 1) t)).entry 1).offer = none ∧
       ((after (exec (.lock .field 0 1) t)).entry 1).locked = true ∧
       held .heat (exec (.lock .heat 0 1) t) = some .notWriter ∧ held .field (exec (.lock .field 0 0) plant) = some .ok) :=
  by decide +kernel

/-- A running timer on an ACTIVE port whose master writes OC0 and is offered OC1, with an action record that names OC0 and OC3
of its group and OC8 of another (R94); and a stopped one. -/
theorem witness_SilenceExpires : (op.port .field).timer = none ∧ after (exec (.silenceTimerExpiry .field) op) = op ∧
    (let s := (owned .field 0 (owned .heat 1 calm)).modEntry 1 fun x => { x with offer := some ⟨.field, 9⟩ }
     let s := (stackAs 0 [trip 7] s).modPort .field fun p => { p with timer := some 0 }
     let s := { s with actions := [⟨.linkSilent .field, [⟨0, .ceiling, 300⟩, ⟨3, .ceiling, 250⟩, ⟨8, .ceiling, 5⟩]⟩] }
     let t := after (exec (.silenceTimerExpiry .field) s)
     (s.port .field).timer ≠ none ∧ (s.port .field).silent = false ∧ (t.port .field).silent = true ∧
       (t.entry 1).offer = none ∧ (t.chan 0).stack = [link 0, alarm (.linkSilent .field) 300, trip 7] ∧
       ((t.chan 3).stack, (t.chan 8).stack) = ([alarm (.linkSilent .field) 250], []) ∧
       active t .field (.linkSilent .field) = true ∧ (t.group .turbine).level = .normal ∧
       told .turbine t = [.portSilent .field 30, .causeNew .field (.linkSilent .field) .alarm false true,
         .groupLevel .field .alarm (some (.linkSilent .field))]) := by decide +kernel

/-! ### Units and groups -/

/-- SET_NEXT for the writer and for another; SET_LAB at and above each maximum. -/
theorem witness_StoresByRequest : op.run = .running ∧
    held .heat (exec (.setNext .heat 0 10 2) op) = some .notWriter ∧
    ((after (exec (.setNext .turbine 0 10 2) (owned .turbine 8 op))).unit 10).next = .running ∧
    held .heat (exec (.setLab .heat 0 0 5) op) = some .notWriter ∧
    (let s := owned .field 10 (owned .field 7 op)
     held .field (exec (.setLab .field 0 0 2000) s) = some .ok ∧
       held .field (exec (.setLab .field 0 0 2001) s) = some .clamped ∧
       (after (exec (.setLab .field 0 0 2001) s)).swu.cSil = 2000 ∧
       held .field (exec (.setLab .field 0 8 200000) s) = some .ok ∧
       held .field (exec (.setLab .field 0 8 200001) s) = some .clamped ∧
       (after (exec (.setLab .field 0 8 200001) s)).swu.pBub[7] = 200000 ∧
       held .field (exec (.setLab .field 0 1 5) s) = some .notWriter) := by decide +kernel

/-- The example of 4.14 at its GO: W2 starts from ISOLATED, W5 drains under a guard, and W3 steps at once. -/
def starting : State :=
  let s := owned .field 2 (owned .field 5 calm)
  let s := (unitAs 2 .isolated .running s).modChan 2 fun ch => { ch with base := 600 }
  let s := unitAs 5 .running .standby s
  let s := s.modChan 5 fun ch => { ch with base := 820, stack := [scale 760], target := 760, applied := 760 }
  let s := s.setGuard (.calcite 5) ⟨.lowering, some 760, 0, .current⟩
  let s := s.modUnit 5 fun x => { x with params := { x.params with drainTimeout := 30 } }
  unitAs 3 .standby .isolated s

/-- TG in the state and with the NEXT given, PI11 in NO_SIGNAL, and SPEED_LOST as given. -/
def slow (st next : UState) (lost : Bool) : State :=
  let s := (unitAs unitTG st next (owned .turbine 8 calm)).modTsm fun t => { t with quality := .noSignal, speedLost := lost }
  if lost then s.modGroup .turbine fun x => { x with level := .alarm, log := [record .speedLost .alarm true] } else s

/-- R69 in its order, the example of 4.14 with CALCITE(5) active, a GO that is over at once, one whose phases are over at once
(R73, R76), and the rows at 0 and 41000 of Figure 6-2. -/
theorem witness_GoDecided : op.run = .running ∧
    (let t := after (exec (.go .turbine 0 1) (slow .standby .running false))
     t.tsm.speedLost = true ∧ active t .turbine .speedLost = true ∧ (t.group .turbine).level = .alarm) ∧
    (let s := slow .running .standby true
     let t := after (exec (.go .turbine 0 1) s)
     (s.heard .turbine).LogsOk ∧ t.tsm.speedLost = false ∧ active t .turbine .speedLost = false ∧
       (t.group .turbine).level = .normal) ∧
    (let s := starting.modCal 5 fun x => { x with active := true }
     let s := s.modGroup .field fun x => { x with log := [record (.calcite 5) .alarm true] }
     let t := after (exec (.go .field 0 0) s)
     (s.heard .field).LogsOk ∧ t.guard (.calcite 5) = ⟨.clear, none, 0, .current⟩ ∧
       (t.swu.cal[(5 : Fin 8)]).active = false ∧ active t .field (.calcite 5) = false) ∧
    held .field (exec (.go .field 0 0) op) = some .notWriter ∧
    held .field (exec (.go .field 0 0) (starting.modGroup .field fun x => { x with busy := true })) = some .busy ∧
    held .field (exec (.go .field 0 0) (starting.modGroup .field fun x => { x with level := .trip })) =
      some .groupTripped ∧
    (let t := after (exec (.go .field 0 0) starting)
     ((t.unit 2).state, (t.unit 2).phase, (t.chan 2).target) = (.standby, .starting, 600) ∧
       ((t.unit 5).state, (t.unit 5).phase, (t.unit 5).timer) = (.running, .draining, some 30000) ∧
       ((t.chan 5).target, (t.chan 5).applied, (t.chan 5).stack) = (0, 760, []) ∧ (t.unit 3).state = .isolated ∧
       (t.group .field).busy = true ∧ (t.group .field).started = 3 ∧
       told .heat t = [.unitState 2 .standby .go, .unitState 3 .isolated .go, .guardState 5 .clear .service none]) ∧
    (let s := unitAs 11 .running .paused (owned .heat 11 calm)
     told .field (after (exec (.go .heat 0 2) s)) = [.unitState 11 .paused .go, .goDone .heat false 1]) ∧
    (let s := (unitAs 0 .running .isolated (owned .field 0 calm)).modPulse 0 fun p => { p with quality := .noSignal }
     told .heat (after (exec (.go .field 0 0) (unitAs 1 .standby .paused s))) = [.unitState 0 .standby .drainEnd,
       .unitState 0 .isolated .go, .unitState 1 .running .go, .unitState 1 .paused .go, .goDone .field false 2]) := by
  refine ⟨by decide, by decide +kernel, ⟨forallGroup ?_ ?_ ?_, by decide +kernel⟩, ⟨forallGroup ?_ ?_ ?_, by decide +kernel⟩,
    by decide +kernel⟩ <;> unfold GroupRec.LogOk <;> decide +kernel

/-- No drain in progress; a DRAINING unit; an ISOLATING one. -/
theorem witness_DrainTimer : (op.unit 0).timer = none ∧ after (exec (.drainTimerExpiry 0) op) = op ∧
    (let s := (unitAs 0 .running .standby calm).modUnit 0 fun x => { x with phase := .draining, timer := some 0 }
     let s := s.modUnit 11 fun x => { x with state := .paused, phase := .isolating, timer := some 0 }
     let s := s.modGroup .heat fun x => { x with busy := true, started := 1 }
     let t := after (exec (.drainTimerExpiry 0) s)
     let u := after (exec (.drainTimerExpiry 11) s)
     (t.unit 0).state = .standby ∧ (t.unit 0).phase = .none ∧ (u.unit 11).state = .isolated ∧
       told .field t = [.unitState 0 .standby .drainTimeout, .causeNew .field (.drainTimeout 0) .alarm true true,
         .groupLevel .field .alarm (some (.drainTimeout 0))] ∧
       (u.group .heat).busy = false ∧ (u.group .heat).log = [record (.drainTimeout 11) .alarm false] ∧
       told .field u = [.unitState 11 .standby .drainTimeout, .causeNew .heat (.drainTimeout 11) .alarm true true,
         .groupLevel .heat .alarm (some (.drainTimeout 11)), .unitState 11 .isolated .go, .goDone .heat false 1]) := by
  decide +kernel

/-- The example of 4.15: TG is STARTING at a trip entry of its group. -/
def tripping : State :=
  let s := unitAs 10 .standby .running (owned .turbine 8 calm)
  let s := s.modUnit 10 fun x => { x with phase := .starting, dest := some .running }
  let s := s.modChan 8 fun ch => { ch with base := 400, target := 400, applied := 150 }
  s.modGroup .turbine fun x => { x with busy := true, started := 1 }

/-- HX RUNNING under its silica guard, W0 under CALCITE(0) and its guard, TG with SPEED_LOST. -/
def forcing : State :=
  let s := unitAs 0 .running .running (unitAs unitHX .running .running (slow .running .running true))
  let s := s.modChan 12 fun ch => { ch with base := 900, stack := [scale 875], target := 875, applied := 870 }
  let s := s.modChan 0 fun ch => { ch with base := 900, stack := [scale 850], target := 850, applied := 850 }
  let s := (s.setGuard .silica ⟨.lowering, some 875, 200, .current⟩).setGuard (.calcite 0) ⟨.holding, some 850, 700, .held⟩
  let s := s.modCal 0 fun x => { x with active := true }
  s.modGroup .field fun x => { x with level := .alarm, log := [record (.calcite 0) .alarm true] }

/-- R81, R118, R139, R143, R98: the trip of the Field group takes the units of all three groups out of service. -/
theorem test_trip_ends_service : forcing.StacksOk ∧ forcing.TripListsOk ∧ forcing.ChannelsFollow ∧ forcing.LogsOk ∧
    (let t := forcing.arrive .field .estop
     t.guard .silica = ⟨.clear, none, 200, .current⟩ ∧ t.guard (.calcite 0) = ⟨.clear, none, 700, .held⟩ ∧
       ((t.chan 12).stack, (t.chan 0).stack) = ([trip 0], [trip 0]) ∧ (t.swu.cal[(0 : Fin 8)]).active = false ∧
       t.tsm.speedLost = false ∧ active t .field (.calcite 0) = false ∧ active t .turbine .speedLost = false ∧
       .unitState 0 .standby .forced ∈ told .heat t ∧ .unitForced 0 .none .running .standby ∈ told .heat t) := by
  refine ⟨by unfold State.StacksOk StackOk; decide +kernel, forallGroup ?_ ?_ ?_, by unfold State.ChannelsFollow; decide +kernel,
    forallGroup ?_ ?_ ?_, by decide +kernel⟩ <;> first
    | (unfold GroupRec.LogOk; decide +kernel)
    | decide +kernel

/-- R88, R89, R91, R105 in TRIP: a record appended after another, one reactivated in place, and a code that finds the log full. -/
theorem test_arrival_in_trip :
    (let others : List Cause := [.reset, .speedLost, .estop, .extOverspeed, .sepLevelHH, .fieldTripped, .drainTimeout 10]
     let s (l : List Cause) := op.modGroup .turbine fun x => { x with log := l.map fun c => record c .trip false }
     let t (l : List Cause) := (s l).arrive .turbine .overspeed
     let news (l : List Cause) := told .heat (t l)
     ((t others).group .turbine).log = others.map (fun c => record c .trip false) ++ [record .overspeed .trip true] ∧
       news others = [.causeNew .turbine .overspeed .trip false true] ∧
       ((t [.overspeed, .estop]).group .turbine).log =
         [{ record .overspeed .trip true with count := 2 }, record .estop .trip false] ∧ news [.overspeed, .estop] = [] ∧
       (let g := (t (.profileBad :: others)).group .turbine
        (g.log.length, g.logFull, g.unrecorded) = (8, true, [⟨.overspeed, .trip⟩])) ∧
       news (.profileBad :: others) = [.causeNew .turbine .overspeed .trip false false]) := by decide +kernel

theorem witness_TripEntry : tripping.classOf .overspeed = .trip ∧ tripping.classOf .estop = .trip ∧
    tripping.classOf .hxLeak = .trip ∧ (Cause.overspeed.isMomentary, Cause.estop.isMomentary, Cause.hxLeak.isMomentary) =
      (false, false, false) ∧ tripping.StacksOk ∧ tripping.TripListsOk ∧ tripping.ChannelsFollow ∧
    (tripping.group .turbine).level ≠ .trip ∧ (op.group .turbine).level = .trip ∧
    (let t := tripping.arrive .turbine .overspeed
     (t.group .turbine).level = .trip ∧ ((t.chan 8).applied, (t.chan 8).stack) = (0, [trip 0]) ∧
       (t.chan 15).oneShot = .pulse ∧ ((t.unit 10).state, (t.unit 10).phase, (t.unit 10).protAltered) =
         (.standby, .none, true) ∧ (t.group .turbine).busy = false ∧ active t .field .tgTripped = true ∧
       told .heat t = [.causeNew .turbine .overspeed .trip false true, .groupLevel .turbine .trip (some .overspeed),
         .unitForced 10 .starting .standby .standby, .goDone .turbine true 1,
         .causeNew .field .tgTripped .alarm false true, .groupLevel .field .alarm (some .tgTripped)]) ∧
    ((tripping.arrive .field .estop).group .heat).level = .trip ∧
    active (tripping.arrive .field .estop) .turbine .fieldTripped = true ∧
    active (tripping.arrive .heat .hxLeak) .field .hxTripped = true := by
  refine ⟨by decide +kernel, by decide +kernel, by decide +kernel, rfl, by unfold State.StacksOk StackOk; decide +kernel,
    forallGroup ?_ ?_ ?_, by unfold State.ChannelsFollow; decide +kernel, by decide +kernel, by decide +kernel, by decide +kernel,
    by decide +kernel, by decide +kernel, by decide +kernel⟩ <;> decide +kernel

/-- R50, R100, R101: no writer of the group, a group out of TRIP, an active trip-class cause, and a release that leaves the
ALARM level its momentary record asks for. -/
theorem witness_ReleaseTripDecided : op.run = .running ∧
    held .heat (exec (.releaseTrip .heat 0 1) op) = some .notWriter ∧
    held .heat (exec (.releaseTrip .heat 0 2) (owned .heat 12 calm)) = some .ok ∧
    held .turbine (exec (.releaseTrip .turbine 0 1) (owned .turbine 15 plant)) = some .causeActive ∧
    (let s := stackAs 8 [alarm .hxTripped 5, trip 0] (owned .turbine 15 op)
     let s := s.modGroup .turbine fun x => { x with log := [⟨.reset, .trip, true, 0, 0, 1, false, true⟩] }
     let s := s.modGroup .field fun x => { x with log := [record .tgTripped .alarm true] }
     let t := after (exec (.releaseTrip .turbine 0 1) s)
     (∀ g, s.group g = (s.heard .turbine).group g) ∧
       (t.group .turbine).level = .normal ∧ (t.chan 8).stack = [alarm .hxTripped 5] ∧
       active t .field .tgTripped = false) ∧
    (let s := (owned .turbine 15 op).modGroup .turbine fun x => { x with log := [⟨.reset, .trip, true, 0, 0, 1, false, false⟩] }
     ((after (exec (.releaseTrip .turbine 0 1) s)).group .turbine).level = .alarm) := by
  refine ⟨by decide, by decide +kernel, by decide +kernel, by decide +kernel,
    ⟨forallGroup (by decide +kernel) (by decide +kernel) (by decide +kernel), ?_⟩, ?_⟩ <;> decide +kernel

/-- R102, R103 on a full log with one code unrecorded: an inactive record gives it its place. -/
theorem witness_AckClearsLog : op.run = .running ∧
    held .heat (exec (.ack .heat 0 0) op) = some .notWriter ∧
    (let s := (owned .field 14 calm).modGroup .field fun x => { x with
       level := .alarm, logFull := true
       log := [record .tgTripped .alarm false, record .hxTripped .alarm true, record (.vfdFault 0) .alarm true,
         record (.vfdFault 1) .alarm true, record (.vfdFault 2) .alarm true, record (.vfdFault 3) .alarm true,
         record (.vfdFault 4) .alarm true, record (.vfdFault 5) .alarm true]
       unrecorded := [⟨.vfdFault 6, .alarm⟩, ⟨.vfdFault 7, .alarm⟩] }
     let t := after (exec (.ack .field 0 0) s)
     (s.heard .field).LogsOk ∧ (t.group .field).log.length = 8 ∧ (t.group .field).logFull = true ∧
       (t.group .field).unrecorded.map (·.cause) = [.vfdFault 7] ∧ (t.group .field).level = .alarm ∧
       told .heat t = [.causeNew .field (.vfdFault 6) .alarm false true]) := by
  refine ⟨by decide, by decide +kernel, forallGroup ?_ ?_ ?_, by decide +kernel⟩ <;> unfold GroupRec.LogOk <;>
    decide +kernel

/-! ### Inputs -/

/-- The third sample of an asserted input; one input of each kind, and one that ceases. -/
theorem witness_DiscreteSample : State.reset.run ≠ .running ∧ after (exec (.diSample 0xFFF) State.reset) = State.reset ∧
    plant.LogsOk ∧
    (let two := calm.di.map fun d => { d with history := [true, true] }
     let at_ (d : Fin 12) : State := after (exec (.diSample (BitVec.ofNat 12 (2 ^ d.val))) { calm with di := two })
     active (at_ 7) .field (.vfdFault 7) = true ∧ active (at_ 8) .turbine .extOverspeed = true ∧
       active (at_ 9) .turbine .sepLevelHH = true ∧ active (at_ 10) .heat .hxLeak = true ∧
       ((at_ 8).group .turbine).level = .trip ∧ ((at_ 10).group .heat).level = .trip ∧
       ((at_ 7).di[0]).filtered = false ∧ ((at_ 7).di[0]).history = [true, true, false]) ∧
    (let s := { plant with di := plant.di.set (10 : Fin 12) ⟨false, [true, false, false], true⟩ }
     let s := s.modGroup .heat fun x => { x with log := [record .hxLeak .trip true] }
     active (after (exec (.diSample 0) s)) .heat .hxLeak = false) := by
  refine ⟨by decide, by decide +kernel, plant_logs, by decide +kernel, by decide +kernel⟩

/-- A scan of AI3 and AI0 with the range of Table 2-4. -/
def scanning : State :=
  let s := calm.modAnalog 3 fun a => { a with params := { a.params with lo := -5000, hi := 35000 } }
  { s with asu := { s.asu with list := [3, 0], pos := some 0 } }

/-- Table 2-3 at the bounds of its rows, and Table 2-4; SENSOR_BAD arrives and goes, and the entry of its action record with
it (R94, R95). -/
theorem witness_ConversionEnds : op.asu.pos = none ∧ scanning.asu.pos = some 0 ∧ scanning.asu.list[0]? = some 3 ∧
    0 + 1 < scanning.asu.list.length ∧
    ([0, 575, 576, 639, 640, 3200, 3201, 3360, 3361, 4095].map gradeOf = [.bad, .bad, .limited, .limited, .good, .good,
      .limited, .limited, .bad, .bad]) ∧
    ((after (exec (.conversionEnd 700) scanning)).analog 3).value = -4062 ∧
    ((after (exec (.conversionEnd 3201) scanning)).analog 3).value = 35000 ∧
    active (after (exec (.conversionEnd 575) scanning)) .field (.sensorBad 3) = true ∧
    scanning.LogsOk ∧
    (let s := { scanning with
       asu := { scanning.asu with list := [3, 3, 0] }, actions := [⟨.sensorBad 3, [⟨0, .ceiling, 300⟩, ⟨8, .ceiling, 9⟩]⟩] }
     let t := after (exec (.conversionEnd 575) s)
     let u := after (exec (.conversionEnd 576) t)
     ((t.chan 0).stack, (t.chan 8).stack, (t.group .field).level) = ([alarm (.sensorBad 3) 300], [], .alarm) ∧
       active u .field (.sensorBad 3) = false ∧ ((u.chan 0).stack, (u.group .field).level) = ([], .normal) ∧
       told .heat u = [.causeNew .field (.sensorBad 3) .alarm false true, .groupLevel .field .alarm (some (.sensorBad 3)),
         .groupLevel .field .normal (some (.sensorBad 3))]) := by
  refine ⟨by decide +kernel, by decide +kernel, by decide +kernel, by decide +kernel, by decide +kernel, by decide +kernel,
    by decide +kernel, by decide +kernel, forallGroup ?_ ?_ ?_, by decide +kernel⟩ <;> unfold GroupRec.LogOk <;> decide +kernel

/-- The last conversion, with HIGH and LOW checks that it sets and clears at their bounds (R35), an evaluation and a count. -/
theorem witness_ScanStartsAndCompletes : op.run = .running ∧ op.asu.pos = none ∧ scanning.run = .running ∧
    (let p : CheckParams := ⟨.high, 7116, 100, .heat, .alarm⟩
     let q : CheckParams := ⟨.low, 7118, 100, .turbine, .alarm⟩
     let s := { calm with ms := 40, asu := { calm.asu with list := [0], pos := some 0 } }
     let s := s.modAnalog 0 fun a => { a with params := { a.params with check0 := p, check1 := q } }
     let t := after (exec (.conversionEnd 1551) s)
     let quiet := s.modAnalog 0 fun a => { a with params := { a.params with check0 := { p with threshold := 7117 } } }
     let kept := s.modAnalog 0 fun a => { a with
       active0 := true, params := { a.params with check0 := { p with threshold := 7217 } } }
     let gone := s.modAnalog 0 fun a => { a with
       active0 := true, params := { a.params with check0 := { p with threshold := 7218 } } }
     s.asu.list[0]? = some 0 ∧ (t.analog 0).value = 7117 ∧ t.snap.time = 40 ∧ t.asu.pos = none ∧ t.swu.counter = 1 ∧
       active t .heat (.limit 0 0) = true ∧ active t .turbine (.limit 0 1) = true ∧
       ((after (exec (.conversionEnd 1551) quiet)).analog 0).active0 = false ∧
       ((after (exec (.conversionEnd 1551) kept)).analog 0).active0 = true ∧
       ((after (exec (.conversionEnd 1551) gone)).analog 0).active0 = false ∧
       (let r := after (exec (.conversionEnd 1551) { s with swu := { s.swu with counter := 9 } })
        (r.swu.counter, r.swu.lastTime) = (0, 40) ∧ (r.swu.ex.outcome, r.swu.sil.outcome) = (.skipped, .skipped) ∧
          (r.swu.cal[(7 : Fin 8)]).outcome = .notRun ∧ t.swu.sil.outcome = .none)) := by
  decide +kernel

/-- PI11 timing, with this count since the edge before. -/
def spinning (count : Nat) : State := calm.modPulse piSpeed fun p => { p with running := true, count := count }

/-- W5 on its way to STANDBY with its channel there already, PI5 timing with this count since the edge before, and an
idle_flow of 100. -/
def draining (count : Nat) : State :=
  let s := (unitAs 5 .running .standby calm).modUnit 5 fun x => { x with
    phase := .draining, dest := some .standby, timer := some 9, params := { x.params with idleFlow := 100 } }
  let s := s.modGroup .field fun x => { x with busy := true, started := 1 }
  s.modPulse 5 fun p => { p with
    running := true, count := count, timer := some 9, quality := .good, params := { p.params with k := 100000 } }

/-- R75, R76: a drain ends by a rate below idle_flow, not at it, and by NO_SIGNAL, but not while its channel ramps. -/
theorem test_drain_conditions :
    (let edge (n : Nat) := after (exec (.pulseActiveEdge 5) (draining n))
     let lost := after (exec (.signalTimeout 5) (draining 7))
     let rampingDown := after (exec (.signalTimeout 5) ((draining 7).modChan 5 fun ch => { ch with applied := 1 }))
     (((edge 1010).pulse 5).rate, ((edge 1010).unit 5).state, ((edge 1010).unit 5).phase) = (99, .standby, .none) ∧
       told .heat (edge 1010) = [.unitState 5 .standby .drainEnd, .goDone .field false 1] ∧
       (((edge 1000).pulse 5).rate, ((edge 1000).unit 5).phase) = (100, .draining) ∧
       ((lost.unit 5).state, (lost.unit 5).phase) = (.standby, .none) ∧ (lost.group .field).busy = false ∧
       (rampingDown.unit 5).phase = .draining) := by decide +kernel

/-- Tables 2-7 and 6-5, R114 and R115: the third fast period trips, a slow one resets the run, the third slow one ends it. -/
theorem witness_ActiveEdge : State.reset.run ≠ .running ∧ op.run = .running ∧ (op.pulse 5).running = false ∧
    ((spinning 0).pulse 11).running = true ∧ ((after (exec (.pulseActiveEdge 11) (spinning 0))).pulse 11).latched = 1 ∧
    ((after (exec (.pulseActiveEdge 5) op)).pulse 5).running = true ∧
    (let t := after (exec (.pulseActiveEdge 11) (spinning 3333))
     ((t.pulse 11).rate, t.tsm.speed, t.tsm.run) = (30003, 30003, 0)) ∧
    (let s := (spinning 3030).modTsm fun t => { t with run := 2 }
     let t := after (exec (.pulseActiveEdge 11) s)
     (t.tsm.speed, t.tsm.overspeed, (t.group .turbine).level) = (33003, true, .trip) ∧
       active t .turbine .overspeed = true) ∧
    (after (exec (.pulseActiveEdge 11) ((spinning 3030).modTsm fun t => { t with run := 1 }))).tsm.run = 2 ∧
    (let s := (spinning 3031).modTsm fun t => { t with run := 2, overspeed := true, speedLost := true }
     let s := s.modGroup .turbine fun x => { x with
       log := [record .overspeed .trip true, record .speedLost .alarm true] }
     let t := after (exec (.pulseActiveEdge 11) s)
     (t.tsm.overspeed, t.tsm.speedLost) = (false, false) ∧ active t .turbine .overspeed = false ∧
       active t .turbine .speedLost = false) := by decide +kernel

/-- R40, R118: PI11 with TG in service and out of it, another input, and the inputs that find nothing to do. -/
theorem witness_SignalLost : (op.pulse 5).timer = none ∧ (op.pulse 5).running = false ∧
    (let s := ((unitAs unitTG .running .running (spinning 7)).modPulse 11 fun p =>
       { p with timer := some 500, quality := .good }).modTsm fun t => { t with overspeed := true }
     let s := s.modGroup .turbine fun x => { x with level := .trip, log := [record .overspeed .trip true] }
     let t := after (exec (.signalTimeout 11) s)
     (t.pulse 11).quality = .noSignal ∧ (t.tsm.quality, t.tsm.overspeed, t.tsm.speedLost) = (.noSignal, false, true) ∧
       active t .turbine .overspeed = false ∧ active t .turbine .speedLost = true ∧
       (t.group .turbine).level = .trip) ∧
    (after (exec (.periodCounterOverflow 11) (spinning 7))).tsm.speedLost = false ∧
    ((after (exec (.periodCounterOverflow 5) (calm.modPulse 5 fun p => { p with running := true }))).pulse 5).quality =
      .noSignal ∧
    (let s := op.modPulse 5 fun p => { p with running := true, timer := some 2000, quality := .noSignal }
     after (exec (.signalTimeout 5) s) = s ∧ after (exec (.periodCounterOverflow 5) s) = s) := by decide +kernel

/-! ### Scaling watch, heat meter, profile -/

/-- A calcite guard with the parameters of Table 7-3 on OC3 at work. -/
def guarded (x : Guard) (l : List Entry) : State :=
  let s := (unitAs 3 .running .running calm).modChan 3 fun ch => { ch with base := 900, target := 900, applied := 900 }
  (stackAs 3 l s).setGuard (.calcite 3) x

/-- Table 7-9 row by row as in 7.10, at the bounds of the margins and of the ceiling. -/
theorem witness_GuardRows :
    (let k : GuardId := .calcite 3
     let off := guarded .init []
     let on := guarded ⟨.lowering, some 875, 520, .current⟩ [scale 875]
     let low := guarded ⟨.lowering, some 410, 520, .current⟩ [scale 410]
     let high := guarded ⟨.raising, some 975, 520, .current⟩ [scale 975]
     (off.guard k).ceiling = none ∧ (off.chan k.chan).applied ≤ 1000 ∧ off.guardParams k = ⟨600, 900, 25, 400⟩ ∧
       off.runGuard k 599 = ((off.setGuard k ⟨.lowering, some 875, 599, .current⟩).push 3 (scale 875)).tellGuard k .clear
         .evaluation ∧ (off.runGuard k 600).guard k = ⟨.clear, none, 600, .current⟩ ∧
       (on.runGuard k 550).guard k = ⟨.lowering, some 850, 550, .current⟩ ∧
       (low.runGuard k 599).guard k = ⟨.lowering, some 400, 599, .current⟩ ∧
       (on.runGuard k 610).guard k = ⟨.holding, some 875, 610, .current⟩ ∧
       (on.runGuard k 899).guard k = ⟨.holding, some 875, 899, .current⟩ ∧
       (on.runGuard k 900).guard k = ⟨.raising, some 900, 900, .current⟩ ∧
       (high.runGuard k 900).guard k = ⟨.clear, none, 900, .current⟩ ∧ ((high.runGuard k 900).chan 3).stack = [] ∧
       told .heat (on.runGuard k 610) = [.guardState 3 .holding .evaluation (some 875)]) := by decide +kernel

/-- Well 3 of 7.10 before an evaluation, with the code of AI3 in the snapshot. -/
def well3 (v : Int) (q : Quality) (bubble : Nat) (x : Calcite) (g : Guard) : State :=
  let s := guarded g (g.ceiling.toList.map scale)
  { s with
    snap := { s.snap with ai := s.snap.ai.set (3 : Fin 16) ⟨v, q⟩ }
    swu := { s.swu with pBub := s.swu.pBub.set (3 : Fin 8) bubble, cal := s.swu.cal.set (3 : Fin 8) x } }

/-- The rows of 7.10 at 4000, 7000 and 7300 ms; the end of the cause at 300 + 100 and not below it; a well out of service. -/
theorem test_calcite_steps :
    (let x : Calcite := ⟨.evaluated, 18510, 610, false⟩
     let r := (well3 18600 .bad 17900 x ⟨.holding, some 850, 610, .current⟩).evalCalcite 3
     (r.swu.cal[(3 : Fin 8)] = { x with outcome := .skipped } ∧
       r.guard (.calcite 3) = ⟨.holding, some 850, 610, .held⟩ ∧ (r.chan 3).stack = [scale 850])) ∧
    (let r := (well3 18830 .good 18600 ⟨.evaluated, 18830, 530, false⟩ ⟨.lowering, some 850, 530, .current⟩).evalCalcite 3
     r.swu.cal[(3 : Fin 8)] = ⟨.evaluated, 18830, 230, true⟩ ∧
       r.guard (.calcite 3) = ⟨.lowering, some 825, 230, .current⟩ ∧ active r .field (.calcite 3) = true ∧
       active (r.calciteOff 3) .field (.calcite 3) = false ∧ ((r.calciteOff 3).swu.cal[(3 : Fin 8)]).active = false) ∧
    (let x : Calcite := ⟨.evaluated, 18830, 230, true⟩
     ((((well3 1000 .good 600 x .init).evalCalcite 3).swu.cal[(3 : Fin 8)]).active = false) ∧
       ((((well3 999 .good 600 x .init).evalCalcite 3).swu.cal[(3 : Fin 8)]).active = true) ∧
       ((unitAs 3 .standby .running (well3 999 .good 600 x .init)).evalCalcite 3).swu.cal[(3 : Fin 8)] =
         { x with outcome := .notRun } ∧
       (well3 999 .good 600 { x with active := false } .init).calciteOff 3 =
         well3 999 .good 600 { x with active := false } .init) := by decide +kernel

/-- Table 7-6, and the filter step of 7.9. -/
theorem witness_ExchangerSteps :
    (let p := { SwuParams.default with uaClean := 900000 }
     let x : Exchanger := ⟨.none, 0, 0, 0, 0, 0, 0, some 13920, 870, false⟩
     let r := x.evaluate p 8500 11840 7120 9500 5200
     (r.q, r.dT1, r.dT2, r.dTm, r.ua, r.c) = (16449200, 2340, 1920, 2130, 772262, 858) ∧
       (r.acc, r.cf, r.outcome) = (some 13908, 869, .evaluated) ∧
       (x.evaluate p 8500 11840 7120 11800 5200).outcome = .notEvaluable ∧
       (x.evaluate p 0 11840 11700 9500 5200).outcome = .notEvaluable ∧
       ((x.evaluate p 2000 9000 6000 7000 5900).ua, (x.evaluate p 2000 9000 6000 7000 5900).c) = (234285, 260) ∧
       ({ x with acc := none }.evaluate p 8500 11840 7120 9500 5200).acc = some 13728 ∧
       (x.evaluate p 8500 100 100 50 50).outcome = .evaluated ∧ (x.evaluate p 8500 100 100 51 50).outcome = .notEvaluable ∧
       8500 * 4100 * 4720 < 2 ^ 63) := by decide +kernel

/-- The inputs of the first row of Table 7-6, with a quality of the flow, and a filtered cleanliness before the steps. -/
def exchanger (q : Quality) (cf : Nat) (fouling : Bool) : State :=
  { calm with
    snap := { calm.snap with
      ai := (((calm.snap.ai.set (8 : Fin 16) ⟨11840, .good⟩).set (9 : Fin 16) ⟨7120, .limited⟩).set (10 : Fin 16)
        ⟨9500, .good⟩).set (11 : Fin 16) ⟨5200, .good⟩
      pi := calm.snap.pi.set (8 : Fin 12) ⟨8500, q⟩ }
    swu := { calm.swu with
      ex := ⟨.none, 0, 0, 0, 0, 0, 0, some (16 * cf), cf, fouling⟩
      params := { calm.swu.params with uaClean := 900000, cleanAlarm := 800 } } }

/-- R127, R132: SKIPPED holds the record; NOT_EVALUABLE without flow; HX_FOULING below 800 and its end at 810. -/
theorem test_exchanger_outcomes :
    (exchanger .bad 870 true).evalExchanger.swu.ex = ⟨.skipped, 0, 0, 0, 0, 0, 0, some 13920, 870, true⟩ ∧
    ((exchanger .noSignal 870 true).evalExchanger.swu.ex.outcome, (exchanger .noSignal 870 true).evalExchanger.swu.ex.cf,
      (exchanger .noSignal 870 true).evalExchanger.swu.ex.fouling) = (.notEvaluable, 870, true) ∧
    (let t := (exchanger .good 790 false).evalExchanger
     (t.swu.ex.cf, t.swu.ex.fouling) = (794, true) ∧ active t .heat .hxFouling = true) ∧
    (let s := (exchanger .good 810 true).modGroup .heat fun x => { x with log := [record .hxFouling .alarm true] }
     let t := s.evalExchanger
     (t.swu.ex.cf, t.swu.ex.fouling) = (813, false) ∧ active t .heat .hxFouling = false) ∧
    (exchanger .good 803 true).evalExchanger.swu.ex.fouling = true := by decide +kernel

/-- The brine outlet of the snapshot, C_sil 520, and the silica record before the steps. -/
def silica (v : Int) (q : Quality) (x : Silica) : State :=
  { calm with
    snap := { calm.snap with ai := calm.snap.ai.set (9 : Fin 16) ⟨v, q⟩ }
    swu := { calm.swu with cSil := 520, sil := x } }

/-- Table 7-7, and R135 and R136 at the bounds of their thresholds and counter. -/
theorem witness_SilicaSteps : SwuParams.default.table.Pairwise (fun x y => x.c < y.c) ∧
    ([50, 100, 133, 500, 520, 800, 900].map (limitOf SwuParams.default.table) = [4000, 4000, 4214, 6800, 6920, 8500, 8500]) ∧
    (let start : Silica := ⟨.none, 0, 0, false, false, 0⟩
     let rec' (v : Int) (x : Silica) : Silica := (silica v .good x).evalSilica.swu.sil
     rec' 7120 start = ⟨.evaluated, 6920, 200, false, false, 0⟩ ∧ rec' 7020 start = ⟨.evaluated, 6920, 100, false, false, 0⟩ ∧
       rec' 7019 start = ⟨.evaluated, 6920, 99, true, false, 0⟩ ∧
       rec' 7069 { start with margin := true } = ⟨.evaluated, 6920, 149, true, false, 0⟩ ∧
       rec' 7070 { start with margin := true } = ⟨.evaluated, 6920, 150, false, false, 0⟩ ∧
       rec' 6919 { start with counter := 8 } = ⟨.evaluated, 6920, -1, true, false, 9⟩ ∧
       rec' 6919 { start with counter := 9 } = ⟨.evaluated, 6920, -1, true, true, 0⟩ ∧
       rec' 6920 { start with trip := true } = ⟨.evaluated, 6920, 0, true, false, 0⟩ ∧
       ((silica 6919 .good { start with counter := 9 }).evalSilica.group .heat).level = .trip ∧
       (silica 6919 .bad { start with counter := 9 }).evalSilica.swu.sil = ⟨.skipped, 0, 0, false, false, 0⟩) := by
  decide +kernel

/-- HX in a state with OC12 at 900, and the silica guard as given. -/
def cooling (st : UState) (v : Int) (q : Quality) (x : Silica) (g : Guard) : State :=
  let s := (unitAs unitHX st st (silica v q x)).modChan 12 fun ch => { ch with base := 900, target := 900, applied := 900 }
  (stackAs 12 (g.ceiling.toList.map scale) s).setGuard .silica g

/-- R137, R141: the silica guard runs with SM while HX is in service, is held without AI9, stays with HX out of service, and is
CLEAR once a SILICA_TRIP has forced HX. -/
theorem test_silica_guard :
    (let start : Silica := ⟨.none, 0, 0, false, false, 0⟩
     let on : Guard := ⟨.holding, some 860, 400, .current⟩
     let after (s : State) : Guard := s.evalSilica.guard .silica
     after (cooling .running 7120 .good start .init) = ⟨.lowering, some 880, 200, .current⟩ ∧
       after (cooling .paused 7420 .good start on) = ⟨.raising, some 880, 500, .current⟩ ∧
       after (cooling .running 7120 .bad start on) = { on with status := .held } ∧
       after (cooling .standby 7120 .good start .init) = .init ∧
       after (cooling .standby 7120 .bad start .init) = .init ∧
       (let t := (cooling .running 6919 .good { start with counter := 9 } on).evalSilica
        t.guard .silica = ⟨.clear, none, 400, .current⟩ ∧ (t.unit unitHX).atRest = true ∧ (t.chan 12).stack = [trip 0])) := by
  decide +kernel

/-- A snapshot of the meter's three inputs. -/
def metered (m : Int) (q : Quality) (ws wr : Int) : Snapshot :=
  { State.reset.snap with
    ai := (State.reset.snap.ai.set (10 : Fin 16) ⟨ws, .good⟩).set (11 : Fin 16) ⟨wr, .limited⟩
    pi := State.reset.snap.pi.set (9 : Fin 12) ⟨m, q⟩ }

/-- Table 8-3, the saturation of R152, a REVERSE and an UNMETERED interval. -/
theorem witness_MeterInterval :
    (let h := Hmt.init 4180
     let a := h.interval (metered 9150 .good 9500 5200) 1000
     let b := a.interval (metered 9150 .good 9500 5200) 1000
     let c := b.interval (metered 5 .noSignal 9500 5200) 1000
     let d := c.interval (metered 1200 .good 7000 6990) 1000
     (a.kwh, a.residue) = (4, 20462100000000) ∧ (b.kwh, b.residue) = (9, 4924200000000) ∧
       (c.kwh, c.residue, c.power, c.outcome) = (9, 4924200000000, 0, .metered) ∧ (d.kwh, d.residue) = (9, 4974360000000) ∧
       (let full := { h with kwh := 4294967293, residue := 30000000000000 }.interval (metered 9150 .good 9500 5200) 1000
        (full.kwh, full.residue) = (4294967295, 14462100000000)) ∧
       (h.interval (metered 9150 .good 5200 5200) 1000).outcome = .metered ∧
       (h.interval (metered 9150 .good 5199 5200) 1000).reverse = true ∧
       (let u := { h with unmeteredMs := 900 }.interval (metered 9150 .unknown 9500 5200) 100
        (u.outcome, u.unmeteredS, u.unmeteredMs) = (.unmetered, 1, 0)) ∧
       ({ h with unmeteredMs := 899 }.interval (metered 9150 .unknown 9500 5200) 100).unmeteredMs = 999) := by
  decide +kernel

/-- R183 in its order, and the end of a page write. -/
theorem witness_ProfileWrites : op.StoresOk ∧ plant.StoresOk ∧ op.run = .running ∧ op.pfl.busy = none ∧
    after (exec .pageWriteEnd op) = op ∧
    held .field (exec (.profileWrite .field 0 4064 (List.replicate 32 7)) plant) = some .notAllTripped ∧
    (let s := after (exec (.profileWrite .field 0 4064 (List.replicate 32 7)) op)
     let t := after (exec .pageWriteEnd s)
     s.pfl.busy = some 5 ∧ held .heat (exec (.profileWrite .heat 0 0 []) s) = some .busy ∧ t.pfl.busy = none ∧
       (t.pfl.mirror.read 4063, t.pfl.mirror.read 4064, t.pfl.mirror.read 4095) = (0, 7, 7) ∧
       t.pfl.eeprom = t.pfl.mirror) := by
  refine ⟨by unfold State.StoresOk; decide +kernel, plant_stores, by decide, by decide, ?_, ?_, ?_⟩ <;> decide +kernel

end Sys2Proof.Tests
end

section
/-! The pair of a WAVEFORM channel (R5): what `wavePair` answers in each of its cases, and O38 from these. -/

namespace Sys2Proof.Machine

variable {p : ChanParams} {v : Nat}

theorem pairOf_of_waveform (hmode : p.mode = .waveform) : p.pairOf v = wavePair p v := by
  simp only [ChanParams.pairOf, hmode]

theorem wavePair_of_high_eq_zero (hzero : v * p.pw / 1000 = 0) : wavePair p v = .staticLow := if_pos hzero

theorem wavePair_thousand (hpw : 1 ≤ p.pw) : wavePair p 1000 = .staticHigh := by
  have hhigh : 1000 * p.pw / 1000 = p.pw := Nat.mul_div_cancel_left _ (by decide)
  have hne : p.pw ≠ 0 := Nat.pos_iff_ne_zero.mp hpw
  simp [wavePair, hhigh, hne]

theorem wavePair_of_high_lt (hpos : v * p.pw / 1000 ≠ 0) (hlt : v * p.pw / 1000 < p.pw) :
    wavePair p v = .counts (v * p.pw / 1000) (p.pw - v * p.pw / 1000) :=
  (if_neg hpos).trans (if_neg (Nat.sub_ne_zero_of_lt hlt))

/-- A value below 1000 leaves at least one low count. -/
theorem wave_high_lt_period (hpw : 1 ≤ p.pw) (hv : v < 1000) : v * p.pw / 1000 < p.pw :=
  Nat.div_lt_of_lt_mul (Nat.mul_lt_mul_of_pos_right hv hpw)

/-- The low count of a non-static pair is not 0, so the subtraction that gives it is exact. -/
theorem wavePair_counts_add {high low : Nat} (hpair : wavePair p v = .counts high low) : high + low = p.pw := by
  simp only [wavePair] at hpair
  split at hpair
  case isTrue => cases hpair
  case isFalse =>
    split at hpair
    case isTrue => cases hpair
    case isFalse hlow =>
      cases hpair
      exact Nat.add_sub_cancel' (Nat.lt_of_sub_ne_zero hlow).le

/-- Settles O38, from the cases of `wavePair`. -/
theorem waveformPair : Obligations.WaveformPair := by
  intro p v hmode hpw hv
  simp only [pairOf_of_waveform hmode]
  refine ⟨wavePair_of_high_eq_zero, ?valueZero, ?valueFull, ?counts, fun _ _ => wavePair_counts_add⟩
  case valueZero =>
    rintro rfl
    simp
  case valueFull =>
    rintro rfl
    exact wavePair_thousand hpw
  case counts =>
    intro hpos hne
    have hlt := wave_high_lt_period hpw (lt_of_le_of_ne hv hne)
    exact ⟨wavePair_of_high_lt hpos hlt, hlt⟩

end Sys2Proof.Machine
end

section
/-! Removals from override stacks (R19, R21): what any run of them keeps, and what a deactivation leaves (R90, R92, R95). -/

namespace Sys2Proof.Machine

/-! ### Stacks that only lose entries -/

/-- Entries have left stacks, from `s` to `t`, and of what else a fold depends on nothing has changed but by the end of a phase
(R73, R76). -/
structure OnlyRemoves (s t : State) : Prop where
  swu : t.swu = s.swu
  tsm : t.tsm = s.tsm
  unit : ∀ u, (s.unit u).phase = .none → t.unit u = s.unit u
  queue : ∀ m, (s.port m).queue <+: (t.port m).queue
  sublist : ∀ d, (t.chan d).stack.Sublist (s.chan d).stack
  kept : ∀ d, (t.chan d).stack = (s.chan d).stack → (s.unit (unitOf d)).phase = .none → t.chan d = s.chan d
  folded : ∀ d, (t.chan d).stack ≠ (s.chan d).stack ∨ s.Folded d → t.Folded d

/-- An update of records that no fold reads. -/
theorem OnlyRemoves.of_eq {s t : State} (hch : t.ch = s.ch) (hunits : t.units = s.units) (hswu : t.swu = s.swu)
    (htsm : t.tsm = s.tsm) (hqueue : ∀ m, (s.port m).queue <+: (t.port m).queue) : OnlyRemoves s t := by
  have hchan (d : ChanId) : t.chan d = s.chan d := by simp only [State.chan, hch]
  have hunit (u : UnitId) : t.unit u = s.unit u := by simp only [State.unit, hunits]
  refine ⟨hswu, htsm, fun u _ => hunit u, hqueue, fun d => by rw [hchan], fun d _ _ => hchan d, fun d hd => ?_⟩
  have hs : s.Folded d := hd.resolve_left fun hne => hne (by rw [hchan])
  unfold State.Folded at hs ⊢
  rw [hchan, hunit, hs]

theorem OnlyRemoves.refl (s : State) : OnlyRemoves s s := .of_eq rfl rfl rfl rfl fun _ => List.prefix_refl _

/-- A stack that is the same after two runs of removals was the same between them. -/
theorem OnlyRemoves.trans {s t r : State} (h : OnlyRemoves s t) (k : OnlyRemoves t r) : OnlyRemoves s r where
  swu := k.swu.trans h.swu
  tsm := k.tsm.trans h.tsm
  unit u hu := by
    have hut := h.unit u hu
    rw [k.unit u (by rw [hut]; exact hu), hut]
  queue m := (h.queue m).trans (k.queue m)
  sublist d := (k.sublist d).trans (h.sublist d)
  kept d hd hu := by
    have hmid : (t.chan d).stack = (s.chan d).stack := (h.sublist d).antisymm (hd ▸ k.sublist d)
    rw [k.kept d (hd.trans hmid.symm) (by rw [h.unit _ hu]; exact hu), h.kept d hmid hu]
  folded d hd := by
    by_cases hmid : (t.chan d).stack = (s.chan d).stack
    · exact k.folded d (hd.imp (hmid ▸ ·) fun hs => h.folded d (.inr hs))
    · exact k.folded d (.inr (h.folded d (.inl hmid)))

theorem State.modGroup_onlyRemoves (s : State) (g : Group) (f : GroupRec → GroupRec) : OnlyRemoves s (s.modGroup g f) :=
  .of_eq rfl rfl rfl rfl fun _ => List.prefix_refl _

theorem State.modEntry_onlyRemoves (s : State) (c : ChanId) (f : MapEntry → MapEntry) : OnlyRemoves s (s.modEntry c f) :=
  .of_eq rfl rfl rfl rfl fun _ => List.prefix_refl _

theorem OnlyRemoves.queued {s t : State} (h : OnlyRemoves s t) (who : Master → Bool) (b : EventBody) :
    OnlyRemoves s (t.queue who b) := by
  refine h.trans (.of_eq rfl rfl rfl rfl fun m => ?_)
  rw [State.port_queue]
  split
  · exact Port.append_queue_extends _ _
  · exact List.prefix_refl _

/-- R21: a channel that has recomputed its fold, and one whose target was its fold, has it as target after the test of the
unit. -/
theorem State.retest_folded (s : State) (c d : ChanId) (f : Channel → Channel) (hd : d = c ∨ s.Folded d) :
    (((s.modChan c f).refold c).testUnit (unitOf c)).Folded d := by
  have hfold : ((s.modChan c f).refold c).Folded d := by
    by_cases hdc : d = c
    · subst hdc
      exact State.refold_folded _ d
    · refine State.refold_keepsFolded _ c d ?_
      have hs := hd.resolve_left hdc
      unfold State.Folded at hs ⊢
      rwa [State.chan_modChan, if_neg hdc]
  by_cases hu : unitOf d = unitOf c
  · rw [← hu]
    exact State.testUnit_folded _ d hfold
  · have hin := State.testUnit_within ((s.modChan c f).refold c) (unitOf c)
    unfold State.Folded at hfold ⊢
    rw [hin.chan d hu, hin.unit _ hu]
    exact hfold

/-- R19, R21: the entries that fail `p` leave a stack that has one. -/
theorem State.filter_onlyRemoves (s : State) (c : ChanId) (p : Entry → Bool) (hp : ∃ x ∈ (s.chan c).stack, p x = false) :
    OnlyRemoves s (((s.modChan c fun ch => { ch with stack := ch.stack.filter p }).refold c).testUnit (unitOf c)) := by
  obtain ⟨h, hstack⟩ := s.refold_settled c (fun ch => { ch with stack := ch.stack.filter p }) ⟨rfl, rfl, rfl, rfl, rfl⟩
  have hfewer : (s.chan c).stack.filter p ≠ (s.chan c).stack := by
    obtain ⟨x, hx, hpx⟩ := hp
    intro heq
    simpa [hpx] using List.filter_eq_self.mp heq x hx
  refine ⟨h.swu, h.tsm, h.unit, h.queue, fun d => ?sublist, fun d hd hu => ?kept, fun d hd => ?folded⟩
  case sublist =>
    by_cases hdc : d = c
    · subst hdc
      rw [hstack]
      exact List.filter_sublist
    · rw [h.stack d hdc]
  case kept =>
    refine h.chan d (fun hdc => ?_) hu
    subst hdc
    exact hfewer (hstack.symm.trans hd)
  case folded => exact s.retest_folded c d _ (hd.imp_left fun hne => by_contra fun hdc => hne (h.stack d hdc))

theorem State.remove_onlyRemoves (s : State) (c : ChanId) (x : Source) : OnlyRemoves s (s.remove c x) := by
  unfold State.remove
  split
  case isTrue hx =>
    refine s.filter_onlyRemoves c (fun e => decide (e.source ≠ x)) ?_
    simpa [hasSource] using hx
  case isFalse => exact .refl s

theorem State.removeAll_onlyRemoves (s : State) (l : List Action) (x : Source) :
    OnlyRemoves s (s.each l fun a s => s.remove a.channel x) :=
  State.each_induct (P := OnlyRemoves s) l _ (fun a _ t ht => ht.trans (t.remove_onlyRemoves a.channel x)) s (.refl s)

theorem State.removeAll_stack (s : State) (l : List Action) (x : Source) (d : ChanId) :
    ((s.each l fun a s => s.remove a.channel x).chan d).stack =
      if ∃ a ∈ l, a.channel = d then removeEntry x (s.chan d).stack else (s.chan d).stack := by
  induction l generalizing s with
  | nil => simp
  | cons a l ih =>
    have hone : ((s.remove a.channel x).chan d).stack =
        if a.channel = d then removeEntry x (s.chan d).stack else (s.chan d).stack := by
      split
      case isTrue had => rw [← had, s.remove_stack]
      case isFalse had => exact (s.remove_calm (T := (· = a.channel)) a.channel x rfl).stack d fun h => had h.symm
    have htwice (k : List Entry) : removeEntry x (removeEntry x k) = removeEntry x k := by simp [removeEntry]
    rw [State.each_cons, ih, hone]
    by_cases had : a.channel = d
    · simp [had, htwice]
    · simp [had]

/-! ### The level -/

theorem State.relevel_chan (s : State) (g : Group) (d : ChanId) : (s.relevel g).chan d = s.chan d := by
  unfold State.relevel State.setLevel State.queueAll
  dsimp only
  split <;> rfl

/-- R92: the level is the one that the log asks for, and TRIP stays. -/
theorem State.relevel_group (s : State) (g h : Group) : (s.relevel g).group h =
    if h = g then { s.group g with level := if (s.group g).level = .trip then .trip else (s.group g).quietLevel }
    else s.group h := by
  unfold State.relevel State.setLevel State.queueAll
  dsimp only
  split
  case isTrue hstay =>
    split
    case isTrue hg =>
      subst hg
      rcases hstay with htrip | hquiet
      · rw [if_pos htrip, ← htrip]
      · rw [hquiet, ite_eq_right_iff.mpr Eq.symm]
    case isFalse => rfl
  case isFalse hmove =>
    rw [not_or] at hmove
    rw [State.queue_group, State.group_modGroup, if_neg hmove.1]

/-- R105: a level entered is told to every port. -/
theorem State.relevel_told (s : State) (g : Group) (hne : ((s.relevel g).group g).level ≠ (s.group g).level) (m : Master) :
    ((s.relevel g).port m).Told ⟨s.ms, .groupLevel g ((s.relevel g).group g).level (s.group g).firstOut⟩ := by
  rw [State.relevel_group, if_pos rfl] at hne ⊢
  dsimp only at hne ⊢
  have htrip : (s.group g).level ≠ .trip := fun htrip => hne (by rw [if_pos htrip, htrip])
  rw [if_neg htrip] at hne ⊢
  unfold State.relevel State.setLevel State.queueAll
  dsimp only
  rw [if_neg (not_or.mpr ⟨htrip, hne⟩)]
  exact State.queue_told _ _ _ m rfl

theorem State.relevel_onlyRemoves (s : State) (g : Group) : OnlyRemoves s (s.relevel g) := by
  unfold State.relevel State.setLevel State.queueAll
  dsimp only
  split
  case isTrue => exact .refl s
  case isFalse => exact (s.modGroup_onlyRemoves g _).queued _ _

/-! ### Deactivation -/

theorem GroupRec.without_firstOut (x : GroupRec) (c : Cause) (now : Word) : (x.without c now).firstOut = x.firstOut := by
  unfold GroupRec.without GroupRec.firstOut
  cases x.log with
  | nil => rfl
  | cons r l =>
    simp only [List.map_cons, List.head?_cons, Option.map_some]
    split <;> rfl

/-- The state in which a deactivation recomputes the level: its record is made, and its ALARM entries are gone (R90, R95). -/
def State.withoutCause (s : State) (g : Group) (c : Cause) : State :=
  (s.modGroup g fun x => x.deactivate c s.ms).each (s.actionsIn g c) fun a s => s.remove a.channel (.alarm c)

theorem State.deactivate_eq_relevel (s : State) (g : Group) (c : Cause) : s.deactivate g c = (s.withoutCause g c).relevel g := rfl

theorem State.withoutCause_group (s : State) (g h : Group) (c : Cause) : (s.withoutCause g c).group h =
    { (if h = g then (s.group g).without c s.ms else s.group h) with busy := ((s.withoutCause g c).group h).busy } := by
  have hcalm := State.removeAll_calm (s.modGroup g fun x => x.deactivate c s.ms) (s.actionsIn g c) (.alarm c)
  refine (hcalm.group h).trans ?_
  rw [State.group_modGroup, GroupRec.deactivate_eq]
  rfl

theorem State.withoutCause_reacts (s : State) (g : Group) (c : Cause) : Reacts s (s.withoutCause g c) :=
  (Prim.deactivate g c).reacts.trans (Reacts.each _ _ (fun _ s => s.remove_reacts _ _ (by simp) (by simp)) _)

theorem State.withoutCause_onlyRemoves (s : State) (g : Group) (c : Cause) : OnlyRemoves s (s.withoutCause g c) :=
  (s.modGroup_onlyRemoves g _).trans (State.removeAll_onlyRemoves _ (s.actionsIn g c) (.alarm c))

theorem State.deactivate_onlyRemoves (s : State) (g : Group) (c : Cause) : OnlyRemoves s (s.deactivate g c) :=
  (s.withoutCause_onlyRemoves g c).trans (State.relevel_onlyRemoves _ g)

/-- R90: a deactivation in a group leaves the records of the others. -/
theorem State.deactivate_group_other (s : State) {g h : Group} (c : Cause) (hne : h ≠ g) :
    (s.deactivate g c).group h = { s.group h with busy := ((s.deactivate g c).group h).busy } := by
  have hended := s.withoutCause_group g h c
  rw [if_neg hne] at hended
  rw [State.deactivate_eq_relevel, State.relevel_group, if_neg hne]
  exact hended

theorem State.deactivate_ended (s : State) (g : Group) (c : Cause) : CauseEnded s (s.deactivate g c) g c := by
  have hended := s.withoutCause_group g g c
  rw [if_pos rfl] at hended
  have hlevel : ((s.withoutCause g c).group g).level = (s.group g).level := by rw [hended]; rfl
  have hgroup := (s.withoutCause g c).relevel_group g g
  rw [if_pos rfl] at hgroup
  rw [State.deactivate_eq_relevel]
  refine ⟨?record, ⟨?trip, ?alarm⟩, fun hne m => ?groupLevel, fun d => ?stack⟩
  case record =>
    rw [hgroup, hended]
  case trip =>
    rw [hgroup, hlevel]
    dsimp only
    split
    case isTrue htrip => exact iff_of_true rfl htrip
    case isFalse hout => exact iff_of_false (GroupRec.quietLevel_ne _) hout
  case alarm =>
    intro hout
    rw [hgroup, hlevel, if_neg hout]
    exact GroupRec.quietLevel_alarm _
  case groupLevel =>
    have hms := (s.withoutCause_reacts g c).same.ms
    have htold := (s.withoutCause g c).relevel_told g (by rwa [hlevel]) m
    have hfirst : ((s.withoutCause g c).group g).firstOut = (s.group g).firstOut := by
      rw [hended]
      exact (s.group g).without_firstOut c s.ms
    rwa [hms, hfirst] at htold
  case stack =>
    rw [State.relevel_chan]
    exact State.removeAll_stack _ _ _ d

end Sys2Proof.Machine
end

section
/-! The change of a writer (R52), which CLAIM, RELEASE_CH and ACCEPT bring about. -/

namespace Sys2Proof.Machine

variable (e : State) (c : ChanId) (new : Option Master)

/-! ### Steps 1 to 3 -/

theorem removeEntry_force_link (l : List Entry) :
    removeEntry .link (removeEntry .force l) = l.filter fun x => decide (x.source ≠ .force ∧ x.source ≠ .link) := by
  simp only [removeEntry, List.filter_filter]
  refine List.filter_congr fun x _ => ?_
  simp [Bool.and_comm]

theorem State.dropWriterEntries_stack (d : ChanId) : ((e.dropWriterEntries c).chan d).stack =
    if d = c then (e.chan c).stack.filter fun x => decide (x.source ≠ .force ∧ x.source ≠ .link) else (e.chan d).stack := by
  obtain ⟨hcalm, hstack⟩ := e.dropWriterEntries_calm c
  split
  case isTrue hdc => rw [hdc, hstack, removeEntry_force_link]
  case isFalse hdc => exact hcalm.stack d hdc

theorem State.dropWriterEntries_onlyRemoves : OnlyRemoves e (e.dropWriterEntries c) := by
  unfold State.dropWriterEntries
  dsimp only
  simp only [removeEntry_force_link]
  split
  case isTrue h =>
    refine e.filter_onlyRemoves c _ ?_
    simp only [hasSource, Bool.or_eq_true, List.any_eq_true, decide_eq_true_eq] at h
    rcases h with ⟨x, hx, hs⟩ | ⟨x, hx, hs⟩ <;> exact ⟨x, hx, by simp [hs]⟩
  case isFalse => exact .refl e

theorem State.dropWriterEntries_same : Same e (e.dropWriterEntries c) := by
  unfold State.dropWriterEntries
  dsimp only
  split
  case isTrue =>
    simp only [removeEntry_force_link]
    have hpop : Prim e ((e.modChan c fun ch => { ch with
        stack := ch.stack.filter fun x => decide (x.source ≠ .force ∧ x.source ≠ .link) }).refold c) :=
      Prim.pop c _ fun x hx => by rcases hx with hx | hx <;> simp [hx]
    exact (hpop.reacts.trans (State.testUnit_reacts _ _)).same
  case isFalse => exact .refl e

/-- R52 step 2: where the stack stays, it held neither entry, and nothing is recomputed. -/
theorem State.dropWriterEntries_of_stack_eq (h : ((e.dropWriterEntries c).chan c).stack = (e.chan c).stack) :
    e.dropWriterEntries c = e := by
  rw [State.dropWriterEntries_stack, if_pos rfl, List.filter_eq_self] at h
  unfold State.dropWriterEntries
  refine if_neg ?_
  simp only [Bool.or_eq_true, not_or, Bool.not_eq_true, hasSource_false]
  simp only [decide_eq_true_eq] at h
  exact ⟨fun x hx => (h x hx).1, fun x hx => (h x hx).2⟩

/-- The entry of the channel after steps 1 and 3: the writer and its place among the readers are in, the offer is out. -/
def MapEntry.handedTo (x : MapEntry) (new : Option Master) : MapEntry where
  writer := new
  locked := x.locked
  offer := none
  readers := match new with
    | some m => x.readers.add m
    | none => x.readers

/-- The state after step 1: the offer still stands. -/
def State.withWriter : State := e.modEntry c fun x => { x.handedTo new with offer := x.offer }

/-- The state in which step 4 reviews LINK_SILENT. -/
def State.rewritten : State := ((e.withWriter c new).dropWriterEntries c).modEntry c fun x => { x with offer := none }

theorem State.rewritten_entry (d : ChanId) :
    (e.rewritten c new).entry d = if d = c then (e.entry c).handedTo new else e.entry d := by
  have hmap (d : ChanId) : ((e.withWriter c new).dropWriterEntries c).entry d = (e.withWriter c new).entry d := by
    simp only [State.entry, (State.dropWriterEntries_same _ c).map]
  unfold State.rewritten
  rw [State.entry_modEntry, hmap, hmap]
  unfold State.withWriter
  rw [State.entry_modEntry, State.entry_modEntry, if_pos rfl]
  split <;> rfl

theorem Same.setMap {s t : State} (h : Same s t) (x : Vector MapEntry 16) : Same { s with map := x } { t with map := x } :=
  { h with map := rfl }

theorem State.rewritten_same : Same e { e.rewritten c new with map := e.map } :=
  (State.dropWriterEntries_same (e.withWriter c new) c).setMap e.map

theorem State.rewritten_onlyRemoves : OnlyRemoves e (e.rewritten c new) :=
  ((e.modEntry_onlyRemoves c _).trans (State.dropWriterEntries_onlyRemoves _ c)).trans (State.modEntry_onlyRemoves _ c _)

theorem State.rewritten_stack (d : ChanId) : ((e.rewritten c new).chan d).stack =
    if d = c then (e.chan c).stack.filter fun x => decide (x.source ≠ .force ∧ x.source ≠ .link) else (e.chan d).stack :=
  State.dropWriterEntries_stack (e.withWriter c new) c d

theorem State.rewritten_group (g : Group) :
    (e.rewritten c new).group g = { e.group g with busy := ((e.rewritten c new).group g).busy } :=
  (State.dropWriterEntries_calm (e.withWriter c new) c).1.group g

theorem State.rewritten_ports (h : ((e.rewritten c new).chan c).stack = (e.chan c).stack) :
    (e.rewritten c new).ports = e.ports := by
  unfold State.rewritten
  rw [State.modEntry_ports, State.dropWriterEntries_of_stack_eq _ c h]
  rfl

/-! ### Step 4 -/

/-- The state in which HANDOVER_DONE is queued. -/
def State.reviewed : State := (e.rewritten c new).reviewLink c (e.entry c).writer

/-- Whether HANDOVER_DONE goes to a master. -/
def State.hearsHandover (m : Master) : Bool :=
  [(e.entry c).writer, new].contains (some m) || ((e.reviewed c new).entry c).readers.has m

theorem State.changeWriter_eq_queue : e.changeWriter c new =
    (e.reviewed c new).queue (e.hearsHandover c new) (.handoverDone c (e.entry c).writer new) := rfl

theorem State.changeWriter_chan (d : ChanId) : (e.changeWriter c new).chan d = (e.reviewed c new).chan d := rfl

theorem mem_groupChannels (c : ChanId) : c ∈ groupChannels (chanGroup c) := by revert c; decide

/-- R61: the conditions of the review, read after the change or, in the words of `reviewsLink`, before it. -/
theorem State.rewritten_reviews_iff {w : Master} (hw : (e.entry c).writer = some w) :
    (((e.rewritten c new).port w).silent = true ∧
      (e.rewritten c new).writesAny w (groupChannels (chanGroup c)) = false) ↔ e.reviewsLink c new w := by
  have hsilent : ((e.rewritten c new).port w).silent = (e.port w).silent := by
    rw [← (e.rewritten_same c new).port w]
    rfl
  have hwrites : (e.rewritten c new).writesAny w (groupChannels (chanGroup c)) = false ↔
      new ≠ some w ∧ ∀ d ∈ groupChannels (chanGroup c), d ≠ c → (e.entry d).writer ≠ some w := by
    simp only [State.writesAny, State.writes, List.any_eq_false, decide_eq_true_eq, State.rewritten_entry]
    constructor
    · intro h
      refine ⟨?_, fun d hd hdc => ?_⟩
      · simpa [MapEntry.handedTo] using h c (mem_groupChannels c)
      · simpa only [if_neg hdc] using h d hd
    · rintro ⟨hnew, hothers⟩ d hd
      split
      · exact hnew
      · exact hothers d hd ‹_›
  rw [hsilent, hwrites]
  unfold State.reviewsLink
  tauto

theorem State.reviewed_of_reviewsLink {w : Master} (h : e.reviewsLink c new w) :
    e.reviewed c new = (e.rewritten c new).deactivate (chanGroup c) (.linkSilent w) := by
  obtain ⟨hsilent, hwrites⟩ := (e.rewritten_reviews_iff c new h.1).mpr h
  simp only [State.reviewed, State.reviewLink, h.1, hsilent, hwrites, Bool.not_false, Bool.and_self, if_true]

theorem State.reviewed_of_not_reviewsLink (h : ∀ w, ¬e.reviewsLink c new w) : e.reviewed c new = e.rewritten c new := by
  unfold State.reviewed State.reviewLink
  split
  next => rfl
  next w hw =>
    refine if_neg fun hreview => h w ((e.rewritten_reviews_iff c new hw).mp ?_)
    simpa using hreview

/-- R52 step 4: LINK_SILENT of the old writer is deactivated, or nothing happens. -/
theorem State.reviewed_cases :
    (∃ w, e.reviewsLink c new w ∧ e.reviewed c new = (e.rewritten c new).deactivate (chanGroup c) (.linkSilent w)) ∨
    ((∀ w, ¬e.reviewsLink c new w) ∧ e.reviewed c new = e.rewritten c new) := by
  by_cases h : ∃ w, e.reviewsLink c new w
  · obtain ⟨w, hw⟩ := h
    exact .inl ⟨w, hw, e.reviewed_of_reviewsLink c new hw⟩
  · have hnone : ∀ w, ¬e.reviewsLink c new w := not_exists.mp h
    exact .inr ⟨hnone, e.reviewed_of_not_reviewsLink c new hnone⟩

theorem State.reviewed_reacts : Reacts (e.rewritten c new) (e.reviewed c new) := by
  rcases e.reviewed_cases c new with ⟨w, _, heq⟩ | ⟨_, heq⟩
  · exact heq ▸ State.deactivate_reacts _ _ _
  · exact heq ▸ Reacts.refl

theorem State.reviewed_onlyRemoves : OnlyRemoves e (e.reviewed c new) := by
  refine (e.rewritten_onlyRemoves c new).trans ?_
  rcases e.reviewed_cases c new with ⟨w, _, heq⟩ | ⟨_, heq⟩
  · exact heq ▸ State.deactivate_onlyRemoves _ _ _
  · exact heq ▸ OnlyRemoves.refl _

theorem State.reviewed_same : Same e { e.reviewed c new with map := e.map } :=
  (e.rewritten_same c new).trans ((e.reviewed_reacts c new).same.setMap e.map)

theorem State.reviewed_entry (d : ChanId) :
    (e.reviewed c new).entry d = if d = c then (e.entry c).handedTo new else e.entry d := by
  rw [← e.rewritten_entry c new d, State.entry, (e.reviewed_reacts c new).same.map, State.entry]

theorem State.rewritten_actionsIn (g : Group) (x : Cause) : (e.rewritten c new).actionsIn g x = e.actionsIn g x := by
  have hactions : (e.rewritten c new).actions = e.actions := (e.rewritten_same c new).actions
  simp only [State.actionsIn, hactions]

/-- R52 step 4, R90: the ALARM entries of LINK_SILENT leave the channels of its action record. -/
theorem State.reviewed_stack {w : Master} (h : e.reviewsLink c new w) (d : ChanId) : ((e.reviewed c new).chan d).stack =
    if ∃ a ∈ e.actionsIn (chanGroup c) (.linkSilent w), a.channel = d then
      ((e.rewritten c new).chan d).stack.filter fun x => decide (x.source ≠ .alarm (.linkSilent w))
    else ((e.rewritten c new).chan d).stack := by
  rw [e.reviewed_of_reviewsLink c new h, (State.deactivate_ended _ _ _).stack, State.rewritten_actionsIn]

theorem State.reviewed_group_stays {g : Group} (h : g ≠ chanGroup c ∨ ∀ w, ¬e.reviewsLink c new w) :
    (e.reviewed c new).group g = { e.group g with busy := ((e.reviewed c new).group g).busy } := by
  have hbefore := e.rewritten_group c new g
  rcases e.reviewed_cases c new with ⟨w, hw, heq⟩ | ⟨_, heq⟩
  · rw [heq]
    have hafter := (e.rewritten c new).deactivate_group_other (.linkSilent w) (h.resolve_right fun hn => hn w hw)
    rw [hbefore] at hafter
    exact hafter
  · rw [heq]
    exact hbefore

theorem State.reviewed_group {w : Master} (h : e.reviewsLink c new w) :
    let x := (e.group (chanGroup c)).without (.linkSilent w) e.ms
    let t := e.reviewed c new
    ∃ l, t.group (chanGroup c) = { x with level := l, busy := (t.group (chanGroup c)).busy } ∧
      (l = .alarm ↔ x.level ≠ .trip ∧ x.asksAlarm) ∧
      (l ≠ x.level → ∀ m, (t.port m).Told ⟨e.ms, .groupLevel (chanGroup c) l x.firstOut⟩) := by
  intro x t
  have hbefore := e.rewritten_group c new (chanGroup c)
  have hms : (e.rewritten c new).ms = e.ms := (e.rewritten_same c new).ms
  have hend : CauseEnded (e.rewritten c new) t (chanGroup c) (.linkSilent w) := by
    change CauseEnded _ (e.reviewed c new) _ _
    rw [e.reviewed_of_reviewsLink c new h]
    exact State.deactivate_ended _ _ _
  have hlevel : ((e.rewritten c new).group (chanGroup c)).level = x.level := by rw [hbefore]; rfl
  have hfirst : ((e.rewritten c new).group (chanGroup c)).firstOut = x.firstOut := by
    rw [hbefore]
    exact (GroupRec.without_firstOut _ _ _).symm
  have hrecord : t.group (chanGroup c) =
      { x with level := (t.group (chanGroup c)).level, busy := (t.group (chanGroup c)).busy } := by
    refine hend.record.trans ?_
    rw [hbefore, hms]
    rfl
  have hasks : (t.group (chanGroup c)).asksAlarm ↔ x.asksAlarm := by rw [hrecord]; rfl
  obtain ⟨htrip, halarm⟩ := hend.level
  rw [hlevel] at htrip halarm
  refine ⟨(t.group (chanGroup c)).level, hrecord, ?_, fun hne m => ?_⟩
  · by_cases hx : x.level = .trip
    · simp [htrip.mpr hx, hx]
    · rw [halarm hx, hasks, and_iff_right hx]
  · have htold := hend.groupLevel (by rwa [hlevel]) m
    rwa [hms, hfirst] at htold

/-! ### Step 5 -/

theorem Readers.has_add (r : Readers) (m n : Master) : (r.add m).has n = true ↔ m = n ∨ r.has n = true := by
  cases m <;> cases n <;> simp [Readers.add, Readers.has]

theorem MapEntry.handedTo_has (x : MapEntry) (m : Master) :
    (x.handedTo new).readers.has m = true ↔ new = some m ∨ x.readers.has m = true := by
  unfold MapEntry.handedTo
  cases new with
  | none => simp
  | some n => simp [Readers.has_add]

/-- R52 step 5: HANDOVER_DONE goes to the old and the new writer and to the readers. -/
theorem State.hearsHandover_iff (m : Master) : e.hearsHandover c new m = true ↔
    (e.entry c).writer = some m ∨ new = some m ∨ (e.entry c).readers.has m = true := by
  rw [State.hearsHandover, Bool.or_eq_true, State.reviewed_entry, if_pos rfl, MapEntry.handedTo_has]
  simp only [List.contains_iff_mem, List.mem_cons, List.not_mem_nil, or_false, eq_comm (a := some m)]
  tauto

theorem State.changeWriter_port (m : Master) : (e.changeWriter c new).port m =
    if (e.entry c).writer = some m ∨ new = some m ∨ (e.entry c).readers.has m = true then
      ((e.reviewed c new).port m).append ⟨e.ms, .handoverDone c (e.entry c).writer new⟩
    else (e.reviewed c new).port m := by
  have hms : (e.reviewed c new).ms = e.ms := (e.reviewed_same c new).ms
  rw [State.changeWriter_eq_queue, State.port_queue, hms]
  simp only [State.hearsHandover_iff]

/-- R52: a change of the writer, step by step. -/
theorem State.changeWriter_changed : WriterChanged e (e.changeWriter c new) c new := by
  have hremoves : OnlyRemoves e (e.changeWriter c new) :=
    (e.reviewed_onlyRemoves c new).queued (e.hearsHandover c new) _
  refine {
    entry := (e.reviewed_entry c new c).trans (if_pos rfl)
    others := fun d hdc => (e.reviewed_entry c new d).trans (if_neg hdc)
    same := ?same
    stack := fun d hd => ?stack
    alarms := fun w hw a ha => ?alarms
    folded := hremoves.folded
    kept := hremoves.kept
    unit := hremoves.unit
    tsm := hremoves.tsm
    swu := hremoves.swu
    group := fun g hg => e.reviewed_group_stays c new hg
    reviewed := fun w hw => ?reviewed
    told := fun m hm => ?told
    queue := hremoves.queue
    quiet := fun hstack hnone m => ?quiet }
  case same =>
    exact (e.reviewed_same c new).trans ((State.queue_reacts _ (e.hearsHandover c new) _).same.setMap e.map)
  case stack =>
    rw [State.changeWriter_chan, ← e.rewritten_stack c new d]
    rcases e.reviewed_cases c new with ⟨w, hw, _⟩ | ⟨_, heq⟩
    · rw [e.reviewed_stack c new hw, if_neg]
      rintro ⟨a, ha, had⟩
      exact hd w hw a ha had
    · rw [heq]
  case alarms =>
    rw [State.changeWriter_chan, e.reviewed_stack c new hw, if_pos ⟨a, ha, rfl⟩, e.rewritten_stack]
    split
    case isTrue hac => simp [hac, List.filter_filter]
    case isFalse hac => simp [hac]
  case reviewed =>
    obtain ⟨l, hgroup, halarm, htold⟩ := e.reviewed_group c new hw
    exact ⟨l, hgroup, halarm, fun hne m => State.queue_keeps_told _ _ _ m (htold hne m)⟩
  case told =>
    rw [State.changeWriter_port, if_pos hm]
    exact Port.append_told _ _
  case quiet =>
    have heq := e.reviewed_of_not_reviewsLink c new hnone
    rw [State.changeWriter_chan, heq] at hstack
    have hport : (e.reviewed c new).port m = e.port m := by
      rw [heq]
      simp only [State.port, e.rewritten_ports c new hstack]
    rw [State.changeWriter_port, hport]

end Sys2Proof.Machine
end

section
/-! CLAIM by the first row of its table (R53). -/

namespace Sys2Proof.Machine

theorem channelField_ofNat (c : ChanId) : channelField (BitVec.ofNat 8 c) = some c := by revert c; decide

/-- R161: once the ports are out of start-up, the owner decides in the state after the valid frame. -/
theorem State.takeRequest_running {s : State} (hrun : s.run = .running) (m : Master) (tag : Byte) (owner : State → Answer) :
    s.takeRequest m tag owner =
      (owner (s.heard m)).1.respond m tag (owner (s.heard m)).2.1 (owner (s.heard m)).2.2 :=
  if_pos hrun

/-- CLAIM with what its owner makes of it. -/
theorem exec_claim {s : State} (hrun : s.run = .running) (m : Master) (tag : Byte) (c : ChanId) {a : Answer}
    (ha : ownClaim m (BitVec.ofNat 8 c) (s.heard m) = a) :
    exec (.claim m tag (BitVec.ofNat 8 c)) s = .next (a.1.respond m tag a.2.1 a.2.2) := by
  rw [← ha]
  exact congrArg Host.Outcome.next (State.takeRequest_running hrun m tag _)

/-- R53: a channel without a writer. -/
theorem ownClaim_of_free {e : State} {c : ChanId} (hw : (e.entry c).writer = none) (m : Master) :
    ownClaim m (BitVec.ofNat 8 c) e = (e.changeWriter c (some m)).answer .ok := by
  simp only [ownClaim, channelField_ofNat, State.index, hw, reduceCtorEq, if_false]

/-- R53: a channel with a writer. -/
theorem ownClaim_of_held {e : State} {c : ChanId} {w : Master} (hw : (e.entry c).writer = some w) (m : Master) :
    ownClaim m (BitVec.ofNat 8 c) e =
      if w = m then e.answer .ok
      else if (e.entry c).locked = true then e.answer .locked
      else if (e.port w).silent = false then e.answer .heldByOther
      else if (e.entry c).readers.has m = false then e.answer .heldByOther
      else (e.changeWriter c (some m)).answer .ok := by
  simp only [ownClaim, channelField_ofNat, State.index, hw, Option.some.injEq]

/-- Settles O41: the rows of R53 in their order, a granted one by the change of the writer. -/
theorem claimByTable : Obligations.ClaimByTable := by
  intro s m tag c hrun e o granted
  have hgranted (hrow : ownClaim m (BitVec.ofNat 8 c) e = (e.changeWriter c (some m)).answer .ok) : granted :=
    ⟨_, exec_claim hrun m tag c hrow, e.changeWriter_changed c (some m)⟩
  split
  case h_1 hw => exact hgranted (ownClaim_of_free hw m)
  case h_2 w hw =>
    have hrow := ownClaim_of_held hw m
    split_ifs with hown hlocked hactive hreader
    · exact exec_claim hrun m tag c (by rw [hrow, if_pos hown])
    · exact exec_claim hrun m tag c (by rw [hrow, if_neg hown, if_pos hlocked])
    · exact exec_claim hrun m tag c (by rw [hrow, if_neg hown, if_neg hlocked, if_pos hactive])
    · exact exec_claim hrun m tag c (by rw [hrow, if_neg hown, if_neg hlocked, if_neg hactive, if_pos hreader])
    · exact hgranted (by rw [hrow, if_neg hown, if_neg hlocked, if_neg hactive, if_neg hreader])

end Sys2Proof.Machine
end

section
/-! The bases of the governor valves (R111): where each leaves 0 and where it reaches 1000. -/

namespace Sys2Proof.Machine

variable {p : TsmParams} {d : Nat}

/-- R109: the ranges of S and V bound where GV2 begins to open. -/
theorem TsmParams.gv2Start_bounds (hlow : 100 ≤ p.s) (hhigh : p.s ≤ 900) (hoverlap : p.v ≤ p.s / 2) :
    50 ≤ p.s - p.v ∧ p.s - p.v ≤ 900 := by omega

theorem TsmParams.gv1_at_s (hs : 0 < p.s) : p.gv1 p.s = 1000 := by
  rw [TsmParams.gv1, Nat.mul_div_cancel_left 1000 hs, Nat.min_self]

theorem TsmParams.gv1_lt_of_lt_s (hd : d < p.s) : p.gv1 d < 1000 := by
  have hquot : d * 1000 / p.s < 1000 := Nat.div_lt_of_lt_mul (Nat.mul_lt_mul_of_pos_right hd (by decide))
  exact Nat.lt_of_le_of_lt (Nat.min_le_right _ _) hquot

theorem TsmParams.gv2_of_le (hd : d ≤ p.s - p.v) : p.gv2 d = 0 := if_pos hd

theorem TsmParams.gv2_of_gt (hd : p.s - p.v < d) :
    p.gv2 d = min 1000 ((d - (p.s - p.v)) * 1000 / (1000 - (p.s - p.v))) :=
  if_neg (Nat.not_le_of_gt hd)

/-- One step of the demand opens GV2, as the divisor is at most the factor 1000. -/
theorem TsmParams.gv2_pos_of_gt (hx : p.s - p.v < 1000) (hd : p.s - p.v < d) : 0 < p.gv2 d := by
  have hquot : 0 < (d - (p.s - p.v)) * 1000 / (1000 - (p.s - p.v)) := Nat.div_pos (by omega) (by omega)
  rw [TsmParams.gv2_of_gt hd]
  exact Nat.lt_min.mpr ⟨by decide, hquot⟩

theorem TsmParams.gv2_eq_zero_iff (hx : p.s - p.v < 1000) : p.gv2 d = 0 ↔ d ≤ p.s - p.v := by
  refine ⟨fun hzero => ?_, TsmParams.gv2_of_le⟩
  by_contra hgt
  exact (TsmParams.gv2_pos_of_gt hx (Nat.lt_of_not_le hgt)).ne' hzero

theorem TsmParams.gv2_at_1000 (hx : p.s - p.v < 1000) : p.gv2 1000 = 1000 := by
  rw [TsmParams.gv2_of_gt hx, Nat.mul_div_cancel_left 1000 (Nat.sub_pos_of_lt hx), Nat.min_self]

/-- Settles O32, from the equations of the two valves and the bounds of S - V. -/
theorem valveBases : Obligations.ValveBases := by
  intro p d hlow hhigh hoverlap _
  obtain ⟨hxlow, hxhigh⟩ := TsmParams.gv2Start_bounds hlow hhigh hoverlap
  have hx : p.s - p.v < 1000 := by omega
  have hs : 0 < p.s := by omega
  refine ⟨rfl, TsmParams.gv2_of_le, TsmParams.gv2_of_gt, hxlow, hxhigh, by omega, by omega, ?gv1Full,
    TsmParams.gv1_lt_of_lt_s, TsmParams.gv2_eq_zero_iff hx, ?gv2Full⟩
  case gv1Full =>
    rintro rfl
    exact TsmParams.gv1_at_s hs
  case gv2Full =>
    rintro rfl
    exact TsmParams.gv2_at_1000 hx

end Sys2Proof.Machine
end

section
/-! The state right after a power-on reset, record by record (R26, R45, R46, R65, R85, R107, R122, R148, R174, R178). -/

namespace Sys2Proof.Machine

@[simp] theorem State.initial_chan (p : Profile) (c : ChanId) : (State.initial p).chan c = Channel.init p.chans[c] := by
  simp [State.initial, State.chan]

@[simp] theorem State.initial_port (p : Profile) (m : Master) :
    (State.initial p).port m = Port.init p.silence[masterIdx m] := by
  simp [State.initial, State.port]

@[simp] theorem State.initial_entry (p : Profile) (c : ChanId) :
    (State.initial p).entry c = MapEntry.init p.writers[c] p.readers[c] := by
  simp [State.initial, State.entry]

@[simp] theorem State.initial_group (p : Profile) (g : Group) :
    (State.initial p).group g = GroupRec.init p.tripLists[groupIdx g] := by
  simp [State.initial, State.group]

@[simp] theorem State.initial_unit (p : Profile) (u : UnitId) : (State.initial p).unit u = UnitRec.init p.units[u] := by
  simp [State.initial, State.unit]

@[simp] theorem State.initial_analog (p : Profile) (n : Fin 16) :
    (State.initial p).analog n = Analog.init p.ais[n] := by
  simp [State.initial, State.analog]

@[simp] theorem State.initial_pulse (p : Profile) (j : PulseId) : (State.initial p).pulse j = Pulse.init p.pis[j] := by
  simp [State.initial, State.pulse]

@[simp] theorem State.initial_guard (p : Profile) (k : GuardId) : (State.initial p).guard k = Guard.init := by
  cases k <;> simp [State.initial, State.guard, Swu.init]

/-! ### The laws at reset -/

theorem stackOk_nil : StackOk [] := by simp [StackOk]

theorem Profile.default_tripLists (g : Group) : Profile.default.tripLists[(groupIdx g).val] = defaultTripList g := by
  simp [Profile.default]

/-- Table 10-4: the safe level and the fallback of every channel, from which its records begin, are 0. -/
theorem Profile.default_chan (c : ChanId) : Profile.default.chans[c.val] = ChanParams.default c := by
  simp [Profile.default]

theorem Profile.default_floor (k : GuardId) : ((State.initial Profile.default).guardParams k).floor ≤ 999 ∧
    1 ≤ ((State.initial Profile.default).guardParams k).step := by
  cases k <;> simp [State.guardParams, State.initial, Swu.init, Profile.default, SwuParams.default]

theorem defaultTripList_ok (g : Group) : (∀ x ∈ defaultTripList g, chanGroup x.channel = g) ∧
    ((defaultTripList g).map (·.channel)).Nodup ∧ ∀ x ∈ defaultTripList g, x.value ≤ 1000 := by
  cases g <;> decide

theorem GroupRec.init_logOk (f : Cause → CauseClass) (l : List TripItem) : (GroupRec.init l).LogOk f := by
  simp [GroupRec.LogOk, GroupRec.init]

/-- Settles O5, law by law, from the records of the reset state. -/
theorem resetMeetsLaws : Obligations.ResetMeetsLaws := by
  have hinit : State.reset = State.initial Profile.default := rfl
  refine ⟨?queues, ?stackForms, ?targets, ?map, ?logs, ?levels, ?trips, ?tripStates, ?atRest, ?busy, ?guards, ?ceilings,
    ⟨rfl, rfl⟩, ?values, ?meter, ?tripLists⟩ <;> rw [hinit]
  case queues => exact fun m => by simp [Port.init]
  case stackForms => exact fun c => by simpa [Channel.init] using stackOk_nil
  case targets => exact fun c => by simp [Channel.init, Channel.fold, foldStack, UnitRec.init, UnitRec.foldsFromBase,
    Profile.default_chan, ChanParams.default]
  case map => exact fun c => by simp [MapEntry.init, Profile.default]
  case logs => exact fun g => by simpa using GroupRec.init_logOk _ _
  case levels => exact fun g => by simp [GroupRec.init]
  case trips => exact fun g => by simp [GroupRec.init]
  case tripStates => exact fun u => by simp [UnitRec.init, Profile.default, UnitParams.default]
  case atRest => exact fun g _ u _ => by simp [UnitRec.init, UnitRec.atRest]
  case busy => exact fun g => by simp [GroupRec.init, UnitRec.init]
  case guards => exact fun c => by simp [Channel.init, hasSource, Guard.init]
  case ceilings =>
    refine fun k => ⟨(Profile.default_floor k).1, (Profile.default_floor k).2, ?_, ?_⟩ <;> simp [Channel.init, Guard.init]
  case values =>
    refine ⟨fun c => ?_, fun g => ?_, ?_, fun k => ?_⟩
    · simp [Channel.init, Profile.default_chan, ChanParams.default]
    · simpa [GroupRec.init, Profile.default_tripLists] using (defaultTripList_ok g).2.2
    · simp [State.initial, Profile.default]
    · simpa [Guard.init] using (Profile.default_floor k).1.trans (by decide)
  case meter => unfold State.MeterOk; decide
  case tripLists =>
    intro g
    have hlist : ((State.initial Profile.default).group g).tripList = defaultTripList g := by
      simpa [GroupRec.init] using Profile.default_tripLists g
    rw [hlist]
    exact ⟨(defaultTripList_ok g).1, (defaultTripList_ok g).2.1⟩

/-- Settles O4, from the records of `State.initial` with the defaults. -/
theorem resetLeaves : Obligations.ResetLeaves := by
  have hinit : State.reset = State.initial Profile.default := rfl
  simp only [Obligations.ResetLeaves, hinit, State.initial_chan, State.initial_port, State.initial_entry,
    State.initial_group, State.initial_unit, State.initial_analog, State.initial_pulse, State.initial_guard]
  refine ⟨rfl, rfl, rfl, rfl, rfl, rfl, fun c => ⟨rfl, ?pin⟩, fun m => ⟨rfl, rfl⟩, fun g => rfl, rfl, fun c => rfl, rfl,
    rfl, rfl, fun n => rfl, rfl, ?analogs, ?pulses, fun j => rfl, fun d => ?discrete, fun u => rfl, rfl, rfl, rfl, rfl,
    rfl, rfl, rfl, rfl, fun i => ?calcite, fun k => rfl⟩
  case pin =>
    unfold Channel.pin
    split <;> rfl
  case analogs => simp [State.initial, Snapshot.init]
  case pulses => simp [State.initial, Snapshot.init]
  case discrete => simp [State.initial, Discrete.init]
  case calcite => simp [State.initial, Swu.init]

end Sys2Proof.Machine
end

section
/-! What every step does to the override stacks (R16, R19): they take a push or lose entries. -/

namespace Sys2Proof.Machine

variable {s t : State}

/-- What one move makes of a stack: it stays, it loses entries, or it takes a push. -/
inductive StackMoves (l : List Entry) : List Entry → Prop
  | stays : StackMoves l l
  | loses (p : Entry → Bool) : StackMoves l (l.filter p)
  | takes (e : Entry) (h : e.source = .trip → e.kind = .value) : StackMoves l (pushEntry e l)

theorem StackOk.moves {l k : List Entry} (h : StackOk l) (hm : StackMoves l k) : StackOk k := by
  cases hm with
  | stays => exact h
  | loses p => exact h.filter p
  | takes e he => exact h.push he

theorem stackMoves_of_eq {l k : List Entry} (h : k = l) : StackMoves l k := h ▸ .stays

theorem State.refold_stack (s : State) (c d : ChanId) : ((s.refold c).chan d).stack = (s.chan d).stack := by
  rw [State.refold_eq, State.chan_modChan]
  split
  case isTrue h => rw [(Channel.retarget_spec _ _ _).2.2.1, h]
  case isFalse => rfl

theorem State.refoldUnit_stack (s : State) (u : UnitId) (d : ChanId) :
    ((s.refoldUnit u).chan d).stack = (s.chan d).stack :=
  State.each_induct (P := fun t => (t.chan d).stack = (s.chan d).stack) _ _
    (fun c _ t ht => (t.refold_stack c d).trans ht) s rfl

theorem State.filter_stack (s : State) (c d : ChanId) (p : Entry → Bool) :
    (((s.modChan c fun ch => { ch with stack := ch.stack.filter p }).refold c).chan d).stack =
      if d = c then (s.chan c).stack.filter p else (s.chan d).stack := by
  rw [State.refold_stack, State.chan_modChan]
  split <;> rfl

theorem State.recordWith_chan (s : State) (g : Group) (c : Cause) (cls : CauseClass) (b : Bool) (r : GroupRec × Recorded)
    (d : ChanId) : (s.recordWith g c cls b r).chan d = s.chan d := by
  unfold State.recordWith
  dsimp only
  split <;> rfl

theorem StackMoves.ite {c d : ChanId} {l k : List Entry} (h : d = c → StackMoves (s.chan d).stack k)
    (hl : l = if d = c then k else (s.chan d).stack) : StackMoves (s.chan d).stack l := by
  rw [hl]
  split
  · exact h ‹_›
  · exact .stays

/-- A reaction moves a stack by one push or by one removal. -/
theorem Prim.stack (h : Prim s t) (d : ChanId) : StackMoves (s.chan d).stack (t.chan d).stack := by
  cases h with
  | queue | note | deactivate | busy | tsm | swu => exact .stays
  | unit u st ph f => exact stackMoves_of_eq (State.refoldUnit_stack _ u d)
  | pop c p => exact .ite (fun h => h ▸ .loses p) (s.filter_stack c d p)
  | push c e _ ht =>
    exact .ite (fun h => h ▸ .takes e fun a => absurd a ht) ((State.refold_stack _ c d).trans (s.pushRaw_stack c d e))
  | pushTrip c v => exact .ite (fun h => h ▸ .takes _ fun _ => rfl) (s.pushTrip_stack c d v)
  | scalePut k x e _ he =>
    have hpush := (State.refold_stack _ k.chan d).trans ((s.setGuard k x).pushRaw_stack k.chan d e)
    simp only [State.setGuard_stack] at hpush
    exact .ite (fun h => h ▸ .takes e fun a => by rw [he] at a; cases a) hpush
  | scaleDrop k x =>
    have hdrop := (s.setGuard k x).filter_stack k.chan d fun e => decide (e.source ≠ .scale)
    simp only [State.setGuard_stack] at hdrop
    exact .ite (fun h => h ▸ .loses _) hdrop
  | guardNote k x => exact stackMoves_of_eq (s.setGuard_stack k x d)
  | record => exact stackMoves_of_eq (by rw [State.record, State.recordWith_chan])
  | momentary => exact stackMoves_of_eq (by rw [State.recordWith_chan])
  | relevel g => exact stackMoves_of_eq (by rw [State.relevel_chan])

/-! ### Steps -/

theorem Prim.stacksOk (h : Prim s t) (hs : s.StacksOk) : t.StacksOk := fun d => (hs d).moves (h.stack d)

theorem Reacts.stacksOk (h : Reacts s t) (hs : s.StacksOk) : t.StacksOk := h.keep (fun _ _ => Prim.stacksOk) hs

theorem stacksOk_of_stack_eq (h : ∀ d, (t.chan d).stack = (s.chan d).stack) (hs : s.StacksOk) : t.StacksOk := fun d =>
  (h d).symm ▸ hs d

/-- R97: after the level, a trip entry is a reaction. -/
theorem State.tripSteps_reacts (s : State) (g : Group) : Reacts (s.setLevel g .trip) (s.tripSteps g) :=
  (State.pushTripList_reacts _ g).trans (State.forceGroup_reacts _ g)

theorem State.acknowledged_chan (s : State) (g : Group) (d : ChanId) :
    (((s.modGroup g GroupRec.acknowledge).giveRecords g).chan d) = s.chan d :=
  State.each_frame (fun q => q.chan d) _ (fun x q => q.giveRecord g x) (fun _ _ => rfl) _

theorem Turn.stacksOk (h : Turn s t) (hs : s.StacksOk) : t.StacksOk := by
  cases h with
  | react t h => exact h.stacksOk hs
  | other t h => exact stacksOk_of_stack_eq (fun d => (h.chan d).2.2.1) hs
  | base c v =>
    refine stacksOk_of_stack_eq (fun d => ?_) hs
    rw [State.setBase, State.refold_stack, State.chan_modChan]
    split
    case isTrue h => rw [h]
    case isFalse => rfl
  | ramp c up =>
    refine stacksOk_of_stack_eq (fun d => ?_) hs
    rw [State.chan_modChan]
    split
    case isTrue h => rw [(Channel.setApplied_spec _ _).2.2.1, h]
    case isFalse => rfl
  | known g c => exact stacksOk_of_stack_eq (fun d => by rw [State.record, State.recordWith_chan]) hs
  | trip g c =>
    refine (State.tripSteps_reacts _ g).stacksOk ?_
    exact stacksOk_of_stack_eq (fun d => by
      change ((s.record g c .trip).chan d).stack = _
      rw [State.record, State.recordWith_chan]) hs
  | release g =>
    refine State.dropTrips_keep s (P := State.StacksOk) (fun _ _ => Prim.stacksOk) g (fun q c _ hq d => ?_) hs
    refine (hq d).moves (.ite (fun h => h ▸ .loses _) (q.filter_stack c d _))
  | ack g => exact stacksOk_of_stack_eq (fun d => by rw [State.acknowledged_chan]) hs

theorem Channel.init_stack (p : ChanParams) : (Channel.init p).stack = [] := rfl

theorem Fresh.stack (h : Fresh s t) (d : ChanId) : (t.chan d).stack = [] := by
  cases h with
  | powerOn | warm => simp [State.powerOn, State.warm, State.reset, State.initial, State.chan, Channel.init]
  | setUp a => simp [State.setUp, State.chan, Channel.setUp, Channel.init, (Channel.retarget_spec _ _ _).2.2.1]

/-- Settles O9: a reset and a load begin with empty stacks, and every turn pushes or removes. -/
theorem stepKeepsStacks : Obligations.StepKeepsStacks := fun _ _ hs hstep =>
  step_keep (fun _ _ => Turn.stacksOk) (fun _ _ hf _ d => (hf.stack d).symm ▸ stackOk_nil) hstep hs

end Sys2Proof.Machine
end

section
/-! What every step keeps of the targets and the applied values (R8 to R10, R12, R14, R20, R21). -/

namespace Sys2Proof.Machine

variable {s t : State}

/-! ### One channel -/

/-- R8 to R10, R14: what a channel brings to a recomputation of its fold, in whatever state its unit then is. -/
def Channel.Ready (ch : Channel) : Prop :=
  (ch.params.mode = .oneshot → ch.applied = ch.target ∧ (ch.target = 0 → ch.oneShot = .idle)) ∧
  ∀ e ∈ ch.stack, e.source = .trip → ch.applied = e.value

/-- What `ChannelsFollow` says of one channel, whose fold starts from the base or not, and whose unit is at rest or not. -/
def Channel.Follows (ch : Channel) (fromBase atRest : Bool) : Prop :=
  ch.target = ch.fold fromBase ∧
  (ch.params.mode = .oneshot → ch.applied = ch.target ∧ (ch.target = 0 → ch.oneShot = .idle)) ∧
  (atRest = true → ch.applied = ch.target) ∧
  ∀ e ∈ ch.stack, e.source = .trip → ch.applied = e.value

theorem State.ChannelsFollow.chan (h : s.ChannelsFollow) (c : ChanId) :
    (s.chan c).Follows (s.unit (unitOf c)).foldsFromBase (s.unit (unitOf c)).atRest := h c

variable {ch : Channel} {b r : Bool}

theorem Channel.Follows.ready (h : ch.Follows b r) : ch.Ready := ⟨h.2.1, h.2.2.2⟩

theorem Channel.Ready.setStack (h : ch.Ready) {l : List Entry} (hl : ∀ e ∈ l, e.source = .trip → e ∈ ch.stack) :
    { ch with stack := l }.Ready :=
  ⟨h.1, fun e he ht => h.2 e (hl e he ht) ht⟩

/-- R14: under a TRIP entry the fold is its value, wherever it starts. -/
theorem Channel.fold_trip (hs : StackOk ch.stack) {e : Entry} (he : e ∈ ch.stack) (ht : e.source = .trip) :
    ch.fold b = e.value := hs.fold_trip he ht b _

/-- R8 to R10: a ONESHOT channel stands at the target it takes, IDLE at 0. -/
theorem Channel.oneShotTarget_idle (ch : Channel) (v : Nat) (hv : v = 0) : (ch.oneShotTarget v).oneShot = .idle := by
  simp [Channel.oneShotTarget, hv]

/-- R21: a recomputed fold is followed. -/
theorem Channel.retarget_follows (hs : StackOk ch.stack) (h : ch.Ready) : (ch.retarget r (ch.fold b)).Follows b r := by
  obtain ⟨hparams, hbase, hstack, htarget⟩ := Channel.retarget_spec ch r (ch.fold b)
  have hfold : (ch.retarget r (ch.fold b)).fold b = ch.fold b := Channel.fold_congr hparams hbase hstack b
  have htrip (e : Entry) (he : e ∈ ch.stack) (ht : e.source = .trip) : ch.fold b = e.value := Channel.fold_trip hs he ht
  refine ⟨htarget.trans hfold.symm, ?_⟩
  rw [hparams, hstack, htarget]
  by_cases hm : ch.params.mode = .oneshot
  · have hshot : (ch.retarget r (ch.fold b)).applied = ch.fold b ∧
        (ch.fold b = 0 → (ch.retarget r (ch.fold b)).oneShot = .idle) := by
      unfold Channel.retarget
      rw [if_pos hm]
      split
      case isTrue heq => rw [heq]; exact h.1 hm
      case isFalse => exact ⟨(Channel.oneShotTarget_spec _ _).2.2.2.2, Channel.oneShotTarget_idle ch _⟩
    exact ⟨fun _ => hshot, fun _ => hshot.1, fun e he ht => hshot.1.trans (htrip e he ht)⟩
  · unfold Channel.retarget
    rw [if_neg hm]
    cases r with
    | true =>
      have happlied := (Channel.setApplied_spec { ch with target := ch.fold b } (ch.fold b)).2.2.2.2.1
      exact ⟨fun a => absurd a hm, fun _ => happlied, fun e he ht => happlied.trans (htrip e he ht)⟩
    | false => exact ⟨fun a => absurd a hm, fun a => by simp at a, fun e he ht => h.2 e he ht⟩

/-- R14: a channel that takes a TRIP entry stands at its value at once. -/
theorem Channel.tripJump_follows (hs : StackOk ch.stack) {e : Entry} (he : e ∈ ch.stack) (ht : e.source = .trip)
    (hshot : ch.params.mode = .oneshot → ch.applied = ch.target ∧ (ch.target = 0 → ch.oneShot = .idle)) :
    (ch.tripJump e.value).Follows b r := by
  obtain ⟨hparams, hbase, hstack, htarget⟩ := Channel.tripJump_spec ch e.value
  have hfold : (ch.tripJump e.value).fold b = e.value :=
    (Channel.fold_congr hparams hbase hstack b).trans (Channel.fold_trip hs he ht)
  have happlied : (ch.tripJump e.value).applied = e.value ∧
      (ch.params.mode = .oneshot → e.value = 0 → (ch.tripJump e.value).oneShot = .idle) := by
    unfold Channel.tripJump
    split
    case isTrue hm =>
      split
      case isTrue heq => rw [heq]; exact ⟨(hshot hm).1, fun _ => (hshot hm).2⟩
      case isFalse => exact ⟨(Channel.oneShotTarget_spec _ _).2.2.2.2, fun _ => Channel.oneShotTarget_idle ch _⟩
    case isFalse hm => exact ⟨(Channel.jumpApplied_spec _ _).2.2.2.2.1, fun a => absurd a hm⟩
  refine ⟨htarget.trans hfold.symm, ?_⟩
  rw [hparams, hstack, htarget]
  refine ⟨fun hm => ⟨happlied.1, happlied.2 hm⟩, fun _ => happlied.1, fun x hx hxt => happlied.1.trans ?_⟩
  exact (Channel.fold_trip (b := b) hs he ht).symm.trans (Channel.fold_trip hs hx hxt)

/-! ### What the operations on a state leave of a channel -/

/-- R18: what the owner of a discarded entry makes of it reaches no channel, no unit and no other field that reads none of
the records, the guards and the queues. -/
theorem State.discarded_frame {β : Type} (p : State → β) (hqueue : ∀ q who b, p (State.queue q who b) = p q)
    (hgroup : ∀ q g f, p (State.modGroup q g f) = p q) (hguard : ∀ q k x, p (State.setGuard q k x) = p q)
    (s : State) (c : ChanId) (e : Entry) : p (s.discarded c e) = p s := by
  have hlose (k : GuardId) : p (s.loseGuard k) = p s := by
    unfold State.loseGuard State.tellGuard State.queueReaders
    dsimp only
    split <;> simp only [hqueue, hguard]
  have hmomentary (q : State) (g : Group) (x : Cause) : p (q.momentary g x) = p q := by
    unfold State.momentary State.relevel State.setLevel State.recordWith State.queueAll
    dsimp only
    split <;> split <;> simp only [hqueue, hgroup]
  unfold State.discarded
  dsimp only
  split
  · rw [hmomentary]
    split
    · exact hlose _
    · rfl
  · exact hqueue _ _ _

theorem State.setGuard_ch (s : State) (k : GuardId) (x : Guard) : (s.setGuard k x).ch = s.ch := by cases k <;> rfl
theorem State.setGuard_units (s : State) (k : GuardId) (x : Guard) : (s.setGuard k x).units = s.units := by cases k <;> rfl
theorem State.setGuard_chan (s : State) (k : GuardId) (x : Guard) (d : ChanId) : (s.setGuard k x).chan d = s.chan d := by
  cases k <;> rfl
theorem State.setGuard_unit (s : State) (k : GuardId) (x : Guard) (u : UnitId) : (s.setGuard k x).unit u = s.unit u := by
  cases k <;> rfl

theorem State.pushRaw_unit (s : State) (c : ChanId) (e : Entry) (u : UnitId) : (s.pushRaw c e).unit u = s.unit u := by
  unfold State.pushRaw
  split
  · exact State.discarded_frame (fun q => q.unit u) (fun _ _ _ => rfl) (fun _ _ _ => rfl) (fun q k x => q.setGuard_unit k x u)
      s c _
  · rfl

theorem State.pushRaw_chan (s : State) (c d : ChanId) (e : Entry) : (s.pushRaw c e).chan d =
    if d = c then { s.chan c with stack := pushEntry e (s.chan c).stack } else s.chan d := by
  have hdiscarded (x : Entry) (i : ChanId) : (s.discarded c x).chan i = s.chan i :=
    State.discarded_frame (fun q => q.chan i) (fun _ _ _ => rfl) (fun _ _ _ => rfl) (fun q k x => q.setGuard_chan k x i) s c x
  unfold State.pushRaw
  split <;> simp only [State.chan_modChan, hdiscarded]

/-- R67: each channel of the unit recomputes its fold once. -/
theorem State.refoldUnit_chan (s : State) (u : UnitId) (d : ChanId) :
    (s.refoldUnit u).chan d = if unitOf d = u then (s.refold d).chan d else s.chan d := by
  have key (l : List ChanId) (hl : l.Nodup) (q : State) :
      (q.each l fun c q => q.refold c).chan d = if d ∈ l then (q.refold d).chan d else q.chan d := by
    induction l generalizing q with
    | nil => rfl
    | cons c l ih =>
      obtain ⟨hc, hl⟩ := List.nodup_cons.mp hl
      have hother (hdc : d ≠ c) : (q.refold c).chan d = q.chan d := by rw [State.refold_eq, State.chan_modChan, if_neg hdc]
      rw [State.each_cons, ih hl]
      by_cases hdc : d = c
      · subst hdc
        simp [hc]
      · have htwice : ((q.refold c).refold d).chan d = (q.refold d).chan d := by
          simp only [State.refold_eq, State.chan_modChan, if_pos, if_neg hdc, State.modChan_unit]
        rw [htwice, hother hdc]
        simp [hdc]
  have hnodup : (unitChannels u).Nodup := by revert u; decide
  have hmem : d ∈ unitChannels u ↔ unitOf d = u := ⟨unitOf_of_mem, fun h => h ▸ mem_unitChannels d⟩
  unfold State.refoldUnit
  rw [key _ hnodup]
  simp only [hmem]

/-! ### Moves -/

theorem State.refold_chan_self (s : State) (c : ChanId) : (s.refold c).chan c =
    (s.chan c).retarget (s.unit (unitOf c)).atRest ((s.chan c).fold (s.unit (unitOf c)).foldsFromBase) := by
  rw [State.refold_eq, State.chan_modChan, if_pos rfl]

/-- R21: a recomputation keeps the channels in step, whatever became of the one that recomputes. -/
theorem State.refold_follows {q : State} {c : ChanId} (hs : StackOk (q.chan c).stack) (hready : (q.chan c).Ready)
    (hothers : ∀ d, d ≠ c → (q.chan d).Follows (q.unit (unitOf d)).foldsFromBase (q.unit (unitOf d)).atRest) :
    (q.refold c).ChannelsFollow := by
  intro d
  by_cases hd : d = c
  · subst hd
    have h := Channel.retarget_follows (b := (q.unit (unitOf d)).foldsFromBase) (r := (q.unit (unitOf d)).atRest) hs hready
    rw [← State.refold_chan_self] at h
    exact h
  · have hchan : (q.refold c).chan d = q.chan d := by rw [State.refold_eq, State.chan_modChan, if_neg hd]
    change ((q.refold c).chan d).Follows _ _
    rw [hchan]
    exact hothers d hd

theorem channelsFollow_of_eq (hchan : ∀ d, t.chan d = s.chan d) (hunit : ∀ u,
    (t.unit u).foldsFromBase = (s.unit u).foldsFromBase ∧ (t.unit u).atRest = (s.unit u).atRest) (h : s.ChannelsFollow) :
    t.ChannelsFollow := by
  intro d
  rw [hchan, (hunit _).1, (hunit _).2]
  exact h d

theorem UnitRec.flags_congr {x y : UnitRec} (hstate : x.state = y.state) (hphase : x.phase = y.phase) :
    x.foldsFromBase = y.foldsFromBase ∧ x.atRest = y.atRest := by
  simp [UnitRec.foldsFromBase, UnitRec.atRest, hstate, hphase]

theorem State.push_follows (hs : s.StacksOk) (h : s.ChannelsFollow) (c : ChanId) (e : Entry) (ht : e.source ≠ .trip) :
    ((s.pushRaw c e).refold c).ChannelsFollow := by
  have hpushed : (s.pushRaw c e).chan c = { s.chan c with stack := pushEntry e (s.chan c).stack } :=
    (s.pushRaw_chan c c e).trans (if_pos rfl)
  refine State.refold_follows ?_ ?_ fun d hd => ?_
  · rw [hpushed]
    exact (hs c).push fun a => absurd a ht
  · rw [hpushed]
    refine (h.chan c).ready.setStack fun x hx hxt => (mem_pushEntry hx).resolve_left fun hxe => ht (hxe ▸ hxt)
  · rw [State.pushRaw_chan, if_neg hd, State.pushRaw_unit]
    exact h d

theorem State.filter_follows (hs : s.StacksOk) (h : s.ChannelsFollow) (c : ChanId) (p : Entry → Bool) :
    ((s.modChan c fun ch => { ch with stack := ch.stack.filter p }).refold c).ChannelsFollow := by
  have hfiltered : (s.modChan c fun ch => { ch with stack := ch.stack.filter p }).chan c =
      { s.chan c with stack := (s.chan c).stack.filter p } := (s.chan_modChan c c _).trans (if_pos rfl)
  refine State.refold_follows ?_ ?_ fun d hd => ?_
  · rw [hfiltered]
    exact (hs c).filter p
  · rw [hfiltered]
    exact (h.chan c).ready.setStack fun x hx _ => List.mem_of_mem_filter hx
  · rw [State.chan_modChan, if_neg hd]
    exact h d

theorem State.pushTrip_follows (hs : s.StacksOk) (h : s.ChannelsFollow) (c : ChanId) (v : Nat) :
    (s.pushTrip c v).ChannelsFollow := by
  intro d
  have hpushed := s.pushRaw_chan c c ⟨.trip, .value, v, s.ms⟩
  unfold State.pushTrip
  rw [State.modChan_unit, State.pushRaw_unit, State.chan_modChan]
  split
  case isTrue hd =>
    subst hd
    rw [hpushed, if_pos rfl]
    exact Channel.tripJump_follows (e := ⟨.trip, .value, v, s.ms⟩) ((hs d).push fun _ => rfl) (mem_pushEntry_self _ _) rfl
      (h d).2.1
  case isFalse hd =>
    rw [State.pushRaw_chan, if_neg hd]
    exact h d

theorem State.unit_follows (hs : s.StacksOk) (h : s.ChannelsFollow) (u : UnitId) (f : UnitRec → UnitRec) :
    ((s.modUnit u f).refoldUnit u).ChannelsFollow := by
  intro d
  rw [State.refoldUnit_unit, State.refoldUnit_chan]
  split
  case isTrue hd =>
    rw [State.refold_chan_self]
    exact Channel.retarget_follows (hs d) (h.chan d).ready
  case isFalse hd =>
    rw [State.unit_modUnit, if_neg hd]
    exact h d

theorem State.setGuard_follows (h : s.ChannelsFollow) (k : GuardId) (x : Guard) : (s.setGuard k x).ChannelsFollow :=
  channelsFollow_of_eq (s.setGuard_chan k x) (fun u => by rw [State.setGuard_unit]; exact ⟨rfl, rfl⟩) h

theorem State.recordWith_unit (s : State) (g : Group) (c : Cause) (cls : CauseClass) (b : Bool) (r : GroupRec × Recorded)
    (u : UnitId) : (s.recordWith g c cls b r).unit u = s.unit u := by
  unfold State.recordWith
  dsimp only
  split <;> rfl

theorem State.recordWith_follows (h : s.ChannelsFollow) (g : Group) (c : Cause) (cls : CauseClass) (b : Bool)
    (r : GroupRec × Recorded) : (s.recordWith g c cls b r).ChannelsFollow :=
  channelsFollow_of_eq (s.recordWith_chan g c cls b r) (fun u => by rw [State.recordWith_unit]; exact ⟨rfl, rfl⟩) h

theorem State.relevel_unit (s : State) (g : Group) (u : UnitId) : (s.relevel g).unit u = s.unit u := by
  unfold State.relevel State.setLevel State.queueAll
  dsimp only
  split <;> rfl

theorem Prim.follows (h : Prim s t) (hs : s.StacksOk) (hf : s.ChannelsFollow) : t.ChannelsFollow := by
  cases h with
  | queue | deactivate | busy | tsm | swu => exact hf
  | note u f h =>
    refine channelsFollow_of_eq (s := s) (fun _ => rfl) (fun v => ?_) hf
    rw [State.unit_modUnit]
    split
    case isTrue hv => subst hv; exact UnitRec.flags_congr (h _).1 (h _).2.1
    case isFalse => exact ⟨rfl, rfl⟩
  | unit u st ph f => exact State.unit_follows hs hf u f
  | pop c p => exact State.filter_follows hs hf c p
  | push c e _ ht => exact State.push_follows hs hf c e ht
  | pushTrip c v => exact State.pushTrip_follows hs hf c v
  | scalePut k x e _ he =>
    exact State.push_follows (stacksOk_of_stack_eq (s.setGuard_stack k x) hs) (State.setGuard_follows hf k x) k.chan e
      (by rw [he]; decide)
  | scaleDrop k x =>
    exact State.filter_follows (stacksOk_of_stack_eq (s.setGuard_stack k x) hs) (State.setGuard_follows hf k x) k.chan _
  | guardNote k x => exact State.setGuard_follows hf k x
  | record | momentary => exact State.recordWith_follows hf _ _ _ _ _
  | relevel g =>
    exact channelsFollow_of_eq (s.relevel_chan g) (fun u => by rw [State.relevel_unit]; exact ⟨rfl, rfl⟩) hf

/-! ### Steps -/

/-- The stacks in their form, and the channels in step with them. -/
def State.InStep (s : State) : Prop := s.StacksOk ∧ s.ChannelsFollow

theorem Prim.inStep (h : Prim s t) (hs : s.InStep) : t.InStep := ⟨h.stacksOk hs.1, h.follows hs.1 hs.2⟩

theorem Reacts.inStep (h : Reacts s t) (hs : s.InStep) : t.InStep := h.keep (fun _ _ => Prim.inStep) hs

theorem Channel.rampValue_target (ch : Channel) (up : Bool) (h : ch.applied = ch.target) :
    ch.rampValue up = ch.applied := by
  simp [Channel.rampValue, h]

theorem State.ramp_follows (hs : s.StacksOk) (h : s.ChannelsFollow) (c : ChanId) (up : Bool)
    (hm : (s.chan c).params.mode ≠ .oneshot) (hr : (s.unit (unitOf c)).atRest = false) :
    (s.modChan c fun ch => ch.setApplied ((s.chan c).rampValue up)).ChannelsFollow := by
  intro d
  rw [State.modChan_unit, State.chan_modChan]
  split
  case isFalse => exact h d
  case isTrue hd =>
    subst hd
    obtain ⟨hparams, hbase, hstack, htarget, happlied, _⟩ :=
      Channel.setApplied_spec (s.chan d) ((s.chan d).rampValue up)
    obtain ⟨hfold, _, _, htrip⟩ := h d
    rw [hparams, hstack, htarget, happlied, Channel.fold_congr hparams hbase hstack, hr]
    refine ⟨hfold, fun a => absurd a hm, nofun, fun e he ht => ?_⟩
    have hvalue := htrip e he ht
    rw [Channel.rampValue_target _ up (hvalue.trans (Channel.fold_trip (hs d) he ht ▸ hfold).symm), hvalue]

theorem Turn.inStep (h : Turn s t) (hs : s.InStep) : t.InStep := by
  refine ⟨h.stacksOk hs.1, ?_⟩
  obtain ⟨hstacks, hf⟩ := hs
  cases h with
  | react t h => exact h.follows hstacks hf
  | other t h =>
    intro c
    obtain ⟨hparams, hbase, hstack, htarget, happlied, hshot⟩ := h.chan c
    obtain ⟨hbaseFlag, hrest⟩ := UnitRec.flags_congr (h.unit (unitOf c)).2.1 (h.unit (unitOf c)).2.2
    rw [hparams, hstack, htarget, happlied, hbaseFlag, hrest, Channel.fold_congr hparams hbase hstack, hshot]
    exact hf c
  | base c v =>
    refine State.refold_follows ?_ ?_ fun d hd => ?_ <;> rw [State.chan_modChan]
    · exact if_pos (rfl : c = c) ▸ hstacks c
    · exact if_pos (rfl : c = c) ▸ (hf.chan c).ready
    · rw [if_neg hd]
      exact hf d
  | ramp c up hm hr => exact State.ramp_follows hstacks hf c up hm hr
  | known g c => exact State.recordWith_follows hf _ _ _ _ _
  | trip g c =>
    refine ((State.tripSteps_reacts _ g).inStep ⟨?_, ?_⟩).2
    · exact stacksOk_of_stack_eq (fun d => by
        change ((s.record g c .trip).chan d).stack = _
        rw [State.record, State.recordWith_chan]) hstacks
    · exact State.recordWith_follows hf _ _ _ _ _
  | release g =>
    refine (State.dropTrips_keep s (P := State.InStep) (fun _ _ => Prim.inStep) g (fun q c _ hq => ⟨fun d => ?_, ?_⟩)
      ⟨hstacks, hf⟩).2
    · exact (hq.1 d).moves (.ite (fun h => h ▸ .loses _) (q.filter_stack c d _))
    · exact State.filter_follows hq.1 hq.2 c _
  | ack g =>
    refine channelsFollow_of_eq (s.acknowledged_chan g) (fun u => ?_) hf
    have hunit : ((s.modGroup g GroupRec.acknowledge).giveRecords g).unit u = s.unit u :=
      State.each_frame (fun q => q.unit u) _ (fun x q => q.giveRecord g x) (fun _ _ => rfl) _
    exact ⟨congrArg _ hunit, congrArg _ hunit⟩

/-- R26: a channel stands at its safe level at set-up. -/
theorem Channel.setUp_follows (p : ChanParams) : (Channel.setUp p).Follows false true := by
  have hready : { Channel.init p with base := p.safe }.Ready :=
    ⟨fun _ => ⟨rfl, fun _ => rfl⟩, fun e he => absurd he List.not_mem_nil⟩
  exact Channel.retarget_follows (b := false) (r := true) stackOk_nil hready

theorem Fresh.follows (h : Fresh s t) : t.ChannelsFollow := by
  cases h with
  | powerOn | warm => exact resetMeetsLaws.2.2.1
  | setUp a =>
    intro c
    have h := Channel.setUp_follows ((s.pfl.load a).parameters.chans[c])
    simpa [State.setUp, State.chan, State.unit, UnitRec.init, UnitRec.foldsFromBase, UnitRec.atRest, Channel.Follows] using h

/-- Settles O10, over stacks in their form. -/
theorem stepKeepsTargets : Obligations.StepKeepsTargets := fun _ _ hs hf hstep =>
  (step_keep (P := State.InStep) (fun _ _ => Turn.inStep)
    (fun _ _ hfresh _ => ⟨fun d => (hfresh.stack d).symm ▸ stackOk_nil, hfresh.follows⟩) hstep ⟨hs, hf⟩).2

end Sys2Proof.Machine
end

section
/-! What arrivals, deactivations and acknowledgements keep of a cause log (R88 to R92, R102, R103). -/

namespace Sys2Proof.Machine

variable {f : Cause → CauseClass} {x : GroupRec} {c : Cause} {now : Word}

/-! ### Arrival -/

/-- A record that the log does not hold yet, as an arrival makes it. -/
theorem GroupRec.LogOk.append (h : x.LogOk f) {r : CauseRec} (hlen : x.log.length < 8) (hnew : ¬∃ z ∈ x.log, z.cause = r.cause)
    (hr : r.cls = f r.cause ∧ r.momentary = r.cause.isMomentary ∧ (r.momentary = true → r.active = false) ∧ 1 ≤ r.count ∧
      r.count ≤ 255) : { x with log := x.log ++ [r] }.LogOk f := by
  obtain ⟨_, hnodup, hform, _, _, hfull⟩ := h
  have hnone : x.unrecorded = [] := by
    by_contra hne
    have := (hfull hne).2
    omega
  refine ⟨by simp; omega, ?_, ?_, by simp [hnone], by simp [hnone], by simp [hnone]⟩
  · rw [List.map_append, List.nodup_append]
    refine ⟨hnodup, by simp, ?_⟩
    rintro a ha b hb rfl
    obtain ⟨z, hz, hza⟩ := List.mem_map.mp ha
    exact hnew ⟨z, hz, by simpa [hza] using hb⟩
  · intro z hz
    rcases List.mem_append.mp hz with hz | hz
    · exact hform z hz
    · rw [List.mem_singleton.mp hz]
      exact hr

/-- Records changed in place, each with its cause, its class and its kind. -/
theorem GroupRec.LogOk.update (h : x.LogOk f) (k : CauseRec → CauseRec)
    (hk : ∀ r ∈ x.log, (k r).cause = r.cause ∧ (k r).cls = r.cls ∧ (k r).momentary = r.momentary ∧
      ((k r).momentary = true → (k r).active = false) ∧ 1 ≤ (k r).count ∧ (k r).count ≤ 255) :
    { x with log := x.log.map k }.LogOk f := by
  obtain ⟨hlen, hnodup, hform, hsorted, hset, hfull⟩ := h
  have hcauses : (x.log.map k).map (·.cause) = x.log.map (·.cause) := by
    rw [List.map_map]
    exact List.map_congr_left fun r hr => (hk r hr).1
  refine ⟨by simpa using hlen, hcauses ▸ hnodup, ?_, hsorted, ?_, by simpa using hfull⟩
  · intro z hz
    obtain ⟨r, hr, rfl⟩ := List.mem_map.mp hz
    obtain ⟨hcause, hcls, hmom, hidle, hcount⟩ := hk r hr
    obtain ⟨hc, hm, _⟩ := hform r hr
    exact ⟨by rw [hcls, hcause, hc], by rw [hmom, hcause, hm], hidle, hcount⟩
  · intro y hy
    obtain ⟨hc, hm, hnot⟩ := hset y hy
    refine ⟨hc, hm, fun z hz => ?_⟩
    obtain ⟨r, hr, rfl⟩ := List.mem_map.mp hz
    rw [(hk r hr).1]
    exact hnot r hr

/-- R91: a code joins the unrecorded set of a full log in its place. -/
theorem GroupRec.LogOk.insert (h : x.LogOk f) (hlen : ¬x.log.length < 8) (hnew : ¬∃ r ∈ x.log, r.cause = c)
    (hm : c.isMomentary = false) :
    { x with
      logFull := true
      unrecorded := x.unrecorded.filter (fun y : Unrecorded => decide (y.cause.code < c.code)) ++
        [(⟨c, f c⟩ : Unrecorded)] ++ x.unrecorded.filter (fun y : Unrecorded => decide (c.code < y.cause.code)) :
      GroupRec }.LogOk f := by
  obtain ⟨hmax, hnodup, hform, hsorted, hset, _⟩ := h
  refine ⟨hmax, hnodup, hform, ?_, ?_, fun _ => ⟨rfl, show x.log.length = 8 by omega⟩⟩
  · rw [List.append_assoc, List.pairwise_append]
    refine ⟨hsorted.filter _, ?_, ?_⟩
    · rw [List.singleton_append, List.pairwise_cons]
      exact ⟨fun y hy => by simpa using (List.mem_filter.mp hy).2, hsorted.filter _⟩
    · intro y hy z hz
      have hyc : y.cause.code < c.code := by simpa using (List.mem_filter.mp hy).2
      rcases List.mem_cons.mp hz with rfl | hz
      · exact hyc
      · have hcz : c.code < z.cause.code := by simpa using (List.mem_filter.mp hz).2
        omega
  · intro y hy
    simp only [List.mem_append, List.mem_filter, List.mem_singleton] at hy
    rcases hy with (⟨hy, _⟩ | rfl) | ⟨hy, _⟩
    · exact hset y hy
    · exact ⟨rfl, hm, fun r hr hc => hnew ⟨r, hr, hc⟩⟩
    · exact hset y hy

theorem GroupRec.LogOk.setFull (h : x.LogOk f) : { x with logFull := true }.LogOk f := by
  obtain ⟨hlen, hnodup, hform, hsorted, hset, hfull⟩ := h
  exact ⟨hlen, hnodup, hform, hsorted, hset, fun hne => ⟨rfl, (hfull hne).2⟩⟩

theorem GroupRec.LogOk.withArrival (h : x.LogOk f) : (x.withArrival c (f c) now).LogOk f := by
  unfold GroupRec.withArrival
  split
  case isTrue =>
    refine h.update _ fun r hr => ?_
    obtain ⟨hcls, hmom, hidle, hlow, hhigh⟩ := h.2.2.1 r hr
    split
    case isTrue heq =>
      subst heq
      refine ⟨rfl, rfl, rfl, fun hm => ?_, by simp only; omega, by simp only; omega⟩
      dsimp only at hm ⊢
      rw [if_pos (hmom ▸ hm)]
      exact hidle hm
    case isFalse => exact ⟨rfl, rfl, rfl, hidle, hlow, hhigh⟩
  case isFalse hnew =>
    split
    case isTrue hlen => exact h.append hlen hnew ⟨rfl, rfl, by simp, by simp, by simp⟩
    case isFalse hlen =>
      by_cases hin : c.isMomentary = true ∨ ∃ y ∈ x.unrecorded, y.cause = c
      · simpa only [if_pos hin] using h.setFull
      · simp only [if_neg hin]
        exact h.insert hlen hnew (by simpa using (not_or.mp hin).1)

/-! ### Deactivation -/

theorem GroupRec.LogOk.filterSet (h : x.LogOk f) (p : Unrecorded → Bool) :
    { x with unrecorded := x.unrecorded.filter p }.LogOk f := by
  obtain ⟨hlen, hnodup, hform, hsorted, hset, hfull⟩ := h
  refine ⟨hlen, hnodup, hform, hsorted.filter p, fun y hy => hset y (List.mem_of_mem_filter hy), fun hne => hfull ?_⟩
  rintro hnil
  simp [hnil] at hne

theorem GroupRec.LogOk.without (h : x.LogOk f) : (x.without c now).LogOk f := by
  have hupdated := h.update
    (fun r => if r.cause = c ∧ r.active = true then { r with active := false, lastChange := now } else r) fun r hr => by
      obtain ⟨_, _, hidle, hlow, hhigh⟩ := h.2.2.1 r hr
      split
      · exact ⟨rfl, rfl, rfl, fun _ => rfl, hlow, hhigh⟩
      · exact ⟨rfl, rfl, rfl, hidle, hlow, hhigh⟩
  unfold GroupRec.without
  split
  · exact hupdated
  · exact hupdated.filterSet _

/-! ### Acknowledgement -/

/-- The record that a code of the unrecorded set is given (R103). -/
def Unrecorded.given (y : Unrecorded) (now : Word) : CauseRec := ⟨y.cause, y.cls, false, now, now, 1, true, false⟩

/-- A group record after ACK (R102, R103): the active records acknowledged, and the first codes of the set in the room. -/
def GroupRec.acked (x : GroupRec) (now : Word) : GroupRec :=
  let stay := x.acknowledge.log
  { x with
    log := stay ++ (x.unrecorded.take (logSize - stay.length)).map fun y => y.given now
    unrecorded := x.unrecorded.drop (logSize - stay.length)
    logFull := !(x.unrecorded.drop (logSize - stay.length)).isEmpty }

theorem State.giveRecord_group (s : State) (g : Group) (y : Unrecorded) : (s.giveRecord g y).group g = { s.group g with
    log := (s.group g).log ++ [y.given s.ms]
    unrecorded := (s.group g).unrecorded.filter fun z => decide (z.cause ≠ y.cause) } := by
  rw [State.giveRecord, State.queueAll, State.queue_group, State.group_modGroup, if_pos rfl]
  rfl

theorem State.giveRecords_group_of_nodup (s : State) (g : Group) (l rest : List Unrecorded)
    (hset : (s.group g).unrecorded = l ++ rest) (hnodup : ((l ++ rest).map (·.cause)).Nodup) :
    (s.each l fun y q => q.giveRecord g y).group g =
      { s.group g with log := (s.group g).log ++ l.map fun y => y.given s.ms, unrecorded := rest } := by
  induction l generalizing s with
  | nil =>
    rw [List.nil_append] at hset
    rw [State.each_nil, ← hset]
    simp
  | cons y l ih =>
    obtain ⟨hnew, hnodup⟩ := List.nodup_cons.mp hnodup
    have hrest : (y :: (l ++ rest)).filter (fun z => decide (z.cause ≠ y.cause)) = l ++ rest := by
      rw [List.filter_cons, if_neg (by simp)]
      refine List.filter_eq_self.mpr fun z hz => decide_eq_true fun he => hnew ?_
      exact List.mem_map.mpr ⟨z, hz, he⟩
    have hgroup := s.giveRecord_group g y
    rw [hset, List.cons_append, hrest] at hgroup
    rw [State.each_cons, ih _ (by rw [hgroup]) hnodup, hgroup]
    simp [State.giveRecord, State.queueAll]

theorem State.giveRecord_frame (s : State) (g : Group) (y : Unrecorded) :
    { s.giveRecord g y with groups := s.groups, ports := s.ports } = s := rfl

/-- What ACK makes of the group's record, whose unrecorded set names no cause twice. -/
theorem State.acknowledged_group (s : State) (g : Group) (hnodup : ((s.group g).unrecorded.map (·.cause)).Nodup) :
    ((s.modGroup g GroupRec.acknowledge).giveRecords g).group g = (s.group g).acked s.ms := by
  have hset : ((s.modGroup g GroupRec.acknowledge).group g) = (s.group g).acknowledge := by
    rw [State.group_modGroup, if_pos rfl]
  have hgiven := (s.modGroup g GroupRec.acknowledge).giveRecords_group_of_nodup g
    ((s.group g).unrecorded.take (logSize - (s.group g).acknowledge.log.length))
    ((s.group g).unrecorded.drop (logSize - (s.group g).acknowledge.log.length))
    (by rw [hset, List.take_append_drop]; rfl) (by rwa [List.take_append_drop])
  rw [State.giveRecords, State.group_modGroup, if_pos rfl, hset]
  simp only [GroupRec.acked]
  rw [show (s.group g).acknowledge.unrecorded = (s.group g).unrecorded from rfl, hgiven, hset]
  rfl

theorem GroupRec.LogOk.set_nodup (h : x.LogOk f) : (x.unrecorded.map (·.cause)).Nodup := by
  obtain ⟨_, _, _, hsorted, _, _⟩ := h
  refine List.pairwise_map.mpr (hsorted.imp fun hlt he => ?_)
  rw [he] at hlt
  exact lt_irrefl _ hlt

theorem GroupRec.LogOk.acked (h : x.LogOk f) : (x.acked now).LogOk f := by
  have hnodupSet := h.set_nodup
  obtain ⟨hlen, hnodup, hform, hsorted, hset, hfull⟩ := h
  have hsub := List.filter_sublist (l := x.log) (p := fun r => r.active)
  have hstay : ∀ r ∈ x.acknowledge.log, ∃ z ∈ x.log, r.cause = z.cause ∧ r.cls = z.cls ∧ r.momentary = z.momentary ∧
      r.active = z.active ∧ r.count = z.count := by
    intro r hr
    obtain ⟨z, hz, rfl⟩ := List.mem_map.mp hr
    exact ⟨z, List.mem_of_mem_filter hz, rfl, rfl, rfl, rfl, rfl⟩
  have hstayLen : x.acknowledge.log.length ≤ 8 := by simpa [GroupRec.acknowledge] using hsub.length_le.trans hlen
  have hstayNodup : (x.acknowledge.log.map (·.cause)).Nodup := by
    simp only [GroupRec.acknowledge, List.map_map]
    exact (hsub.map (·.cause)).nodup hnodup
  refine ⟨?_, ?_, ?_, ?_, ?_, ?_⟩
  · simp only [GroupRec.acked, List.length_append, List.length_map, List.length_take, logSize]
    omega
  · simp only [GroupRec.acked, List.map_append, List.map_map, List.nodup_append]
    refine ⟨hstayNodup, ((List.take_sublist _ _).map _).nodup hnodupSet, ?_⟩
    rintro a ha b hb rfl
    obtain ⟨r, hr, hra⟩ := List.mem_map.mp ha
    obtain ⟨y, hy, hya⟩ := List.mem_map.mp hb
    obtain ⟨z, hz, hrz, _⟩ := hstay r hr
    obtain ⟨_, _, hnot⟩ := hset y (List.mem_of_mem_take hy)
    exact hnot z hz (by rw [← hrz, hra, ← hya]; rfl)
  · intro r hr
    rcases List.mem_append.mp hr with hr | hr
    · obtain ⟨z, hz, hcause, hcls, hmom, hactive, hcount⟩ := hstay r hr
      rw [hcause, hcls, hmom, hactive, hcount]
      exact hform z hz
    · obtain ⟨y, hy, rfl⟩ := List.mem_map.mp hr
      obtain ⟨hcls, hmom, _⟩ := hset y (List.mem_of_mem_take hy)
      exact ⟨hcls, hmom.symm, by simp [Unrecorded.given], by simp [Unrecorded.given], by simp [Unrecorded.given]⟩
  · exact hsorted.sublist (List.drop_sublist _ _)
  · intro y hy
    obtain ⟨hcls, hmom, hnot⟩ := hset y (List.mem_of_mem_drop hy)
    refine ⟨hcls, hmom, fun r hr => ?_⟩
    rcases List.mem_append.mp hr with hr | hr
    · obtain ⟨z, hz, hcause, _⟩ := hstay r hr
      exact hcause ▸ hnot z hz
    · obtain ⟨w, hw, rfl⟩ := List.mem_map.mp hr
      have hdisjoint := List.disjoint_of_nodup_append
        (by rwa [← List.map_append, List.take_append_drop] :
          ((x.unrecorded.take (logSize - x.acknowledge.log.length)).map (·.cause) ++
            (x.unrecorded.drop (logSize - x.acknowledge.log.length)).map (·.cause)).Nodup)
      exact fun he => hdisjoint (List.mem_map.mpr ⟨w, hw, he⟩) (List.mem_map.mpr ⟨y, hy, rfl⟩)
  · intro hne
    refine ⟨by simpa [GroupRec.acked] using hne, ?_⟩
    have hmore : ¬x.unrecorded.length ≤ logSize - x.acknowledge.log.length :=
      fun hle => hne (List.drop_eq_nil_of_le hle)
    simp only [GroupRec.acked, List.length_append, List.length_map, List.length_take]
    simp only [logSize] at hmore ⊢
    omega

/-! ### Moves -/

/-- Two group records with one log, one unrecorded set and one LOG_FULL. -/
def GroupRec.SameLog (x y : GroupRec) : Prop := y.log = x.log ∧ y.unrecorded = x.unrecorded ∧ y.logFull = x.logFull

/-- What one move makes of the log and the set of a group: nothing, an arrival, of ALARM class outside TRIP, a deactivation,
or an acknowledgement. -/
inductive LogMoves (f : Cause → CauseClass) (x y : GroupRec) : Prop
  | stays (h : x.SameLog y)
  | arrival (c : Cause) (now : Word) (hc : f c = .alarm ∨ y.level = .trip) (h : (x.withArrival c (f c) now).SameLog y)
  | ended (c : Cause) (now : Word) (h : (x.without c now).SameLog y)
  | acked (now : Word) (h : (x.acked now).SameLog y)

theorem GroupRec.LogOk.congr {y : GroupRec} (h : x.LogOk f) (hxy : x.SameLog y) : y.LogOk f := by
  obtain ⟨hlog, hset, hfull⟩ := hxy
  unfold GroupRec.LogOk at *
  rwa [hlog, hset, hfull]

theorem GroupRec.LogOk.moves {y : GroupRec} (h : x.LogOk f) (hm : LogMoves f x y) : y.LogOk f := by
  cases hm with
  | stays hxy => exact h.congr hxy
  | arrival c now _ hxy => exact h.withArrival.congr hxy
  | ended c now hxy => exact h.without.congr hxy
  | acked now hxy => exact h.acked.congr hxy

theorem logMoves_of_eq {y : GroupRec} (h : y = x) : LogMoves f x y := .stays (h ▸ ⟨rfl, rfl, rfl⟩)

variable {s t : State}

theorem logMoves_of_groups {g : Group} (h : t.groups = s.groups) : LogMoves f (s.group g) (t.group g) :=
  logMoves_of_eq (by simp only [State.group, h])

theorem State.recordWith_group (s : State) (g h : Group) (c : Cause) (cls : CauseClass) (b : Bool)
    (r : GroupRec × Recorded) : (s.recordWith g c cls b r).group h = if h = g then r.1 else s.group h := by
  unfold State.recordWith
  dsimp only
  split <;> simp [State.queueAll, State.group_modGroup]

theorem State.record_group (s : State) (g h : Group) {c : Cause} (cls : CauseClass) (hm : c.isMomentary = false)
    (hs : s.LogsOk) : (s.record g c cls).group h = if h = g then (s.group g).withArrival c cls s.ms else s.group h := by
  rw [State.record, State.recordWith_group, (s.group g).arrive_eq (hs g) c cls s.ms hm]

theorem State.relevel_sameLog (s : State) (g h : Group) : (s.group h).SameLog ((s.relevel g).group h) := by
  rw [State.relevel_group]
  split
  case isTrue heq => subst heq; exact ⟨rfl, rfl, rfl⟩
  case isFalse => exact ⟨rfl, rfl, rfl⟩

theorem State.momentary_moves (s : State) (g h : Group) (c : Cause) (hc : s.classOf c = .alarm) (hm : c.isMomentary = true) :
    LogMoves s.classOf (s.group h) ((s.momentary g c).group h) := by
  have hsame := State.relevel_sameLog (s.recordWith g c .alarm true ((s.group g).arriveMomentary c .alarm s.ms)) g h
  rw [State.recordWith_group, (s.group g).arriveMomentary_eq c .alarm s.ms hm] at hsame
  split at hsame
  case isTrue heq => subst heq; exact .arrival c s.ms (.inl hc) (hc ▸ hsame)
  case isFalse => exact .stays hsame

theorem State.setGuard_group (s : State) (k : GuardId) (x : Guard) (h : Group) : (s.setGuard k x).group h = s.group h := by
  cases k <;> rfl

theorem State.loseGuard_same (s : State) (k : GuardId) : Same s (s.loseGuard k) :=
  ((State.setGuard_raws s k _).trans (State.tellGuard_raws _ k _ _)).same

theorem State.loseGuard_group (s : State) (k : GuardId) (h : Group) : (s.loseGuard k).group h = s.group h := by
  unfold State.loseGuard State.tellGuard
  dsimp only
  split
  · exact s.setGuard_group k _ h
  · exact s.setGuard_group k _ h

theorem State.discarded_moves (s : State) (c : ChanId) (e : Entry) (h : Group) :
    LogMoves s.classOf (s.group h) ((s.discarded c e).group h) := by
  unfold State.discarded
  dsimp only
  split
  case isTrue =>
    split
    case h_1 k _ =>
      have hmoves := (s.loseGuard k).momentary_moves (chanGroup c) h (.guardLost c) rfl rfl
      rwa [s.loseGuard_group k h, show (s.loseGuard k).classOf = s.classOf from funext (s.loseGuard_same k).classOf] at hmoves
    case h_2 => exact s.momentary_moves (chanGroup c) h (.guardLost c) rfl rfl
  case isFalse => exact .stays ⟨rfl, rfl, rfl⟩

theorem State.pushRaw_moves (s : State) (c : ChanId) (e : Entry) (h : Group) :
    LogMoves s.classOf (s.group h) ((s.pushRaw c e).group h) := by
  unfold State.pushRaw
  rw [State.modChan_group]
  split
  · exact s.discarded_moves c _ h
  · exact .stays ⟨rfl, rfl, rfl⟩

/-- A reaction moves a log by one arrival or by one deactivation. -/
theorem Prim.logMoves (h : Prim s t) (hs : s.LogsOk) (g : Group) : LogMoves s.classOf (s.group g) (t.group g) := by
  cases h with
  | queue | note | pop | tsm | swu => exact .stays ⟨rfl, rfl, rfl⟩
  | unit u st ph f => exact logMoves_of_groups (State.refoldUnit_groups _ u)
  | push c e => exact s.pushRaw_moves c e g
  | pushTrip c v => exact s.pushRaw_moves c _ g
  | scalePut k x e =>
    have hmoves := (s.setGuard k x).pushRaw_moves k.chan e g
    rwa [s.setGuard_group, show (s.setGuard k x).classOf = s.classOf from
      funext (s.setGuard_raws k x).same.classOf] at hmoves
  | scaleDrop k x => exact logMoves_of_eq (s.setGuard_group k x g)
  | guardNote k x => exact logMoves_of_eq (s.setGuard_group k x g)
  | record h c hc hm =>
    rw [s.record_group h g .alarm hm hs]
    split
    case isTrue heq => subst heq; exact .arrival c s.ms (.inl hc) (hc ▸ ⟨rfl, rfl, rfl⟩)
    case isFalse => exact .stays ⟨rfl, rfl, rfl⟩
  | momentary h c hc hm =>
    rw [s.recordWith_group, (s.group h).arriveMomentary_eq c .alarm s.ms hm]
    split
    case isTrue heq => subst heq; exact .arrival c s.ms (.inl hc) (hc ▸ ⟨rfl, rfl, rfl⟩)
    case isFalse => exact .stays ⟨rfl, rfl, rfl⟩
  | deactivate h c =>
    rw [State.group_modGroup]
    split
    case isTrue heq => subst heq; exact .ended c s.ms (by rw [GroupRec.deactivate_eq]; exact ⟨rfl, rfl, rfl⟩)
    case isFalse => exact .stays ⟨rfl, rfl, rfl⟩
  | relevel h => exact .stays (s.relevel_sameLog h g)
  | busy h b n =>
    rw [State.group_modGroup]
    split
    case isTrue heq => subst heq; exact .stays ⟨rfl, rfl, rfl⟩
    case isFalse => exact .stays ⟨rfl, rfl, rfl⟩

theorem State.LogsOk.moves (hs : s.LogsOk) (hc : t.classOf = s.classOf)
    (hm : ∀ g, LogMoves s.classOf (s.group g) (t.group g)) : t.LogsOk := fun g => hc ▸ (hs g).moves (hm g)

theorem Prim.same (h : Prim s t) : Same s t := h.raws.same

theorem Prim.logsOk (h : Prim s t) (hs : s.LogsOk) : t.LogsOk := hs.moves (funext h.same.classOf) (h.logMoves hs)

/-! ### Trip-class causes -/

/-- A group with an active trip-class cause is in TRIP. -/
def GroupRec.HoldsTrip (x : GroupRec) : Prop := x.tripActive = true → x.level = .trip

theorem GroupRec.tripActive_iff (x : GroupRec) : x.tripActive = true ↔
    (∃ r ∈ x.log, r.active = true ∧ r.cls = .trip) ∨ ∃ y ∈ x.unrecorded, y.cls = .trip := by
  have htrip (k : CauseClass) : k.isTrip = true ↔ k = .trip := by cases k <;> simp [CauseClass.isTrip]
  simp [GroupRec.tripActive, List.any_eq_true, htrip]

theorem GroupRec.LogOk.tripActive_of_withArrival (h : x.LogOk f) (hc : f c = .alarm)
    (ht : (x.withArrival c (f c) now).tripActive = true) : x.tripActive = true := by
  obtain ⟨_, _, hform, _, _, _⟩ := h
  rw [hc, GroupRec.tripActive_iff] at ht
  rw [GroupRec.tripActive_iff]
  unfold GroupRec.withArrival at ht
  split at ht
  case isTrue =>
    refine ht.imp_left fun ⟨r, hr, hactive, hcls⟩ => ?_
    obtain ⟨z, hz, rfl⟩ := List.mem_map.mp hr
    by_cases hzc : z.cause = c
    · have hz := (hform z hz).1
      rw [if_pos hzc] at hcls
      rw [hzc, hc] at hz
      simp [hz] at hcls
    · rw [if_neg hzc] at hactive hcls
      exact ⟨z, hz, hactive, hcls⟩
  case isFalse =>
    split at ht
    case isTrue =>
      refine ht.imp_left fun ⟨r, hr, hactive, hcls⟩ => ?_
      rcases List.mem_append.mp hr with hr | hr
      · exact ⟨r, hr, hactive, hcls⟩
      · rw [List.mem_singleton.mp hr] at hcls
        cases hcls
    case isFalse =>
      refine ht.imp_right fun ⟨y, hy, hcls⟩ => ?_
      dsimp only at hy
      split at hy
      · exact ⟨y, hy, hcls⟩
      · simp only [List.mem_append, List.mem_filter, List.mem_singleton] at hy
        rcases hy with (⟨hy, _⟩ | rfl) | ⟨hy, _⟩
        · exact ⟨y, hy, hcls⟩
        · cases hcls
        · exact ⟨y, hy, hcls⟩

theorem GroupRec.tripActive_of_without (ht : (x.without c now).tripActive = true) : x.tripActive = true := by
  rw [GroupRec.tripActive_iff] at *
  refine ht.imp (fun ⟨r, hr, hactive, hcls⟩ => ?_) (fun ⟨y, hy, hcls⟩ => ?_)
  · obtain ⟨z, hz, rfl⟩ := List.mem_map.mp hr
    split at hactive
    · cases hactive
    case isFalse hzc =>
      rw [if_neg hzc] at hcls
      exact ⟨z, hz, hactive, hcls⟩
  · refine ⟨y, ?_, hcls⟩
    simp only [GroupRec.without] at hy
    split at hy
    · exact hy
    · exact List.mem_of_mem_filter hy

theorem GroupRec.tripActive_of_acked (ht : (x.acked now).tripActive = true) : x.tripActive = true := by
  rw [GroupRec.tripActive_iff] at *
  rcases ht with ⟨r, hr, hactive, hcls⟩ | ⟨y, hy, hcls⟩
  · rcases List.mem_append.mp hr with hr | hr
    · obtain ⟨z, hz, rfl⟩ := List.mem_map.mp hr
      exact .inl ⟨z, List.mem_of_mem_filter hz, hactive, hcls⟩
    · obtain ⟨y, hy, rfl⟩ := List.mem_map.mp hr
      exact .inr ⟨y, List.mem_of_mem_take hy, hcls⟩
  · exact .inr ⟨y, List.mem_of_mem_drop hy, hcls⟩

theorem GroupRec.SameLog.tripActive {y : GroupRec} (h : x.SameLog y) : y.tripActive = x.tripActive := by
  obtain ⟨hlog, hset, _⟩ := h
  unfold GroupRec.tripActive
  rw [hlog, hset]

theorem GroupRec.HoldsTrip.moves {y : GroupRec} (h : x.HoldsTrip) (hx : x.LogOk f) (hm : LogMoves f x y)
    (hl : x.level = .trip → y.level = .trip) : y.HoldsTrip := by
  intro ht
  cases hm with
  | stays hxy => exact hl (h (hxy.tripActive ▸ ht))
  | arrival c now hc hxy =>
    rcases hc with hc | hc
    · exact hl (h (hx.tripActive_of_withArrival hc (hxy.tripActive ▸ ht)))
    · exact hc
  | ended c now hxy => exact hl (h (GroupRec.tripActive_of_without (hxy.tripActive ▸ ht)))
  | acked now hxy => exact hl (h (GroupRec.tripActive_of_acked (hxy.tripActive ▸ ht)))

/-! ### Turns -/

theorem State.setBase_group (s : State) (c : ChanId) (v : Nat) (g : Group) : (s.setBase c v).group g = s.group g := rfl

theorem State.setLevel_group (s : State) (g h : Group) (l : Level) :
    (s.setLevel g l).group h = if h = g then { s.group g with level := l } else s.group h := by
  rw [State.setLevel, State.queueAll, State.queue_group, State.group_modGroup]

theorem State.setLevel_sameLog (s : State) (g h : Group) (l : Level) : (s.group h).SameLog ((s.setLevel g l).group h) := by
  rw [State.setLevel_group]
  split
  case isTrue heq => subst heq; exact ⟨rfl, rfl, rfl⟩
  case isFalse => exact ⟨rfl, rfl, rfl⟩

theorem State.record_classOf (s : State) (g : Group) (c : Cause) (cls : CauseClass) :
    (s.record g c cls).classOf = s.classOf := funext (s.record_raws g c cls).same.classOf

theorem State.giveRecords_frame (s : State) (g : Group) : { s.giveRecords g with groups := s.groups, ports := s.ports } = s :=
  State.each_induct (P := fun q => { q with groups := s.groups, ports := s.ports } = s)
    ((s.group g).unrecorded.take (logSize - (s.group g).log.length)) (fun y q => q.giveRecord g y) (fun _ _ _ hq => hq) s rfl

/-- ACK changes nothing but the log of its group and the queues. -/
theorem State.acknowledged_frame (s : State) (g : Group) :
    { (s.modGroup g GroupRec.acknowledge).giveRecords g with groups := s.groups, ports := s.ports } = s :=
  congrArg (fun q => { q with groups := s.groups, ports := s.ports })
    ((s.modGroup g GroupRec.acknowledge).giveRecords_frame g)

theorem State.acknowledged_group_other (s : State) {g h : Group} (hne : h ≠ g) :
    ((s.modGroup g GroupRec.acknowledge).giveRecords g).group h = s.group h := by
  rw [State.giveRecords, State.group_modGroup, if_neg hne,
    State.each_frame (fun q => q.group h) _ _ fun y q => by
      rw [State.giveRecord, State.queueAll, State.queue_group, State.group_modGroup, if_neg hne],
    State.group_modGroup, if_neg hne]

theorem State.acknowledged_classOf (s : State) (g : Group) :
    ((s.modGroup g GroupRec.acknowledge).giveRecords g).classOf = s.classOf := by
  have hai : ((s.modGroup g GroupRec.acknowledge).giveRecords g).ai = s.ai := by
    simpa using congrArg State.ai (s.acknowledged_frame g)
  funext c
  cases c <;> simp only [State.classOf, State.analog, hai]

theorem Turn.classOf (h : Turn s t) : t.classOf = s.classOf := by
  cases h with
  | react t h => exact funext h.same.classOf
  | other t h => exact funext h.classOf
  | base c v => rfl
  | ramp c up => rfl
  | known g c => exact s.record_classOf g c .trip
  | trip g c => exact (funext (State.tripSteps_reacts _ g).same.classOf).trans (s.record_classOf g c .trip)
  | release g =>
    exact State.dropTrips_keep s (P := fun q => q.classOf = s.classOf) (fun q r h hq => (funext h.same.classOf).trans hq) g
      (fun q c _ hq => hq) rfl
  | ack g => exact s.acknowledged_classOf g

/-- One move of a log, with which a group leaves TRIP only where no trip-class cause of it is active. -/
def GroupRec.Passes (f : Cause → CauseClass) (x y : GroupRec) : Prop :=
  LogMoves f x y ∧ (x.level = .trip → y.level = .trip ∨ y.tripActive = false)

theorem passes_of_eq {y : GroupRec} (h : y = x) : x.Passes f y := ⟨logMoves_of_eq h, fun hl => .inl (h ▸ hl)⟩

theorem State.record_passes (s : State) (g h : Group) (c : Cause) (hl : (s.group g).level = .trip)
    (hc : s.classOf c = .trip) (hm : c.isMomentary = false) (hs : s.LogsOk) :
    (s.group h).Passes s.classOf ((s.record g c .trip).group h) := by
  rw [s.record_group g h .trip hm hs]
  split
  case isTrue heq =>
    subst heq
    have hlevel : ((s.group h).withArrival c .trip s.ms).level = .trip := by
      unfold GroupRec.withArrival
      split_ifs <;> exact hl
    exact ⟨.arrival c s.ms (.inr hlevel) (hc ▸ ⟨rfl, rfl, rfl⟩), fun _ => .inl hlevel⟩
  case isFalse => exact passes_of_eq rfl

/-- A trip-class arrival with the level of its trip entry, before what the entry sets off. -/
theorem State.trip_passes (s : State) (g h : Group) (c : Cause) (hc : s.classOf c = .trip) (hm : c.isMomentary = false)
    (hs : s.LogsOk) : (s.group h).Passes s.classOf (((s.record g c .trip).setLevel g .trip).group h) := by
  rw [State.setLevel_group, s.record_group g g .trip hm hs, if_pos rfl, s.record_group g h .trip hm hs]
  split
  case isTrue heq => subst heq; exact ⟨.arrival c s.ms (.inr rfl) (hc ▸ ⟨rfl, rfl, rfl⟩), fun _ => .inl rfl⟩
  case isFalse => exact passes_of_eq rfl

theorem State.release_passes (s : State) (g h : Group) (ha : (s.group g).tripActive = false) (l : Level) :
    (s.group h).Passes s.classOf (((s.dropTrips g).setLevel g l).group h) := by
  obtain ⟨hlevel, hlog, hset, hfull⟩ := s.dropTrips_log g h
  obtain ⟨hlog', hset', hfull'⟩ := (s.dropTrips g).setLevel_sameLog g h l
  have hsame : (s.group h).SameLog (((s.dropTrips g).setLevel g l).group h) :=
    ⟨hlog'.trans hlog, hset'.trans hset, hfull'.trans hfull⟩
  refine ⟨.stays hsame, fun hl => ?_⟩
  by_cases heq : h = g
  · subst heq
    exact .inr (hsame.tripActive.trans ha)
  · rw [State.setLevel_group, if_neg heq, hlevel]
    exact .inl hl

theorem State.acknowledged_passes (s : State) (g h : Group) (hs : s.LogsOk) :
    (s.group h).Passes s.classOf (((s.modGroup g GroupRec.acknowledge).giveRecords g).group h) := by
  by_cases heq : h = g
  · subst heq
    rw [s.acknowledged_group h (hs h).set_nodup]
    exact ⟨.acked s.ms ⟨rfl, rfl, rfl⟩, fun hl => .inl hl⟩
  · exact passes_of_eq (s.acknowledged_group_other heq)

/-- Before the reactions that a trip entry sets off, a turn is one move of each log. -/
theorem Turn.passes (h : Turn s t) (hs : s.LogsOk) :
    ∃ r, Reacts r t ∧ r.classOf = s.classOf ∧ ∀ g, (s.group g).Passes s.classOf (r.group g) := by
  have hstays (q : State) (hq : q.groups = s.groups) (g : Group) : (s.group g).Passes s.classOf (q.group g) :=
    passes_of_eq (by simp only [State.group, hq])
  cases h with
  | react t h =>
    exact ⟨t, .refl, funext h.same.classOf, fun g => ⟨h.logMoves hs g, fun hl => .inl ((h.same.level g).mpr hl)⟩⟩
  | other t h => exact ⟨t, .refl, funext h.classOf, hstays t h.groups⟩
  | base c v => exact ⟨_, .refl, rfl, hstays _ rfl⟩
  | ramp c up => exact ⟨_, .refl, rfl, hstays _ rfl⟩
  | known g c hl hc hm => exact ⟨_, .refl, s.record_classOf g c .trip, fun h => s.record_passes g h c hl hc hm hs⟩
  | trip g c hl hc hm =>
    exact ⟨_, State.tripSteps_reacts _ g, s.record_classOf g c .trip, fun h => s.trip_passes g h c hc hm hs⟩
  | release g hl ha => exact ⟨_, .refl, (Turn.release g hl ha).classOf, fun h => s.release_passes g h ha _⟩
  | ack g => exact ⟨_, .refl, s.acknowledged_classOf g, fun h => s.acknowledged_passes g h hs⟩

theorem Reacts.logsOk (h : Reacts s t) (hs : s.LogsOk) : t.LogsOk := h.keep (fun _ _ => Prim.logsOk) hs

theorem Turn.logsOk (h : Turn s t) (hs : s.LogsOk) : t.LogsOk := by
  obtain ⟨r, hreacts, hclass, hpasses⟩ := h.passes hs
  exact hreacts.logsOk (hs.moves hclass fun g => (hpasses g).1)

/-- Logs in their form, in TRIP where a trip-class cause is active. -/
def State.LogsHold (s : State) : Prop := s.LogsOk ∧ s.TripsHold

theorem State.LogsHold.passes (hs : s.LogsHold) (hc : t.classOf = s.classOf)
    (hp : ∀ g, (s.group g).Passes s.classOf (t.group g)) : t.LogsHold := by
  obtain ⟨hlogs, htrips⟩ := hs
  refine ⟨hlogs.moves hc fun g => (hp g).1, fun g ht => ?_⟩
  obtain ⟨hmoves, hlevel⟩ := hp g
  by_cases hx : (s.group g).level = .trip
  · rcases hlevel hx with hl | hl
    · exact hl
    · rw [hl] at ht
      cases ht
  · exact GroupRec.HoldsTrip.moves (htrips g) (hlogs g) hmoves (fun hl => absurd hl hx) ht

theorem Prim.logsHold (h : Prim s t) (hs : s.LogsHold) : t.LogsHold :=
  hs.passes (funext h.same.classOf) fun g => ⟨h.logMoves hs.1 g, fun hl => .inl ((h.same.level g).mpr hl)⟩

theorem Turn.logsHold (h : Turn s t) (hs : s.LogsHold) : t.LogsHold := by
  obtain ⟨r, hreacts, hclass, hpasses⟩ := h.passes hs.1
  exact hreacts.keep (fun _ _ => Prim.logsHold) (hs.passes hclass hpasses)

theorem Fresh.logsHold (h : Fresh s t) : t.LogsHold := by
  cases h with
  | powerOn | warm =>
    refine ⟨fun g => ?_, fun g => ?_⟩
    · change ((State.initial _).group g).LogOk _
      rw [State.initial_group]
      exact GroupRec.init_logOk _ _
    · intro _
      change ((State.initial _).group g).level = .trip
      rw [State.initial_group]
      rfl
  | setUp a =>
    have hgroup (g : Group) : ((s.modPfl fun p => p.load a).setUp (s.pfl.load a).parameters).group g =
        GroupRec.setUp (s.pfl.load a).parameters.tripLists[groupIdx g] s.ms := by
      simp [State.setUp, State.group]
    refine ⟨fun g => ?_, fun g => ?_⟩
    · rw [hgroup]
      simp [GroupRec.LogOk, GroupRec.setUp, GroupRec.init, State.classOf, Cause.isMomentary]
    · rw [hgroup]
      simp [GroupRec.setUp, GroupRec.init]

/-- Settles O13: an arrival of trip class comes with TRIP, and no move makes another trip-class cause active. -/
theorem activeTripCauseHoldsTrip : Obligations.ActiveTripCauseHoldsTrip := fun _ _ hlogs htrips hstep =>
  (step_keep (fun _ _ => Turn.logsHold) (fun _ _ hf _ => hf.logsHold) hstep ⟨hlogs, htrips⟩).2

theorem step_logsOk (hstep : step s = .next t) (hs : s.LogsOk) : t.LogsOk :=
  step_keep (fun _ _ => Turn.logsOk) (fun _ _ hf _ => hf.logsHold.1) hstep hs

end Sys2Proof.Machine
end

section
/-! The profile (R176, R177): what a validated image and the defaults have in common, which the laws of the blocks need. -/

namespace Sys2Proof.Machine

/-! ### Validation -/

theorem Memory.item_of_failingFrom {m : Memory} {fuel n : Nat} (hn : n ≠ 0) (h : m.failingFrom fuel n = 0) {k : Nat}
    (hlow : n ≤ k) (hhigh : k < n + fuel) : m.item k = true := by
  induction fuel generalizing n with
  | zero => omega
  | succ fuel ih =>
    rw [Memory.failingFrom] at h
    split at h
    case isTrue hitem =>
      rcases Nat.eq_or_lt_of_le hlow with rfl | hlow
      · exact hitem
      · exact ih (Nat.succ_ne_zero n) h hlow (by omega)
    case isFalse => exact absurd h hn

/-- R176: an image without a failing item passes every item. -/
theorem Memory.item_of_validate {m : Memory} (h : m.validate = 0) {k : Nat} (hlow : 1 ≤ k) (hhigh : k < 16) :
    m.item k = true :=
  Memory.item_of_failingFrom (by decide) h hlow hhigh

theorem inRange_iff {lo hi n : Nat} : inRange lo hi n = true ↔ lo ≤ n ∧ n ≤ hi := by simp [inRange]

theorem distinct_nodup {l : List Nat} (h : distinct l = true) : l.Nodup := by
  induction l with
  | nil => exact List.nodup_nil
  | cons x l ih =>
    simp only [distinct, Bool.and_eq_true, Bool.not_eq_true', List.contains_eq_mem, decide_eq_false_iff_not] at h
    exact List.nodup_cons.mpr ⟨h.1, ih h.2⟩

/-! ### What a profile gives -/

/-- A trip list names channels of its group, none twice (R96). -/
def tripListOk (g : Group) (l : List TripItem) : Prop :=
  (∀ x ∈ l, chanGroup x.channel = g) ∧ (l.map (·.channel)).Nodup

/-- What the laws of the blocks ask of the parameters that set-up takes. -/
structure Profile.Fits (p : Profile) : Prop where
  safe : ∀ c : ChanId, p.chans[c].safe ≤ 1000
  fallback : ∀ c : ChanId, p.chans[c].fallback ≤ 1000
  writer : ∀ (c : ChanId) (m : Master), p.writers[c] = some m → p.readers[c].has m = true
  tripState : ∀ u : UnitId, p.units[u].tripState = .standby ∨ p.units[u].tripState = .isolated
  tripList : ∀ g : Group, tripListOk g p.tripLists[groupIdx g]
  tripValue : ∀ g : Group, ∀ x ∈ p.tripLists[groupIdx g], x.value ≤ 1000
  action : ∀ r ∈ p.actions, ∀ a ∈ r.actions, a.value ≤ 1000
  silGuard : p.swu.silGuard.floor ≤ 999 ∧ 1 ≤ p.swu.silGuard.step
  calGuard : ∀ i : Fin 8, p.swu.calGuards[i].floor ≤ 999 ∧ 1 ≤ p.swu.calGuards[i].step
  period : p.scanPeriod ≤ 1000

theorem Profile.default_fits : Profile.default.Fits where
  safe c := by simp [Profile.default, ChanParams.default]
  fallback c := by simp [Profile.default, ChanParams.default]
  writer c m h := by simp [Profile.default] at h
  tripState u := by simp [Profile.default, UnitParams.default]
  tripList g := by
    rw [Fin.getElem_fin, Profile.default_tripLists]
    exact ⟨(defaultTripList_ok g).1, (defaultTripList_ok g).2.1⟩
  tripValue g := by simpa only [Fin.getElem_fin, Profile.default_tripLists] using (defaultTripList_ok g).2.2
  action r h := by simp [Profile.default] at h
  silGuard := by decide
  calGuard i := by simp [Profile.default, SwuParams.default]
  period := by decide

theorem mem_channels (c : ChanId) : c ∈ channels := by revert c; decide

theorem Memory.mem_profile_actions {m : Memory} (h : m.recordsGood = true) :
    ∀ r ∈ m.profile.actions, ∀ a ∈ r.actions, a.value ≤ 1000 := by
  intro r hr a ha
  obtain ⟨n, hn, hrec⟩ := List.mem_filterMap.mp hr
  simp only [Memory.recordsGood, Bool.and_eq_true, List.all_eq_true] at h
  have hgood := h.1.2 n hn
  obtain ⟨c, hc, rfl⟩ := Option.map_eq_some_iff.mp hrec
  obtain ⟨x, hx, rfl⟩ := List.mem_map.mp ha
  simp only [Memory.recordGood, hc, Bool.and_eq_true, List.all_eq_true, Memory.actionGood, decide_eq_true_eq] at hgood
  exact (hgood.1.2 x hx).1.2

theorem chanGroup_of_mem {c : ChanId} {g : Group} (h : c ∈ groupChannels g) : chanGroup c = g := by
  revert c
  cases g <;> decide

theorem Memory.tripList_ok {m : Memory} {g : Group} (h : m.tripListGood g = true) :
    tripListOk g (m.tripList (groupIdx g).val) ∧ ∀ x ∈ m.tripList (groupIdx g).val, x.value ≤ 1000 := by
  simp only [Memory.tripListGood, Bool.and_eq_true, List.all_eq_true, List.contains_eq_mem, decide_eq_true_eq] at h
  obtain ⟨⟨⟨_, hentries⟩, hdistinct⟩, _⟩ := h
  have hchan (x : Nat × Nat) (hx : x ∈ m.tripEntries (groupIdx g).val) :
      ∃ c : ChanId, chanGroup c = g ∧ c.val = x.1 := by
    obtain ⟨c, hc, hcx⟩ := List.mem_map.mp (hentries x hx).1
    exact ⟨c, chanGroup_of_mem hc, hcx⟩
  refine ⟨⟨fun x hx => ?_, ?_⟩, fun x hx => ?_⟩
  · obtain ⟨e, he, rfl⟩ := List.mem_map.mp hx
    obtain ⟨c, hc, hce⟩ := hchan e he
    simpa [← hce] using hc
  · have hnames : (m.tripList (groupIdx g).val).map (·.channel) =
        ((m.tripEntries (groupIdx g).val).map Prod.fst).map (Fin.ofNat 16) := by
      simp [Memory.tripList]
    rw [hnames]
    refine List.Nodup.map_on (fun x hx y hy hxy => ?_) (distinct_nodup hdistinct)
    obtain ⟨e, he, rfl⟩ := List.mem_map.mp hx
    obtain ⟨k, hk, rfl⟩ := List.mem_map.mp hy
    obtain ⟨c, _, hce⟩ := hchan e he
    obtain ⟨d, _, hdk⟩ := hchan k hk
    rw [← hce, ← hdk] at hxy ⊢
    simpa [Fin.ext_iff] using hxy
  · obtain ⟨e, he, rfl⟩ := List.mem_map.mp hx
    exact (hentries e he).2

theorem Memory.writer_reads (m : Memory) (c : ChanId) {w : Master} (h : m.writer c = some w) :
    (m.readers c).has w = true := by
  cases w <;> simp [Memory.readers, h, Readers.has]

/-- R176: a validated image fits. -/
theorem Memory.profile_fits {m : Memory} (h : m.validate = 0) : m.profile.Fits := by
  have hitem (k : Nat) (hlow : 1 ≤ k) (hhigh : k < 16) := Memory.item_of_validate h hlow hhigh
  have hchans (c : ChanId) : (m.chanParams c).safe ≤ 1000 ∧ (m.chanParams c).fallback ≤ 1000 := by
    have hgood := List.all_eq_true.mp (hitem 5 (by decide) (by decide)) c (mem_channels c)
    simp only [Memory.chanGood, Bool.and_eq_true, decide_eq_true_eq] at hgood
    tauto
  have hlists (g : Group) := Memory.tripList_ok (List.all_eq_true.mp (hitem 10 (by decide) (by decide)) g (by cases g <;> decide))
  have hscaling := hitem 14 (by decide) (by decide)
  simp only [Memory.item, Memory.scalingGood, Bool.and_eq_true, GuardParams.good, inRange_iff, decide_eq_true_eq,
    List.all_eq_true] at hscaling
  exact {
    safe := fun c => by simpa [Memory.profile] using (hchans c).1
    fallback := fun c => by simpa [Memory.profile] using (hchans c).2
    writer := fun c w hw => by
      simp only [Memory.profile, Fin.getElem_fin, vec16_val] at hw ⊢
      exact m.writer_reads c hw
    tripState := fun u => by
      simp only [Memory.profile, Fin.getElem_fin, vec12_val, Memory.unitParams]
      split <;> simp
    tripList := fun g => by simpa [Memory.profile] using (hlists g).1
    tripValue := fun g => by simpa [Memory.profile] using (hlists g).2
    action := Memory.mem_profile_actions (hitem 12 (by decide) (by decide))
    silGuard := by simp only [Memory.profile, Memory.swuParams] at *; tauto
    calGuard := fun i => by
      have hi : i ∈ wells := by revert i; decide
      simp only [Memory.profile, Memory.swuParams, Fin.getElem_fin, vec8_val] at *
      have := hscaling.1.1.2 i hi
      tauto
    period := by
      have hanalogs := hitem 7 (by decide) (by decide)
      simp only [Memory.item, Memory.analogsGood, Bool.and_eq_true, inRange_iff] at hanalogs
      simp only [Memory.profile]
      tauto }

/-- R177: the parameters of a load fit, whatever was read. -/
theorem Pfl.parameters_fits (p : Pfl) (a : Option (List Byte)) : (p.load a).parameters.Fits := by
  unfold Pfl.parameters
  split
  case isTrue hgood =>
    refine Memory.profile_fits ?_
    simp only [Pfl.load, stateOfItem] at hgood ⊢
    split at hgood
    · assumption
    · cases hgood
  case isFalse => exact Profile.default_fits

end Sys2Proof.Machine
end

section
/-! What every step keeps of the trip lists and of the units of a group in TRIP (R66, R79, R96). -/

namespace Sys2Proof.Machine

variable {s t : State}

/-! ### Trip lists -/

theorem State.record_tripList (s : State) (g h : Group) (c : Cause) (cls : CauseClass) :
    ((s.record g c cls).group h).tripList = (s.group h).tripList := (s.record_raws g c cls).same.tripList h

theorem State.setLevel_tripList (s : State) (g h : Group) (l : Level) :
    ((s.setLevel g l).group h).tripList = (s.group h).tripList := by
  rw [State.setLevel_group]
  split
  case isTrue heq => subst heq; rfl
  case isFalse => rfl

/-- A change of a group's record that leaves a part of it. -/
theorem State.modGroup_frame {β : Type} (p : GroupRec → β) {f : GroupRec → GroupRec} (hf : ∀ x, p (f x) = p x) (s : State)
    (g h : Group) : p ((s.modGroup g f).group h) = p (s.group h) := by
  rw [State.group_modGroup]
  split
  case isTrue heq => rw [hf, heq]
  case isFalse => rfl

theorem State.acknowledged_frame_of {β : Type} (p : GroupRec → β)
    (hp : ∀ (x : GroupRec) (l : List CauseRec) (u : List Unrecorded) (b : Bool),
      p { x with log := l, unrecorded := u, logFull := b } = p x) (s : State) (g h : Group) :
    p (((s.modGroup g GroupRec.acknowledge).giveRecords g).group h) = p (s.group h) := by
  have hgive (y : Unrecorded) (q : State) : p ((q.giveRecord g y).group h) = p (q.group h) :=
    State.modGroup_frame p (fun x => hp x _ _ x.logFull) q g h
  have hacknowledged : p ((s.modGroup g GroupRec.acknowledge).group h) = p (s.group h) :=
    State.modGroup_frame p (fun x => hp x _ x.unrecorded false) s g h
  rw [State.giveRecords, State.modGroup_frame p fun x => hp x x.log x.unrecorded _]
  exact (State.each_frame (fun q => p (q.group h)) _ _ hgive _).trans hacknowledged

/-- ACK leaves the level, the trip list and the GO of every group. -/
theorem State.acknowledged_kept (s : State) (g h : Group) :
    let x := ((s.modGroup g GroupRec.acknowledge).giveRecords g).group h
    x.level = (s.group h).level ∧ x.tripList = (s.group h).tripList ∧ x.busy = (s.group h).busy ∧
      x.started = (s.group h).started :=
  ⟨s.acknowledged_frame_of (·.level) (fun _ _ _ _ => rfl) g h, s.acknowledged_frame_of (·.tripList) (fun _ _ _ _ => rfl) g h,
    s.acknowledged_frame_of (·.busy) (fun _ _ _ _ => rfl) g h, s.acknowledged_frame_of (·.started) (fun _ _ _ _ => rfl) g h⟩

theorem Turn.tripList (h : Turn s t) (g : Group) : (t.group g).tripList = (s.group g).tripList := by
  cases h with
  | react t h => exact h.same.tripList g
  | other t h => simp only [State.group, h.groups]
  | base c v => rfl
  | ramp c up => rfl
  | known k c => exact s.record_tripList k g c .trip
  | trip k c =>
    rw [(State.tripSteps_reacts _ k).same.tripList g, State.setLevel_tripList, State.record_tripList]
  | release k =>
    rw [State.setLevel_tripList]
    exact State.dropTrips_keep s (P := fun q => (q.group g).tripList = (s.group g).tripList)
      (fun _ _ h hq => (h.same.tripList g).trans hq) k (fun _ _ _ hq => hq) rfl
  | ack k => exact (s.acknowledged_kept k g).2.1

theorem Fresh.tripListsOk (h : Fresh s t) : t.TripListsOk := by
  have key (p : Profile) (hp : p.Fits) (hlist : ∀ g, (t.group g).tripList = p.tripLists[groupIdx g]) : t.TripListsOk :=
    fun g => hlist g ▸ hp.tripList g
  cases h with
  | powerOn | warm =>
    refine key _ Profile.default_fits fun g => ?_
    change ((State.initial _).group g).tripList = _
    rw [State.initial_group]
    rfl
  | setUp a =>
    exact key _ (s.pfl.parameters_fits a) fun g => by simp [State.setUp, State.group, GroupRec.setUp, GroupRec.init]

/-- Settles O15: only a reset and a load write a trip list. -/
theorem stepKeepsTripLists : Obligations.StepKeepsTripLists := fun _ _ hs hstep =>
  step_keep (P := State.TripListsOk) (fun _ _ ht hq g => (ht.tripList g).symm ▸ hq g) (fun _ _ hf _ => hf.tripListsOk)
    hstep hs

/-! ### Units of a group in TRIP -/

/-- A unit of a group in TRIP, at rest. -/
def State.RestsInTrip (s : State) (u : UnitId) : Prop := (s.group (unitGroup u)).level = .trip ∧ (s.unit u).atRest = true

theorem UnitRec.atRest_congr {x y : UnitRec} (hs : y.state = x.state) (hp : y.phase = x.phase) : y.atRest = x.atRest := by
  unfold UnitRec.atRest
  rw [hs, hp]

theorem UnitRec.atRest_of {x : UnitRec} (hp : x.phase = .none) (hs : x.state = .standby ∨ x.state = .isolated) :
    x.atRest = true := by
  unfold UnitRec.atRest
  simpa [hp] using hs

/-- What a reaction leaves of a unit: it stays as it was, but outside TRIP or for another rest. -/
theorem Prim.atRest (h : Prim s t) {u : UnitId} (hu : s.RestsInTrip u) : t.RestsInTrip u := by
  obtain ⟨hlevel, hrest⟩ := hu
  refine ⟨(h.same.level _).mpr hlevel, ?_⟩
  have hstays (he : t.unit u = s.unit u) : (t.unit u).atRest = true := he ▸ hrest
  cases h with
  | queue | pop | deactivate | busy | tsm | swu => exact hstays rfl
  | note v f hf =>
    rw [State.unit_modUnit]
    split
    case isTrue heq => subst heq; exact (UnitRec.atRest_congr (hf _).1 (hf _).2.1).trans hrest
    case isFalse => exact hrest
  | unit v st ph f hv hf =>
    rw [State.refoldUnit_unit, State.unit_modUnit]
    split
    case isTrue heq =>
      subst heq
      rcases hv hrest with ⟨hph, hst⟩ | hv
      · exact UnitRec.atRest_of (hf.2.1.trans hph) (by rwa [hf.1])
      · exact absurd hlevel hv
    case isFalse => exact hrest
  | push c e => exact hstays (State.pushRaw_unit s c e u)
  | pushTrip c v => exact hstays (State.pushRaw_unit s c _ u)
  | scalePut k x e => exact hstays ((State.pushRaw_unit _ k.chan e u).trans (s.setGuard_unit k x u))
  | scaleDrop k x => exact hstays (s.setGuard_unit k x u)
  | guardNote k x => exact hstays (s.setGuard_unit k x u)
  | record g c => exact hstays (by rw [State.record, State.recordWith_unit])
  | momentary g c => exact hstays (by rw [State.recordWith_unit])
  | relevel g => exact hstays (s.relevel_unit g u)

theorem Reacts.atRest (h : Reacts s t) {u : UnitId} (hu : s.RestsInTrip u) : t.RestsInTrip u :=
  h.keep (P := fun q => q.RestsInTrip u) (fun _ _ h hq => h.atRest hq) hu

theorem State.enterTripState_atRest (s : State) (u : UnitId)
    (h : (s.unit u).params.tripState = .standby ∨ (s.unit u).params.tripState = .isolated) :
    ((s.enterTripState u).unit u).atRest = true := by
  unfold State.enterTripState
  split
  · assumption
  · rw [State.refoldUnit_unit, State.unit_modUnit, if_pos rfl]
    exact UnitRec.atRest_of rfl h

/-- The state of a group's forcing after its first step: the units stand in their trip-list states (R79). -/
def State.entered (s : State) (l : List UnitId) : State := s.each l fun u q => q.enterTripState u

theorem State.entered_reacts (s : State) (l : List UnitId) : Reacts s (s.entered l) :=
  Reacts.each l _ (fun u q => q.enterTripState_reacts u) s

theorem State.forceGroup_reacts_entered (s : State) (g : Group) : Reacts (s.entered (groupUnits g)) (s.forceGroup g) := by
  have hforced := Reacts.each (groupUnits g) (fun u q => q.forced u s.units[u]) (fun u q => q.forced_reacts u _)
    (s.entered (groupUnits g))
  unfold State.forceGroup
  dsimp only
  split
  · exact .tail (.tail hforced (Prim.busy g false _)) (Prim.queue _ _)
  · exact hforced

theorem Reacts.tripStates (h : Reacts s t) (hp : s.TripStatesOk) : t.TripStatesOk := fun u => by
  rw [(h.same.unit u).1]
  exact hp u

theorem State.entered_atRest (s : State) (l : List UnitId) (hl : ∀ u ∈ l, (s.group (unitGroup u)).level = .trip)
    (hp : s.TripStatesOk) : ∀ u ∈ l, (s.entered l).RestsInTrip u := by
  induction l generalizing s with
  | nil => exact fun _ hu => nomatch hu
  | cons v l ih =>
    have hfirst := s.enterTripState_reacts v
    intro u hu
    rcases List.mem_cons.mp hu with rfl | hu
    · exact (State.entered_reacts (s.enterTripState u) l).atRest
        ⟨(hfirst.same.level _).mpr (hl u List.mem_cons_self), s.enterTripState_atRest u (hp u)⟩
    · exact ih (s.enterTripState v) (fun w hw => (hfirst.same.level _).mpr (hl w (List.mem_cons_of_mem v hw)))
        (hfirst.tripStates hp) u hu

/-- R79: the forcing of a group in TRIP brings every unit of it to rest. -/
theorem State.forceGroup_atRest (s : State) (g : Group) (hl : (s.group g).level = .trip) (hp : s.TripStatesOk) :
    ∀ u ∈ groupUnits g, (s.forceGroup g).RestsInTrip u := fun u hu =>
  (s.forceGroup_reacts_entered g).atRest
    (s.entered_atRest (groupUnits g) (fun v hv => by rw [unitGroup_of_mem hv]; exact hl) hp u hu)

/-- Trip-list states of rest, and every unit of a group in TRIP at rest. -/
def State.ForcedRest (s : State) : Prop := s.TripStatesOk ∧ ∀ u, (s.group (unitGroup u)).level = .trip → (s.unit u).atRest = true

theorem State.trippedAtRest_iff (s : State) :
    s.TrippedAtRest ↔ ∀ u, (s.group (unitGroup u)).level = .trip → (s.unit u).atRest = true :=
  ⟨fun h u hl => h _ hl u (mem_groupUnits u), fun h g hl u hu => h u (by rw [unitGroup_of_mem hu]; exact hl)⟩

theorem Reacts.forcedRest (h : Reacts s t) (hs : s.ForcedRest) : t.ForcedRest :=
  ⟨h.tripStates hs.1, fun u hl => by
    have hlevel := (h.same.level _).mp hl
    exact (h.atRest ⟨hlevel, hs.2 u hlevel⟩).2⟩

theorem forcedRest_of_eq (hu : ∀ u, (t.unit u).params = (s.unit u).params ∧ (t.unit u).atRest = (s.unit u).atRest)
    (hl : ∀ g, (t.group g).level = .trip → (s.group g).level = .trip) (hs : s.ForcedRest) : t.ForcedRest :=
  ⟨fun u => by rw [(hu u).1]; exact hs.1 u, fun u ht => by rw [(hu u).2]; exact hs.2 u (hl _ ht)⟩

theorem State.record_units (s : State) (g : Group) (c : Cause) (cls : CauseClass) (u : UnitId) :
    (s.record g c cls).unit u = s.unit u := by
  rw [State.record, State.recordWith_unit]

/-- R97: a trip entry brings the units of its group to rest, and leaves the others at rest. -/
theorem State.tripSteps_forcedRest (s : State) (g : Group) (hs : s.ForcedRest) : (s.tripSteps g).ForcedRest := by
  have hpush := State.pushTripList_reacts (s.setLevel g .trip) g
  have hreacts := s.tripSteps_reacts g
  have hstates : (s.setLevel g .trip).TripStatesOk := hs.1
  have htrip : (((s.setLevel g .trip).pushTripList g).group g).level = .trip := by
    rw [hpush.same.level, State.setLevel_group, if_pos rfl]
  refine ⟨hreacts.tripStates hstates, fun u hl => ?_⟩
  by_cases hg : unitGroup u = g
  · exact (State.forceGroup_atRest _ g htrip (hpush.tripStates hstates) u (hg ▸ mem_groupUnits u)).2
  · have hbefore : ((s.setLevel g .trip).group (unitGroup u)).level = .trip := (hreacts.same.level _).mp hl
    have hold : (s.group (unitGroup u)).level = .trip := by
      rw [State.setLevel_group, if_neg hg] at hbefore
      exact hbefore
    exact (hreacts.atRest ⟨hbefore, hs.2 u hold⟩).2

theorem Turn.forcedRest (h : Turn s t) (hs : s.ForcedRest) : t.ForcedRest := by
  cases h with
  | react t h => exact h.reacts.forcedRest hs
  | other t h =>
    exact forcedRest_of_eq (fun u => ⟨(h.unit u).1, UnitRec.atRest_congr (h.unit u).2.1 (h.unit u).2.2⟩)
      (fun g hl => by simpa only [State.group, h.groups] using hl) hs
  | base c v => exact hs
  | ramp c up => exact hs
  | known g c =>
    exact forcedRest_of_eq (fun u => ⟨by rw [State.record_units], by rw [State.record_units]⟩)
      (fun h hl => ((s.record_raws g c .trip).same.level h).mp hl) hs
  | trip g c =>
    refine State.tripSteps_forcedRest _ g (forcedRest_of_eq (fun u => ⟨by rw [State.record_units], by rw [State.record_units]⟩)
      (fun h hl => ((s.record_raws g c .trip).same.level h).mp hl) hs)
  | release g =>
    have hdrop : (s.dropTrips g).ForcedRest :=
      State.dropTrips_keep s (P := State.ForcedRest) (fun _ _ h hq => h.reacts.forcedRest hq) g (fun _ _ _ hq => hq) hs
    refine forcedRest_of_eq (s := s.dropTrips g) (fun _ => ⟨rfl, rfl⟩) (fun h hl => ?_) hdrop
    rw [State.setLevel_group] at hl
    split at hl
    · exact absurd hl (GroupRec.quietLevel_ne _)
    · exact hl
  | ack g =>
    have hunit (u : UnitId) : ((s.modGroup g GroupRec.acknowledge).giveRecords g).unit u = s.unit u := by
      simpa [State.unit] using congrArg (fun q => State.unit q u) (s.acknowledged_frame g)
    exact forcedRest_of_eq (fun u => ⟨by rw [hunit], by rw [hunit]⟩)
      (fun h hl => by rwa [(s.acknowledged_kept g h).1] at hl) hs

theorem Fresh.forcedRest (h : Fresh s t) : t.ForcedRest := by
  have key (p : Profile) (hp : p.Fits) (hunit : ∀ u, t.unit u = UnitRec.init p.units[u]) : t.ForcedRest :=
    ⟨fun u => hunit u ▸ hp.tripState u, fun u _ => by rw [hunit]; rfl⟩
  cases h with
  | powerOn | warm => exact key _ Profile.default_fits fun u => State.initial_unit _ u
  | setUp a => exact key _ (s.pfl.parameters_fits a) fun u => by simp [State.setUp, State.unit]

theorem step_trippedAtRest (hstep : step s = .next t) (hp : s.TripStatesOk) (hs : s.TrippedAtRest) :
    t.TripStatesOk ∧ t.TrippedAtRest := by
  obtain ⟨hstates, hrest⟩ := step_keep (P := State.ForcedRest) (fun _ _ ht hq => ht.forcedRest hq)
    (fun _ _ hf _ => hf.forcedRest) hstep ⟨hp, s.trippedAtRest_iff.mp hs⟩
  exact ⟨hstates, t.trippedAtRest_iff.mpr hrest⟩

end Sys2Proof.Machine
end

section
/-! What a push and a removal leave of the guards and of the SCALE entries (R16, R140, R143, R144). -/

namespace Sys2Proof.Machine

variable {s t : State} {e x : Entry} {l : List Entry} {y : Source}

/-! ### Identities of a stack -/

/-- After a push, the entry of the pushed identity is the pushed one. -/
theorem eq_of_mem_pushEntry (h : x ∈ pushEntry e l) (hx : x.source = e.source) : x = e := by
  cases hhas : hasSource e.source l with
  | true =>
    rw [pushEntry, if_pos hhas] at h
    obtain ⟨z, _, rfl⟩ := List.mem_map.mp h
    split
    case isTrue => rfl
    case isFalse hne => exact absurd (by rwa [if_neg hne] at hx) hne
  | false => exact (mem_pushEntry h).resolve_right fun hmem => (hasSource_false _ _).mp hhas x hmem hx

theorem hasSource_eq_true : hasSource y l = true ↔ ∃ z ∈ l, z.source = y := by simp [hasSource]

theorem hasSource_insertEntry (hne : e.source ≠ y) : hasSource y (insertEntry e l) = true ↔ hasSource y l = true := by
  have hmem (z : Entry) (hz : z ∈ insertEntry e l) : z = e ∨ z ∈ l := by
    unfold insertEntry at hz
    split at hz
    · simpa [or_comm] using hz
    · induction l with
      | nil => simpa [insertBelowTrip] using hz
      | cons w l ih =>
        unfold insertBelowTrip at hz
        split at hz
        · simpa using hz
        · rcases List.mem_cons.mp hz with rfl | hz
          · simp
          · exact (ih hz).imp_right (List.mem_cons_of_mem w)
  rw [hasSource_eq_true, hasSource_eq_true]
  constructor
  · rintro ⟨z, hz, hzy⟩
    exact ⟨z, (hmem z hz).resolve_left fun he => hne (he ▸ hzy), hzy⟩
  · rintro ⟨z, hz, hzy⟩
    exact ⟨z, mem_insertEntry (.inl hz), hzy⟩

/-- R16, R17: a push keeps every other identity but the one it discards. -/
theorem hasSource_pushEntry (h : StackOk l) (hne : e.source ≠ y) : hasSource y (pushEntry e l) = true ↔
    hasSource y l = true ∧ ∀ z, discardedBy e l = some z → z.source ≠ y := by
  unfold pushEntry discardedBy
  split
  case isTrue => simp [hasSource_iff, replaceEntry_sources]
  case isFalse =>
    split
    case isTrue hfull =>
      rw [hasSource_insertEntry hne]
      obtain ⟨_, hnodup, _, _⟩ := h
      cases l with
      | nil => simp [hasSource]
      | cons w l =>
        obtain ⟨hw, _⟩ := List.nodup_cons.mp hnodup
        simp only [List.tail_cons, List.head?_cons, Option.some.injEq, forall_eq', hasSource_iff, List.map_cons,
          List.mem_cons]
        constructor
        · exact fun hy => ⟨.inr hy, fun he => hw (show w.source ∈ _ from he.symm ▸ hy)⟩
        · exact fun ⟨hy, hwy⟩ => hy.resolve_left fun he => hwy he.symm
    case isFalse => simp [hasSource_insertEntry hne]

/-- R17: an identity that is discarded is gone. -/
theorem hasSource_pushEntry_discarded (h : StackOk l) {z : Entry} (hz : discardedBy e l = some z) :
    hasSource z.source (pushEntry e l) = false := by
  have hne : e.source ≠ z.source := by
    intro he
    unfold discardedBy at hz
    split at hz
    · cases hz
    case isFalse hnew =>
      split at hz
      · exact hnew (hasSource_eq_true.mpr ⟨z, List.mem_of_mem_head? hz, he.symm⟩)
      · cases hz
  cases hhas : hasSource z.source (pushEntry e l) with
  | false => rfl
  | true => exact absurd rfl (((hasSource_pushEntry h hne).mp hhas).2 z hz)

theorem hasSource_filter {p : Entry → Bool} (hp : ∀ z, z.source = y → p z = true) :
    hasSource y (l.filter p) = hasSource y l := by
  rw [Bool.eq_iff_iff, hasSource_eq_true, hasSource_eq_true]
  exact ⟨fun ⟨z, hz, hy⟩ => ⟨z, List.mem_of_mem_filter hz, hy⟩, fun ⟨z, hz, hy⟩ => ⟨z, List.mem_filter.mpr ⟨hz, hp z hy⟩, hy⟩⟩

theorem hasSource_removeEntry : hasSource y (removeEntry y l) = false := by
  rw [hasSource_false]
  intro z hz
  simpa using (List.mem_filter.mp hz).2

/-! ### Guards -/

theorem guardOf_eq_some {c : ChanId} {k : GuardId} : guardOf c = some k ↔ k.chan = c := by
  cases k with
  | silica => revert c; decide
  | calcite i => revert c i; decide

theorem GuardId.chan_inj {k q : GuardId} (h : k.chan = q.chan) : k = q :=
  Option.some.inj ((guardOf_eq_some.mpr rfl).symm.trans (h ▸ guardOf_eq_some.mpr rfl))

theorem State.momentary_frame {β : Type} (p : State → β) (hqueue : ∀ q who b, p (State.queue q who b) = p q)
    (hgroup : ∀ q g f, p (State.modGroup q g f) = p q) (s : State) (g : Group) (c : Cause) : p (s.momentary g c) = p s := by
  unfold State.momentary State.relevel State.setLevel State.recordWith State.queueAll
  dsimp only
  split <;> split <;> simp only [hqueue, hgroup]

theorem State.loseGuard_guard (s : State) (k q : GuardId) :
    (s.loseGuard k).guard q = if q = k then (s.guard k).cleared else s.guard q := by
  have htell (r : State) (old : GuardState) : (r.tellGuard k old .overflow).guard q = r.guard q := by
    unfold State.tellGuard
    dsimp only
    split <;> rfl
  rw [State.loseGuard, htell, State.guard_setGuard]

/-- R144: the guard of a discarded SCALE entry takes CLEAR. -/
theorem State.discarded_guard (s : State) (c : ChanId) (z : Entry) (k : GuardId) : (s.discarded c z).guard k =
    if z.source = .scale ∧ k.chan = c then (s.guard k).cleared else s.guard k := by
  unfold State.discarded
  by_cases hscale : z.source = .scale
  · rw [if_pos hscale]
    dsimp only
    rw [State.momentary_frame (fun q => q.guard k) (fun _ _ _ => rfl) (fun _ _ _ => rfl)]
    cases hc : guardOf c with
    | none =>
      have hne : ¬(z.source = .scale ∧ k.chan = c) := fun ⟨_, he⟩ => by simp [guardOf_eq_some.mpr he] at hc
      rw [if_neg hne]
    | some q =>
      dsimp only
      rw [State.loseGuard_guard]
      have hq := guardOf_eq_some.mp hc
      by_cases hkq : k = q
      · rw [if_pos hkq, if_pos ⟨hscale, hkq ▸ hq⟩, hkq]
      · rw [if_neg hkq, if_neg fun he => hkq (GuardId.chan_inj (he.2.trans hq.symm))]
  · rw [if_neg hscale, if_neg fun he => hscale he.1]
    rfl

theorem State.pushRaw_guard (s : State) (c : ChanId) (e : Entry) (k : GuardId) : (s.pushRaw c e).guard k =
    if (∃ z, discardedBy e (s.chan c).stack = some z ∧ z.source = .scale) ∧ k.chan = c then (s.guard k).cleared
    else s.guard k := by
  unfold State.pushRaw
  cases discardedBy e (s.chan c).stack with
  | none => simp only [reduceCtorEq, false_and, exists_false, if_false]; rfl
  | some z =>
    simp only [Option.some.injEq, exists_eq_left']
    exact s.discarded_guard c z k

theorem State.pushRaw_guardParams (s : State) (c : ChanId) (e : Entry) (k : GuardId) :
    (s.pushRaw c e).guardParams k = s.guardParams k := by
  have hswu := (s.pushRaw_raws c e).same.swu
  cases k <;> simp only [State.guardParams, hswu]

theorem State.setGuard_guardParams (s : State) (k q : GuardId) (g : Guard) :
    (s.setGuard k g).guardParams q = s.guardParams q := by cases k <;> rfl

/-! ### A guard and its entry -/

/-- R140: the guard of a channel, if it has one, is not CLEAR exactly while the stack holds a SCALE entry. -/
def State.GuardMatches (s : State) (c : ChanId) : Prop :=
  hasSource .scale (s.chan c).stack = true ↔ ∃ k : GuardId, k.chan = c ∧ (s.guard k).state ≠ .clear

theorem State.GuardMatches.of_eq {c : ChanId} (h : s.GuardMatches c) (hstack : (t.chan c).stack = (s.chan c).stack)
    (hguard : ∀ k : GuardId, k.chan = c → ((t.guard k).state = .clear ↔ (s.guard k).state = .clear)) : t.GuardMatches c := by
  unfold State.GuardMatches at *
  rw [hstack, h]
  exact exists_congr fun k => and_congr_right fun hk => not_congr (hguard k hk).symm

theorem State.GuardMatches.filter {c d : ChanId} {p : Entry → Bool} (h : s.GuardMatches d)
    (hp : ∀ z, z.source = .scale → p z = true) :
    (s.modChan c fun ch => { ch with stack := ch.stack.filter p }).GuardMatches d := by
  unfold State.GuardMatches at *
  rw [State.chan_modChan]
  split
  case isTrue heq =>
    subst heq
    rw [show (({ s.chan d with stack := (s.chan d).stack.filter p } : Channel)).stack = (s.chan d).stack.filter p from rfl,
      hasSource_filter hp]
    exact h
  case isFalse => exact h

/-- R144: a push discards a SCALE entry together with its guard's state. -/
theorem State.GuardMatches.pushRaw {c d : ChanId} (h : s.GuardMatches d) (hs : s.StacksOk) (he : e.source ≠ .scale) :
    (s.pushRaw c e).GuardMatches d := by
  by_cases hd : d = c
  · subst hd
    unfold State.GuardMatches at *
    rw [State.pushRaw_stack, if_pos rfl]
    by_cases hlost : ∃ z, discardedBy e (s.chan d).stack = some z ∧ z.source = .scale
    · obtain ⟨z, hz, hscale⟩ := hlost
      have hgone := hasSource_pushEntry_discarded (hs d) hz
      rw [hscale] at hgone
      rw [hgone]
      simp only [Bool.false_eq_true, false_iff, not_exists, not_and, not_not]
      intro k hk
      rw [State.pushRaw_guard, if_pos ⟨⟨z, hz, hscale⟩, hk⟩]
      rfl
    · rw [hasSource_pushEntry (hs d) he, h]
      have hkept (k : GuardId) : (s.pushRaw d e).guard k = s.guard k := by
        rw [State.pushRaw_guard, if_neg fun hk => hlost hk.1]
      simp only [hkept, and_iff_left_iff_imp]
      exact fun _ z hz hscale => hlost ⟨z, hz, hscale⟩
  · refine h.of_eq (by rw [State.pushRaw_stack, if_neg hd]) fun k hk => ?_
    rw [State.pushRaw_guard, if_neg fun hlost => hd (hk.symm.trans hlost.2)]

/-- A guard that takes a state other than CLEAR with its SCALE entry. -/
theorem State.GuardMatches.scalePut {d : ChanId} {k : GuardId} {g : Guard} (h : s.GuardMatches d) (hg : g.state ≠ .clear)
    (he : e.source = .scale) : ((s.setGuard k g).pushRaw k.chan e).GuardMatches d := by
  have hkept (q : GuardId) : ((s.setGuard k g).pushRaw k.chan e).guard q = if q = k then g else s.guard q := by
    rw [State.pushRaw_guard, State.guard_setGuard, if_neg]
    rintro ⟨⟨z, hz, hscale⟩, _⟩
    rw [discardedBy, ← hscale.trans he.symm] at hz
    split at hz
    · cases hz
    case isFalse hnew =>
      split at hz
      · exact hnew (hasSource_eq_true.mpr ⟨z, List.mem_of_mem_head? hz, rfl⟩)
      · cases hz
  by_cases hd : d = k.chan
  · subst hd
    unfold State.GuardMatches
    rw [State.pushRaw_stack, if_pos rfl, hasSource_eq_true]
    refine iff_of_true ⟨e, mem_pushEntry_self _ _, he⟩ ⟨k, rfl, ?_⟩
    rwa [hkept, if_pos rfl]
  · refine h.of_eq (by rw [State.pushRaw_stack, if_neg hd, State.setGuard_chan]) fun q hq => ?_
    rw [hkept, if_neg fun heq => hd (by rw [← hq, heq])]

/-- A guard that takes CLEAR, with its SCALE entry removed. -/
theorem State.GuardMatches.scaleDrop {d : ChanId} {k : GuardId} {g : Guard} (h : s.GuardMatches d) (hg : g.state = .clear) :
    ((s.setGuard k g).modChan k.chan fun ch => { ch with stack := removeEntry .scale ch.stack }).GuardMatches d := by
  have hguard (q : GuardId) : ((s.setGuard k g).modChan k.chan fun ch =>
      { ch with stack := removeEntry .scale ch.stack }).guard q = if q = k then g else s.guard q := s.guard_setGuard k q g
  by_cases hd : d = k.chan
  · subst hd
    unfold State.GuardMatches
    rw [State.chan_modChan, if_pos rfl]
    dsimp only
    rw [hasSource_removeEntry]
    simp only [Bool.false_eq_true, false_iff, not_exists, not_and, not_not]
    intro q hq
    rw [hguard, if_pos (GuardId.chan_inj hq)]
    exact hg
  · refine h.of_eq (by rw [State.chan_modChan, if_neg hd, State.setGuard_chan]) fun q hq => ?_
    rw [hguard, if_neg fun heq => hd (by rw [← hq, heq])]

end Sys2Proof.Machine
end

section
/-! The laws of values, guards, trip lists, stores, meter and queues (R15, R20, R97, R140, R152, R165, R175) by the smallest
moves of a step: what one such move keeps, every run of them keeps. -/

namespace Sys2Proof.Machine

variable {s t r : State} {d : Prop}

/-! ### The moves -/

/-- R47, R56: the writer and the offeree of an entry read its channel. -/
def MapEntry.PartiesRead (x : MapEntry) : Prop :=
  (∀ m, x.writer = some m → x.readers.has m = true) ∧ ∀ o, x.offer = some o → x.readers.has o.offeree = true

def State.PartiesRead (s : State) : Prop := ∀ c, (s.entry c).PartiesRead

/-- A record about a channel goes to its readers. -/
def State.Addresses (s : State) (who : Master → Bool) (b : EventBody) : Prop :=
  ∀ c, b.readBy = some c → ∀ m, who m = true → (s.entry c).readers.has m = true

/-- The values of a channel lie in 0 to 1000. -/
def Channel.Fits (x : Channel) : Prop :=
  x.params.safe ≤ 1000 ∧ x.params.fallback ≤ 1000 ∧ x.base ≤ 1000 ∧ x.target ≤ 1000 ∧ x.applied ≤ 1000 ∧
    ∀ e ∈ x.stack, e.value ≤ 1000

/-- The laws that a SCALE entry and its guard keep together. -/
def State.ScalesHold (s : State) : Prop := s.StacksOk ∧ s.ValuesFit ∧ s.GuardsMatch ∧ s.CeilingsOk

/-- A change of other records; the queues may lose records. -/
structure Quiet (s t : State) : Prop where
  queue : ∀ m, (t.port m).queue ⊆ (s.port m).queue
  map : t.map = s.map
  chan : ∀ c, (t.chan c).params = (s.chan c).params ∧ (t.chan c).base = (s.chan c).base ∧
    (t.chan c).stack = (s.chan c).stack ∧ (t.chan c).target = (s.chan c).target ∧ (t.chan c).applied = (s.chan c).applied
  groups : t.groups = s.groups
  actions : t.actions = s.actions
  guard : ∀ k, t.guard k = s.guard k
  guardParams : ∀ k, t.guardParams k = s.guardParams k
  hmt : t.hmt = s.hmt
  period : t.asu.period = s.asu.period
  mirror : t.pfl.mirror = s.pfl.mirror
  eeprom : t.pfl.eeprom = s.pfl.eeprom

/-- What the laws of the meter say of a step (R152). -/
structure MeterRuns (s t : State) : Prop where
  ok : t.MeterOk
  count : s.hmt.kwh ≤ t.hmt.kwh
  reading : t.hmt.kwh < max32 → s.hmt.kwh * kwhUnits + s.hmt.residue ≤ t.hmt.kwh * kwhUnits + t.hmt.residue

/-- One smallest move. Only where `d` holds may a group enter TRIP, a TRIP entry leave a stack, or a record go to a master that
is not known to read its channel. -/
inductive Micro (d : Prop) (s : State) : State → Prop
  | quiet (t : State) (h : Quiet s t) : Micro d s t
  | queue (who : Master → Bool) (b : EventBody) (h : d ∨ (s.PartiesRead → s.Addresses who b)) : Micro d s (s.queue who b)
  | group (g : Group) (f : GroupRec → GroupRec) (hlist : (f (s.group g)).tripList = (s.group g).tripList)
      (hlevel : d ∨ ((f (s.group g)).level = .trip → (s.group g).level = .trip)) : Micro d s (s.modGroup g f)
  | value (c : ChanId) (f : Channel → Channel) (hf : (f (s.chan c)).params = (s.chan c).params ∧
      (f (s.chan c)).base = (s.chan c).base ∧ (f (s.chan c)).stack = (s.chan c).stack)
      (hv : s.ValuesFit → (f (s.chan c)).target ≤ 1000 ∧ (f (s.chan c)).applied ≤ 1000) : Micro d s (s.modChan c f)
  | base (c : ChanId) (v : Nat) (hv : v ≤ 1000) : Micro d s (s.modChan c fun ch => { ch with base := v })
  | filter (c : ChanId) (p : Entry → Bool) (hs : ∀ e, e.source = .scale → p e = true)
      (ht : d ∨ ∀ e, e.source = .trip → p e = true) :
      Micro d s (s.modChan c fun ch => { ch with stack := ch.stack.filter p })
  | push (c : ChanId) (e : Entry) (hs : e.source ≠ .scale) (hv : s.ValuesFit → e.value ≤ 1000)
      (ht : e.source = .trip → e.kind = .value ∧
        (s.TripListsOk → ⟨c, e.value⟩ ∈ (s.group (chanGroup c)).tripList)) : Micro d s (s.pushRaw c e)
  | scalePut (k : GuardId) (g : Guard) (e : Entry) (hg : g.state ≠ .clear ∧ g.ceiling = some e.value)
      (he : e.source = .scale ∧ e.kind = .ceiling) (hv : s.ValuesFit → e.value ≤ 1000)
      (hj : s.ScalesHold → (s.guardParams k).floor ≤ e.value ∧ e.value ≤ 999) :
      Micro d s ((s.setGuard k g).pushRaw k.chan e)
  | scaleDrop (k : GuardId) (g : Guard) (hg : g.state = .clear ∧ g.ceiling = none) :
      Micro d s ((s.setGuard k g).modChan k.chan fun ch => { ch with stack := removeEntry .scale ch.stack })
  | guardNote (k : GuardId) (g : Guard) (hg : (g.ceiling = (s.guard k).ceiling ∧
      (g.state = .clear ↔ (s.guard k).state = .clear)) ∨
      (g.state = .clear ∧ g.ceiling = none ∧ hasSource .scale (s.chan k.chan).stack = false)) : Micro d s (s.setGuard k g)
  | entry (c : ChanId) (f : MapEntry → MapEntry) (hf : (s.entry c).PartiesRead → (f (s.entry c)).PartiesRead)
      (hr : ∀ m, (s.entry c).readers.has m = true → (f (s.entry c)).readers.has m = true) : Micro d s (s.modEntry c f)
  | meter (x : Hmt) (h : s.MeterOk → MeterRuns s { s with hmt := x }) : Micro d s { s with hmt := x }
  | stores (f : Pfl → Pfl) (h : s.StoresOk → (s.modPfl f).StoresOk) : Micro d s (s.modPfl f)

/-- A run of smallest moves. -/
abbrev Micros (d : Prop) : State → State → Prop := Relation.ReflTransGen (Micro d)

theorem Micro.run (h : Micro d s t) : Micros d s t := .single h
theorem Micros.trans (h : Micros d s t) (k : Micros d t r) : Micros d s r := Relation.ReflTransGen.trans h k
theorem Micros.refl : Micros d s s := Relation.ReflTransGen.refl

theorem Micros.keep {P : State → Prop} (hP : ∀ s t, Micro d s t → P s → P t) (h : Micros d s t) (hs : P s) : P t := by
  induction h with
  | refl => exact hs
  | tail _ h ih => exact hP _ _ h ih

theorem Micro.loosen (h : Micro False s t) : Micro d s t := by
  cases h with
  | quiet t h => exact .quiet t h
  | queue who b h => exact .queue who b (.inr (h.resolve_left id))
  | group g f hlist hlevel => exact .group g f hlist (.inr (hlevel.resolve_left id))
  | value c f hf hv => exact .value c f hf hv
  | base c v hv => exact .base c v hv
  | filter c p hs ht => exact .filter c p hs (.inr (ht.resolve_left id))
  | push c e hs hv ht => exact .push c e hs hv ht
  | scalePut k g e hg he hv hj => exact .scalePut k g e hg he hv hj
  | scaleDrop k g hg => exact .scaleDrop k g hg
  | guardNote k g hg => exact .guardNote k g hg
  | entry c f hf hr => exact .entry c f hf hr
  | meter x h => exact .meter x h
  | stores f h => exact .stores f h

theorem Micros.loosen (h : Micros False s t) : Micros d s t := by
  induction h with
  | refl => exact .refl
  | tail _ h ih => exact ih.tail h.loosen

/-! ### What a move leaves -/

/-- The stack of a channel after a move. -/
theorem Micro.stack (h : Micro d s t) (c : ChanId) : StackMoves (s.chan c).stack (t.chan c).stack := by
  cases h with
  | quiet t h => exact stackMoves_of_eq (h.chan c).2.2.1
  | queue | group | entry | meter | stores => exact .stays
  | value b f hf =>
    refine stackMoves_of_eq ?_
    rw [State.chan_modChan]
    split
    case isTrue heq => subst heq; exact hf.2.2
    case isFalse => rfl
  | base b v =>
    refine stackMoves_of_eq ?_
    rw [State.chan_modChan]
    split
    case isTrue heq => rw [heq]
    case isFalse => rfl
  | filter b p =>
    rw [State.chan_modChan]
    split
    case isTrue heq => subst heq; exact .loses p
    case isFalse => exact .stays
  | push b e hs hv ht =>
    rw [State.pushRaw_stack]
    split
    case isTrue heq => subst heq; exact .takes e fun h => (ht h).1
    case isFalse => exact .stays
  | scalePut k g e hg he =>
    rw [State.pushRaw_stack, State.setGuard_chan, State.setGuard_chan]
    split
    case isTrue heq => subst heq; exact .takes e fun h => by rw [he.1] at h; cases h
    case isFalse => exact .stays
  | scaleDrop k g =>
    rw [State.chan_modChan, State.setGuard_chan, State.setGuard_chan]
    split
    case isTrue heq => subst heq; exact .loses _
    case isFalse => exact .stays
  | guardNote k g => exact stackMoves_of_eq (by rw [State.setGuard_chan])

theorem Micro.stacksOk (h : Micro d s t) (hs : s.StacksOk) : t.StacksOk := fun c => (hs c).moves (h.stack c)

theorem State.pushRaw_tripList (s : State) (c : ChanId) (e : Entry) (g : Group) :
    ((s.pushRaw c e).group g).tripList = (s.group g).tripList := (s.pushRaw_raws c e).same.tripList g

theorem Micro.tripList (h : Micro d s t) (g : Group) : (t.group g).tripList = (s.group g).tripList := by
  cases h with
  | quiet t h => simp only [State.group, h.groups]
  | queue | value | base | filter | entry | meter | stores => rfl
  | group k f hlist =>
    rw [State.group_modGroup]
    split
    case isTrue heq => subst heq; exact hlist
    case isFalse => rfl
  | push b e => exact s.pushRaw_tripList b e g
  | scalePut k x e => rw [State.pushRaw_tripList, State.setGuard_group]
  | scaleDrop k x => exact congrArg GroupRec.tripList (s.setGuard_group k x g)
  | guardNote k x => rw [State.setGuard_group]

/-! ### Values -/

theorem foldStack_le {b : Bool} {v : Nat} {l : List Entry} (hv : v ≤ 1000) (hl : ∀ e ∈ l, e.value ≤ 1000) :
    foldStack b v l ≤ 1000 := by
  unfold foldStack
  induction l generalizing v with
  | nil => exact hv
  | cons e l ih =>
    have he := hl e List.mem_cons_self
    refine ih ?_ fun z hz => hl z (List.mem_cons_of_mem e hz)
    dsimp only
    split
    · unfold Entry.apply
      split <;> omega
    · exact hv

theorem Channel.Fits.fold {x : Channel} (h : x.Fits) (b : Bool) : x.fold b ≤ 1000 := by
  obtain ⟨hsafe, _, hbase, _, _, hstack⟩ := h
  refine foldStack_le ?_ hstack
  split
  · exact hbase
  · exact hsafe

theorem Channel.retarget_applied (x : Channel) (a : Bool) (v : Nat) :
    (x.retarget a v).applied = v ∨ (x.retarget a v).applied = x.applied := by
  unfold Channel.retarget
  split
  · split
    · exact .inr rfl
    · exact .inl (Channel.oneShotTarget_spec x v).2.2.2.2
  · split
    · exact .inl (Channel.setApplied_spec _ v).2.2.2.2.1
    · exact .inr rfl

theorem State.ValuesFit.chan (h : s.ValuesFit) (c : ChanId) : (s.chan c).Fits := h.1 c

/-- A fold that is recomputed stays in range. -/
theorem Micro.refold (c : ChanId) : Micro d s (s.refold c) := by
  have hspec := Channel.retarget_spec (s.chan c) (s.unit (unitOf c)).atRest
    ((s.chan c).fold (s.unit (unitOf c)).foldsFromBase)
  refine .value c (fun ch => ch.retarget (s.unit (unitOf c)).atRest (ch.fold (s.unit (unitOf c)).foldsFromBase))
    ⟨hspec.1, hspec.2.1, hspec.2.2.1⟩ fun hs => ?_
  have hfold := (hs.chan c).fold (s.unit (unitOf c)).foldsFromBase
  refine ⟨hspec.2.2.2.le.trans hfold, ?_⟩
  obtain ⟨_, _, _, _, happlied, _⟩ := hs.chan c
  rcases (s.chan c).retarget_applied (s.unit (unitOf c)).atRest ((s.chan c).fold (s.unit (unitOf c)).foldsFromBase)
    with h | h
  · exact h.le.trans hfold
  · exact h.le.trans happlied

/-- A stack that takes or loses entries in range. -/
theorem Channel.Fits.restack {x : Channel} (h : x.Fits) {l : List Entry} (hl : ∀ e ∈ l, e.value ≤ 1000) :
    { x with stack := l }.Fits := by
  obtain ⟨hsafe, hfallback, hbase, htarget, happlied, _⟩ := h
  exact ⟨hsafe, hfallback, hbase, htarget, happlied, hl⟩

theorem Channel.Fits.push {x : Channel} (h : x.Fits) {e : Entry} (he : e.value ≤ 1000) :
    { x with stack := pushEntry e x.stack }.Fits := by
  refine h.restack fun z hz => ?_
  rcases mem_pushEntry hz with rfl | hz
  · exact he
  · exact h.2.2.2.2.2 z hz

theorem Channel.Fits.filter {x : Channel} (h : x.Fits) (p : Entry → Bool) : { x with stack := x.stack.filter p }.Fits :=
  h.restack fun z hz => h.2.2.2.2.2 z (List.mem_of_mem_filter hz)

theorem Micro.chanFits (h : Micro d s t) (hs : s.ValuesFit) (c : ChanId) : (t.chan c).Fits := by
  have hc := hs.chan c
  cases h with
  | quiet t h =>
    obtain ⟨hparams, hbase, hstack, htarget, happlied⟩ := h.chan c
    unfold Channel.Fits
    rwa [hparams, hbase, hstack, htarget, happlied]
  | queue | group | entry | meter | stores => exact hc
  | value b f hf hv =>
    rw [State.chan_modChan]
    split
    case isTrue heq =>
      subst heq
      obtain ⟨hsafe, hfallback, hbase, _, _, hstack⟩ := hc
      obtain ⟨hfparams, hfbase, hfstack⟩ := hf
      obtain ⟨htarget, happlied⟩ := hv hs
      unfold Channel.Fits
      rw [hfparams, hfbase, hfstack]
      exact ⟨hsafe, hfallback, hbase, htarget, happlied, hstack⟩
    case isFalse => exact hc
  | base b v hv =>
    rw [State.chan_modChan]
    split
    case isTrue heq =>
      subst heq
      obtain ⟨hsafe, hfallback, _, htarget, happlied, hstack⟩ := hc
      exact ⟨hsafe, hfallback, hv, htarget, happlied, hstack⟩
    case isFalse => exact hc
  | filter b p =>
    rw [State.chan_modChan]
    split
    case isTrue heq => subst heq; exact hc.filter p
    case isFalse => exact hc
  | push b e _ hv =>
    rw [State.pushRaw_chan]
    split
    case isTrue heq => subst heq; exact hc.push (hv hs)
    case isFalse => exact hc
  | scalePut k g e _ _ hv =>
    rw [State.pushRaw_chan, State.setGuard_chan, State.setGuard_chan]
    split
    case isTrue heq => subst heq; exact hc.push (hv hs)
    case isFalse => exact hc
  | scaleDrop k g =>
    rw [State.chan_modChan, State.setGuard_chan, State.setGuard_chan]
    split
    case isTrue heq => subst heq; exact hc.filter _
    case isFalse => exact hc
  | guardNote k g => rwa [State.setGuard_chan]

theorem Micro.actions (h : Micro d s t) : t.actions = s.actions := by
  cases h with
  | quiet t h => exact h.actions
  | push b e => exact (s.pushRaw_raws b e).same.actions
  | scalePut k x e => exact ((State.pushRaw_raws _ k.chan e).same.actions).trans (s.setGuard_raws k x).same.actions
  | scaleDrop k x => exact (s.setGuard_raws k x).same.actions
  | guardNote k x => exact (s.setGuard_raws k x).same.actions
  | queue | group | value | base | filter | entry | meter | stores => rfl

theorem Micro.guardParams (h : Micro d s t) (k : GuardId) : t.guardParams k = s.guardParams k := by
  cases h with
  | quiet t h => exact h.guardParams k
  | push b e => exact s.pushRaw_guardParams b e k
  | scalePut q x e => exact (State.pushRaw_guardParams _ q.chan e k).trans (s.setGuard_guardParams q k x)
  | scaleDrop q x => exact s.setGuard_guardParams q k x
  | guardNote q x => exact s.setGuard_guardParams q k x
  | queue | group | value | base | filter | entry | meter | stores => cases k <;> rfl

/-- What a move makes of the ceiling of a guard. -/
theorem Micro.ceiling (h : Micro d s t) (hs : s.ValuesFit) (k : GuardId) {v : Nat} (hv : (t.guard k).ceiling = some v) :
    v ≤ 1000 := by
  have hold {w : Nat} (hw : (s.guard k).ceiling = some w) : w ≤ 1000 := by
    obtain ⟨_, _, _, hguards⟩ := hs
    exact (hguards k).2 w hw
  cases h with
  | quiet t h => exact hold ((h.guard k) ▸ hv)
  | push b e =>
    rw [State.pushRaw_guard] at hv
    split at hv
    · cases hv
    · exact hold hv
  | scalePut q x e hg _ hvalue =>
    rw [State.pushRaw_guard] at hv
    split at hv
    · cases hv
    · rw [State.guard_setGuard] at hv
      split at hv
      · rw [hg.2] at hv
        cases hv
        exact hvalue hs
      · exact hold hv
  | scaleDrop q x hg =>
    change ((s.setGuard q x).guard k).ceiling = some v at hv
    rw [State.guard_setGuard] at hv
    split at hv
    · rw [hg.2] at hv
      cases hv
    · exact hold hv
  | guardNote q x hg =>
    rw [State.guard_setGuard] at hv
    split at hv
    case isTrue heq =>
      subst heq
      rcases hg with ⟨hceiling, _⟩ | ⟨_, hnone, _⟩
      · exact hold (hceiling ▸ hv)
      · rw [hnone] at hv
        cases hv
    case isFalse => exact hold hv
  | queue | group | value | base | filter | entry | meter | stores => exact hold (by cases k <;> exact hv)

theorem Micro.valuesFit (h : Micro d s t) (hs : s.ValuesFit) : t.ValuesFit := by
  refine ⟨h.chanFits hs, fun g => ?_, ?_, fun k => ⟨?_, fun v hv => h.ceiling hs k hv⟩⟩
  · rw [h.tripList]
    exact hs.2.1 g
  · rw [h.actions]
    exact hs.2.2.1
  · rw [h.guardParams]
    exact (hs.2.2.2 k).1

end Sys2Proof.Machine
end

section
/-! What the smallest moves keep of guards, trip lists, stores, meter and records (R97, R140, R152, R165, R166, R175). -/

namespace Sys2Proof.Machine

variable {s t r : State} {d : Prop}

/-! ### Guards -/

theorem Micro.guardsMatch (h : Micro d s t) (hstack : s.StacksOk) (hs : s.GuardsMatch) : t.GuardsMatch := by
  intro c
  have hc : s.GuardMatches c := hs c
  have hstays (hst : (t.chan c).stack = (s.chan c).stack) (hg : ∀ k, t.guard k = s.guard k) : t.GuardMatches c :=
    hc.of_eq hst fun k _ => by rw [hg]
  cases h with
  | quiet t h => exact hstays (h.chan c).2.2.1 h.guard
  | queue | group | entry | meter | stores => exact hc
  | value b f hf =>
    refine hstays ?_ fun _ => rfl
    rw [State.chan_modChan]
    split
    case isTrue heq => subst heq; exact hf.2.2
    case isFalse => rfl
  | base b v =>
    refine hstays ?_ fun _ => rfl
    rw [State.chan_modChan]
    split
    case isTrue heq => rw [heq]
    case isFalse => rfl
  | filter b p hscale => exact hc.filter hscale
  | push b e hscale => exact hc.pushRaw hstack hscale
  | scalePut k g e hg he => exact hc.scalePut hg.1 he.1
  | scaleDrop k g hg => exact hc.scaleDrop hg.1
  | guardNote k g hg =>
    by_cases hk : k.chan = c ∧ g.state = .clear ∧ hasSource .scale (s.chan k.chan).stack = false
    · obtain ⟨rfl, hclear, hnone⟩ := hk
      refine ⟨fun hhas => ?_, fun ⟨q, hq, hstate⟩ => ?_⟩
      · rw [State.setGuard_chan, hnone] at hhas
        cases hhas
      · rw [State.guard_setGuard, if_pos (GuardId.chan_inj hq)] at hstate
        exact absurd hclear hstate
    · refine hc.of_eq (by rw [State.setGuard_chan]) fun q hq => ?_
      rw [State.guard_setGuard]
      split
      case isTrue heq =>
        subst heq
        rcases hg with ⟨_, hiff⟩ | ⟨hclear, _, hnone⟩
        · exact hiff
        · exact absurd ⟨hq, hclear, hnone⟩ hk
      case isFalse => rfl

/-- What a guard and the SCALE entries of its channel keep together (R140, R143). -/
def ceilingOk (floor : Nat) (g : Guard) (l : List Entry) : Prop :=
  (g.state = .clear → g.ceiling = none) ∧ ∀ x ∈ l, x.source = .scale →
    x.kind = .ceiling ∧ g.ceiling = some x.value ∧ floor ≤ x.value ∧ x.value ≤ 999

theorem ceilingOk.shrink {floor : Nat} {g : Guard} {l k : List Entry} (h : ceilingOk floor g l)
    (hk : ∀ x ∈ k, x.source = .scale → x ∈ l) : ceilingOk floor g k :=
  ⟨h.1, fun x hx hscale => h.2 x (hk x hx hscale) hscale⟩

theorem ceilingOk_cleared {floor : Nat} {g : Guard} {l : List Entry} (hg : g.ceiling = none)
    (hl : hasSource .scale l = false) : ceilingOk floor g l :=
  ⟨fun _ => hg, fun x hx hscale => absurd hscale ((hasSource_false _ _).mp hl x hx)⟩

theorem Micro.ceiling_ok (h : Micro d s t) (hs : s.ScalesHold) (k : GuardId) :
    ceilingOk (s.guardParams k).floor (t.guard k) (t.chan k.chan).stack := by
  have hall := hs
  obtain ⟨hstack, _, _, hceilings⟩ := hs
  obtain ⟨_, _, hclear, hentries⟩ := hceilings k
  have hk : ceilingOk (s.guardParams k).floor (s.guard k) (s.chan k.chan).stack := ⟨hclear, hentries⟩
  have hstays (hst : (t.chan k.chan).stack = (s.chan k.chan).stack) (hg : t.guard k = s.guard k) :
      ceilingOk (s.guardParams k).floor (t.guard k) (t.chan k.chan).stack := by rwa [hst, hg]
  cases h with
  | quiet t h => exact hstays (h.chan _).2.2.1 (h.guard k)
  | queue | group | entry | meter | stores => exact hstays rfl (by cases k <;> rfl)
  | value b f hf =>
    refine hstays ?_ (by cases k <;> rfl)
    rw [State.chan_modChan]
    split
    case isTrue heq => rw [heq]; exact hf.2.2
    case isFalse => rfl
  | base b v =>
    refine hstays ?_ (by cases k <;> rfl)
    rw [State.chan_modChan]
    split
    case isTrue heq => rw [heq]
    case isFalse => rfl
  | filter b p =>
    refine hk.shrink fun x hx _ => ?_
    rw [State.chan_modChan] at hx
    split at hx
    case isTrue heq => rw [heq]; exact List.mem_of_mem_filter hx
    case isFalse => exact hx
  | push b e hscale =>
    rw [State.pushRaw_guard, State.pushRaw_stack]
    split
    case isTrue hlost =>
      obtain ⟨⟨z, hz, hzs⟩, hkb⟩ := hlost
      rw [if_pos hkb]
      exact ceilingOk_cleared rfl (hzs ▸ hasSource_pushEntry_discarded (hstack b) hz)
    case isFalse =>
      refine hk.shrink fun x hx hxs => ?_
      split at hx
      case isTrue heq =>
        rw [heq]
        exact (mem_pushEntry hx).resolve_left fun he => hscale (he ▸ hxs)
      case isFalse => exact hx
  | scalePut q g e hg he hv hj =>
    by_cases hkq : k = q
    · subst hkq
      obtain ⟨hlow, hhigh⟩ := hj hall
      have hguard : ((s.setGuard k g).pushRaw k.chan e).guard k = g := by
        rw [State.pushRaw_guard, State.guard_setGuard, if_pos rfl, if_neg]
        rintro ⟨⟨z, hz, hzs⟩, _⟩
        have hgone := hasSource_pushEntry_discarded ((s.setGuard_chan k g k.chan) ▸ hstack k.chan) hz
        rw [hzs, ← he.1] at hgone
        exact (hasSource_false _ _).mp hgone e (mem_pushEntry_self _ _) rfl
      rw [hguard, State.pushRaw_stack, if_pos rfl]
      refine ⟨fun hclear => absurd hclear hg.1, fun x hx hxs => ?_⟩
      rw [eq_of_mem_pushEntry hx (hxs.trans he.1.symm)]
      exact ⟨he.2, hg.2, hlow, hhigh⟩
    · have hne : k.chan ≠ q.chan := fun h => hkq (GuardId.chan_inj h)
      refine hstays ?_ ?_
      · rw [State.pushRaw_stack, if_neg hne, State.setGuard_chan]
      · rw [State.pushRaw_guard, if_neg fun h => hne h.2, State.guard_setGuard, if_neg hkq]
  | scaleDrop q g hg =>
    by_cases hkq : k = q
    · subst hkq
      change ceilingOk _ ((s.setGuard k g).guard k) _
      rw [State.guard_setGuard, if_pos rfl, State.chan_modChan, if_pos rfl]
      exact ceilingOk_cleared hg.2 hasSource_removeEntry
    · refine hstays ?_ ?_
      · rw [State.chan_modChan, if_neg fun h => hkq (GuardId.chan_inj h), State.setGuard_chan]
      · change (s.setGuard q g).guard k = _
        rw [State.guard_setGuard, if_neg hkq]
  | guardNote q g hg =>
    rw [State.guard_setGuard, State.setGuard_chan]
    split
    case isTrue hkq =>
      subst hkq
      rcases hg with ⟨hsame, hiff⟩ | ⟨_, hnone, hgone⟩
      · exact ⟨fun hc => hsame.trans (hclear (hiff.mp hc)), hsame ▸ hentries⟩
      · exact ceilingOk_cleared hnone hgone
    case isFalse => exact hk

theorem Micro.scalesHold (h : Micro d s t) (hs : s.ScalesHold) : t.ScalesHold := by
  have hall := hs
  obtain ⟨hstack, hvalues, hguards, hceilings⟩ := hs
  refine ⟨h.stacksOk hstack, h.valuesFit hvalues, h.guardsMatch hstack hguards, fun k => ?_⟩
  rw [h.guardParams]
  exact ⟨(hceilings k).1, (hceilings k).2.1, h.ceiling_ok hall k⟩

/-! ### Trip lists -/

theorem Micro.level (h : Micro False s t) (g : Group) (hl : (t.group g).level = .trip) : (s.group g).level = .trip := by
  cases h with
  | quiet t h => simpa only [State.group, h.groups] using hl
  | group k f _ hlevel =>
    rw [State.group_modGroup] at hl
    split at hl
    case isTrue heq => subst heq; exact hlevel.resolve_left id hl
    case isFalse => exact hl
  | push b e => exact ((s.pushRaw_raws b e).same.level g).mp hl
  | scalePut k x e =>
    have hset := ((State.pushRaw_raws _ k.chan e).same.level g).mp hl
    rwa [State.setGuard_group] at hset
  | scaleDrop k x =>
    change ((s.setGuard k x).group g).level = .trip at hl
    rwa [State.setGuard_group] at hl
  | guardNote k x => rwa [State.setGuard_group] at hl
  | queue | value | base | filter | entry | meter | stores => exact hl

theorem Micro.tripListsOk (h : Micro d s t) (hs : s.TripListsOk) : t.TripListsOk := fun g => by
  rw [h.tripList]
  exact hs g

/-- A trip list names one value for a channel. -/
theorem tripListOk.unique {g : Group} {l : List TripItem} (h : tripListOk g l) {x y : TripItem} (hx : x ∈ l) (hy : y ∈ l)
    (hxy : x.channel = y.channel) : x = y :=
  List.inj_on_of_nodup_map h.2 hx hy hxy

/-- A TRIP entry with its listed value stays. -/
theorem Micro.holds_listed (h : Micro False s t) (hs : s.StacksOk) (hlists : s.TripListsOk) {x : TripItem}
    (hx : x ∈ (s.group (chanGroup x.channel)).tripList)
    (he : ∃ e ∈ (s.chan x.channel).stack, e.source = .trip ∧ e.value = x.value) :
    ∃ e ∈ (t.chan x.channel).stack, e.source = .trip ∧ e.value = x.value := by
  obtain ⟨e, he, htrip, hvalue⟩ := he
  have hstays (hst : (t.chan x.channel).stack = (s.chan x.channel).stack) :
      ∃ e ∈ (t.chan x.channel).stack, e.source = .trip ∧ e.value = x.value := ⟨e, hst ▸ he, htrip, hvalue⟩
  cases h with
  | quiet t h => exact hstays (h.chan _).2.2.1
  | queue | group | entry | meter | stores => exact hstays rfl
  | value b f hf =>
    refine hstays ?_
    rw [State.chan_modChan]
    split
    case isTrue heq => rw [heq]; exact hf.2.2
    case isFalse => rfl
  | base b v =>
    refine hstays ?_
    rw [State.chan_modChan]
    split
    case isTrue heq => rw [heq]
    case isFalse => rfl
  | filter b p _ ht =>
    refine ⟨e, ?_, htrip, hvalue⟩
    rw [State.chan_modChan]
    split
    case isTrue heq => exact List.mem_filter.mpr ⟨heq ▸ he, ht.resolve_left id e htrip⟩
    case isFalse => exact he
  | push b k _ _ hk =>
    rw [State.pushRaw_stack]
    split
    case isTrue heq =>
      subst heq
      by_cases hkt : k.source = .trip
      · have hlisted : (⟨x.channel, k.value⟩ : TripItem) = x := tripListOk.unique (hlists _) ((hk hkt).2 hlists) hx rfl
        exact ⟨k, mem_pushEntry_self _ _, hkt, congrArg TripItem.value hlisted⟩
      · exact ⟨e, (hs x.channel).push_keeps_trip he htrip hkt, htrip, hvalue⟩
    case isFalse => exact ⟨e, he, htrip, hvalue⟩
  | scalePut k g z _ hz =>
    rw [State.pushRaw_stack, State.setGuard_chan, State.setGuard_chan]
    split
    case isTrue heq =>
      have hne : z.source ≠ .trip := fun h => by rw [hz.1] at h; cases h
      exact ⟨e, heq ▸ (hs x.channel).push_keeps_trip he htrip hne, htrip, hvalue⟩
    case isFalse => exact ⟨e, he, htrip, hvalue⟩
  | scaleDrop k g =>
    refine ⟨e, ?_, htrip, hvalue⟩
    rw [State.chan_modChan, State.setGuard_chan, State.setGuard_chan]
    split
    case isTrue heq =>
      refine List.mem_filter.mpr ⟨heq ▸ he, ?_⟩
      rw [htrip]
      rfl
    case isFalse => exact he
  | guardNote k g => exact hstays (by rw [State.setGuard_chan])

/-- R97: in a group in TRIP, every channel of the trip list holds its TRIP entry. -/
def State.ListHolds (s : State) (g : Group) : Prop := (s.group g).level = .trip →
  ∀ x ∈ (s.group g).tripList, ∃ e ∈ (s.chan x.channel).stack, e.source = .trip ∧ e.value = x.value

/-- The trip list of one group with the forms that its law needs. -/
def State.ListStands (s : State) (g : Group) : Prop := s.StacksOk ∧ s.TripListsOk ∧ s.ListHolds g

theorem Micro.listStands (h : Micro False s t) (g : Group) (hs : s.ListStands g) : t.ListStands g := by
  obtain ⟨hstack, hlists, hhold⟩ := hs
  refine ⟨h.stacksOk hstack, h.tripListsOk hlists, fun hl x hx => ?_⟩
  rw [h.tripList] at hx
  have hg : chanGroup x.channel = g := (hlists g).1 x hx
  exact h.holds_listed hstack hlists (hg.symm ▸ hx) (hhold (h.level g hl) x hx)

theorem Micros.listStands (h : Micros False s t) (g : Group) (hs : s.ListStands g) : t.ListStands g :=
  h.keep (P := fun q => q.ListStands g) (fun _ _ h hq => h.listStands g hq) hs

/-! ### Stores and the meter -/

theorem storesOk_of_eq (hm : t.pfl.mirror = s.pfl.mirror) (he : t.pfl.eeprom = s.pfl.eeprom) (hs : s.StoresOk) :
    t.StoresOk := by
  unfold State.StoresOk
  rwa [hm, he]

theorem Micro.storesOk (h : Micro d s t) (hs : s.StoresOk) : t.StoresOk := by
  cases h with
  | quiet t h => exact storesOk_of_eq h.mirror h.eeprom hs
  | push b e =>
    have hpfl := (s.pushRaw_raws b e).same.pfl
    exact storesOk_of_eq (by rw [hpfl]) (by rw [hpfl]) hs
  | scalePut k x e =>
    have hpfl := ((State.pushRaw_raws _ k.chan e).same.pfl).trans (s.setGuard_raws k x).same.pfl
    exact storesOk_of_eq (by rw [hpfl]) (by rw [hpfl]) hs
  | scaleDrop k x =>
    have hpfl := (s.setGuard_raws k x).same.pfl
    exact storesOk_of_eq (congrArg Pfl.mirror hpfl) (congrArg Pfl.eeprom hpfl) hs
  | guardNote k x =>
    have hpfl := (s.setGuard_raws k x).same.pfl
    exact storesOk_of_eq (by rw [hpfl]) (by rw [hpfl]) hs
  | stores f h => exact h hs
  | queue | group | value | base | filter | entry | meter => exact hs

theorem MeterRuns.refl (h : s.MeterOk) : MeterRuns s s := ⟨h, le_rfl, fun _ => le_rfl⟩

theorem MeterRuns.trans (h : MeterRuns s t) (k : MeterRuns t r) : MeterRuns s r :=
  ⟨k.ok, h.count.trans k.count, fun hr => (h.reading (k.count.trans_lt hr)).trans (k.reading hr)⟩

theorem meterRuns_of_eq (hh : t.hmt = s.hmt) (hp : t.asu.period = s.asu.period) (hs : s.MeterOk) : MeterRuns s t := by
  refine ⟨?_, hh ▸ le_rfl, fun _ => hh ▸ le_rfl⟩
  unfold State.MeterOk
  rwa [hh, hp]

theorem Micro.meterRuns (h : Micro d s t) (hs : s.MeterOk) : MeterRuns s t := by
  have hsame (h : Same s t) : MeterRuns s t := meterRuns_of_eq h.hmt (by rw [h.asu]) hs
  cases h with
  | quiet t h => exact meterRuns_of_eq h.hmt h.period hs
  | push b e => exact hsame (s.pushRaw_raws b e).same
  | scalePut k x e => exact hsame ((s.setGuard_raws k x).same.trans (State.pushRaw_raws _ k.chan e).same)
  | scaleDrop k x => exact meterRuns_of_eq (s.setGuard_raws k x).same.hmt (congrArg Asu.period (s.setGuard_raws k x).same.asu) hs
  | guardNote k x => exact hsame (s.setGuard_raws k x).same
  | meter x h => exact h hs
  | queue | group | value | base | filter | entry | stores => exact meterRuns_of_eq rfl rfl hs

/-! ### Records -/

/-- Every record of a queue was there before, or is addressed to its readers (R165, R166); no reader is lost. -/
structure Adds (s t : State) : Prop where
  parties : t.PartiesRead
  readers : ∀ c m, (s.entry c).readers.has m = true → (t.entry c).readers.has m = true
  record : ∀ m, ∀ x ∈ (t.port m).queue, x ∈ (s.port m).queue ∨
    ∀ c, x.body.readBy = some c → (t.entry c).readers.has m = true

theorem Adds.refl (h : s.PartiesRead) : Adds s s := ⟨h, fun _ _ => id, fun _ _ hx => .inl hx⟩

theorem Adds.trans (h : Adds s t) (k : Adds t r) : Adds s r where
  parties := k.parties
  readers c m hm := k.readers c m (h.readers c m hm)
  record m x hx := by
    rcases k.record m x hx with hx | hx
    · exact (h.record m x hx).imp_right fun hread c hc => k.readers c m (hread c hc)
    · exact .inr hx

theorem adds_of_eq (hmap : t.map = s.map) (hq : ∀ m, (t.port m).queue ⊆ (s.port m).queue) (hs : s.PartiesRead) :
    Adds s t := by
  have hentry (c : ChanId) : t.entry c = s.entry c := by simp only [State.entry, hmap]
  exact ⟨fun c => by rw [hentry]; exact hs c, fun c m hm => by rwa [hentry], fun m x hx => .inl (hq m hx)⟩

theorem Port.mem_append_queue {p : Port} {e x : Event} (h : x ∈ (p.append e).queue) : x ∈ p.queue ∨ x = e := by
  unfold Port.append at h
  split at h
  · simpa using h
  · exact .inl h

theorem State.queue_adds (s : State) (who : Master → Bool) (b : EventBody) (hb : s.Addresses who b) (hs : s.PartiesRead) :
    Adds s (s.queue who b) := by
  refine ⟨hs, fun _ _ hm => hm, fun m x hx => ?_⟩
  rw [State.port_queue] at hx
  split at hx
  case isTrue hw =>
    rcases Port.mem_append_queue hx with hx | rfl
    · exact .inl hx
    · exact .inr fun c hc => hb c hc m hw
  case isFalse => exact .inl hx

theorem State.loseGuard_adds (s : State) (k : GuardId) (hs : s.PartiesRead) : Adds s (s.loseGuard k) := by
  have hset : Adds s (s.setGuard k (s.guard k).cleared) :=
    adds_of_eq (s.setGuard_raws k _).same.map (fun m => by cases k <;> exact List.Subset.refl _) hs
  unfold State.loseGuard State.tellGuard
  dsimp only
  split
  · exact hset
  · refine hset.trans (State.queue_adds _ _ _ (fun c hc m hm => ?_) hset.parties)
    simp only [EventBody.readBy, Option.some.injEq] at hc
    exact hc ▸ hm

theorem State.queueAll_adds (s : State) (b : EventBody) (hb : b.readBy = none) (hs : s.PartiesRead) : Adds s (s.queueAll b) :=
  s.queue_adds _ b (fun c hc => by rw [hb] at hc; cases hc) hs

theorem State.modGroup_adds (s : State) (g : Group) (f : GroupRec → GroupRec) (hs : s.PartiesRead) : Adds s (s.modGroup g f) :=
  adds_of_eq rfl (fun _ => List.Subset.refl _) hs

theorem State.setLevel_adds (s : State) (g : Group) (l : Level) (hs : s.PartiesRead) : Adds s (s.setLevel g l) :=
  (s.modGroup_adds g _ hs).trans (State.queueAll_adds _ _ rfl hs)

theorem State.relevel_adds (s : State) (g : Group) (hs : s.PartiesRead) : Adds s (s.relevel g) := by
  unfold State.relevel
  dsimp only
  split
  · exact .refl hs
  · exact s.setLevel_adds g _ hs

theorem State.recordWith_adds (s : State) (g : Group) (c : Cause) (cls : CauseClass) (b : Bool) (x : GroupRec × Recorded)
    (hs : s.PartiesRead) : Adds s (s.recordWith g c cls b x) := by
  have hgroup := s.modGroup_adds g (fun _ => x.1) hs
  unfold State.recordWith
  dsimp only
  split
  · exact hgroup
  · exact hgroup.trans (State.queueAll_adds _ _ rfl hgroup.parties)
  · exact hgroup.trans (State.queueAll_adds _ _ rfl hgroup.parties)

theorem State.momentary_adds (s : State) (g : Group) (c : Cause) (hs : s.PartiesRead) : Adds s (s.momentary g c) :=
  have hrecord := s.recordWith_adds g c .alarm true ((s.group g).arriveMomentary c .alarm s.ms) hs
  hrecord.trans (State.relevel_adds _ g hrecord.parties)

theorem State.discarded_adds (s : State) (c : ChanId) (e : Entry) (hs : s.PartiesRead) : Adds s (s.discarded c e) := by
  unfold State.discarded
  dsimp only
  split
  · split
    case h_1 k _ =>
      have hlose := s.loseGuard_adds k hs
      exact hlose.trans (State.momentary_adds _ _ _ hlose.parties)
    case h_2 => exact s.momentary_adds _ _ hs
  · exact s.queue_adds _ _ (fun b hb m hm => by
      simp only [EventBody.readBy, Option.some.injEq] at hb
      exact hb ▸ hm) hs

theorem State.modChan_adds (s : State) (c : ChanId) (f : Channel → Channel) (hs : s.PartiesRead) : Adds s (s.modChan c f) :=
  adds_of_eq rfl (fun _ => List.Subset.refl _) hs

theorem State.pushRaw_adds (s : State) (c : ChanId) (e : Entry) (hs : s.PartiesRead) : Adds s (s.pushRaw c e) := by
  unfold State.pushRaw
  cases discardedBy e (s.chan c).stack with
  | none => exact s.modChan_adds c _ hs
  | some x => exact (s.discarded_adds c x hs).trans (State.modChan_adds _ c _ (s.discarded_adds c x hs).parties)

theorem State.setGuard_adds (s : State) (k : GuardId) (g : Guard) (hs : s.PartiesRead) : Adds s (s.setGuard k g) :=
  adds_of_eq (s.setGuard_raws k g).same.map (fun m => by cases k <;> exact List.Subset.refl _) hs

theorem Micro.adds (h : Micro False s t) (hs : s.PartiesRead) : Adds s t := by
  cases h with
  | quiet t h => exact adds_of_eq h.map h.queue hs
  | queue who b h => exact s.queue_adds who b (h.resolve_left id hs) hs
  | group g f => exact s.modGroup_adds g f hs
  | value c f | base c v | filter c p => exact s.modChan_adds c _ hs
  | push c e => exact s.pushRaw_adds c e hs
  | scalePut k g e => exact (s.setGuard_adds k g hs).trans (State.pushRaw_adds _ _ _ (s.setGuard_adds k g hs).parties)
  | scaleDrop k g => exact (s.setGuard_adds k g hs).trans (State.modChan_adds _ _ _ (s.setGuard_adds k g hs).parties)
  | guardNote k g => exact s.setGuard_adds k g hs
  | entry c f hf hr =>
    refine ⟨fun b => ?_, fun b m hm => ?_, fun m x hx => .inl hx⟩
    · rw [State.entry_modEntry]
      split
      case isTrue heq => exact hf (heq ▸ hs b)
      case isFalse => exact hs b
    · rw [State.entry_modEntry]
      split
      case isTrue heq => subst heq; exact hr m hm
      case isFalse => exact hm
  | meter x h => exact adds_of_eq rfl (fun _ => List.Subset.refl _) hs
  | stores f h => exact adds_of_eq rfl (fun _ => List.Subset.refl _) hs

theorem Micros.adds (h : Micros False s t) (hs : s.PartiesRead) : Adds s t := by
  induction h with
  | refl => exact .refl hs
  | tail _ h ih => exact ih.trans (h.adds ih.parties)

theorem Micros.meterRuns (h : Micros d s t) (hs : s.MeterOk) : MeterRuns s t := by
  induction h with
  | refl => exact .refl hs
  | tail _ h ih => exact ih.trans (h.meterRuns ih.ok)

end Sys2Proof.Machine
end

section
/-! What the operations between the blocks do to the laws (R78, R92, R97, R140, R166): each operation that a command is made of
is a run of the smallest moves, leaves the levels as the logs ask for, and leaves the busy flags as the paths ask for. -/

namespace Sys2Proof.Machine

variable {s t r : State} {x : Option Group}

/-! ### Levels and paths -/

/-- R92: outside TRIP, the level is the one the log asks for. -/
def GroupRec.Follows (y : GroupRec) : Prop := y.level ≠ .trip → (y.level = .alarm ↔ y.asksAlarm)

/-- R78: the group is busy exactly while a unit of it is in a phase. -/
def State.BusyMatches (s : State) (g : Group) : Prop :=
  (s.group g).busy = true ↔ ∃ u ∈ groupUnits g, (s.unit u).phase ≠ .none

/-- One operation, or a run of them, which keeps the laws; the busy flag and the phases of the group `x`, where a path is being
started or ended, are not asked for. -/
structure Keeps (x : Option Group) (s t : State) : Prop where
  micros : Micros False s t
  levels : ∀ g, (s.group g).Follows → (t.group g).Follows
  busy : ∀ g, x ≠ some g → s.BusyMatches g → t.BusyMatches g
  idle : ∀ g, (s.group g).busy = false → (t.group g).busy = false
  rests : ∀ u, x ≠ some (unitGroup u) → (s.unit u).phase = .none → (t.unit u).phase = .none

/-- An operation that leaves the authority map besides. -/
structure Does (x : Option Group) (s t : State) : Prop extends Keeps x s t where
  map : t.map = s.map

theorem Keeps.trans (h : Keeps x s t) (k : Keeps x t r) : Keeps x s r where
  micros := h.micros.trans k.micros
  levels g hg := k.levels g (h.levels g hg)
  busy g hx hg := k.busy g hx (h.busy g hx hg)
  idle g hg := k.idle g (h.idle g hg)
  rests u hx hu := k.rests u hx (h.rests u hx hu)

theorem Does.refl : Does x s s := ⟨⟨.refl, fun _ => id, fun _ _ => id, fun _ => id, fun _ _ => id⟩, rfl⟩

theorem Does.trans (h : Does x s t) (k : Does x t r) : Does x s r := ⟨h.toKeeps.trans k.toKeeps, k.map.trans h.map⟩

theorem Does.weaken (h : Does none s t) : Does x s t :=
  ⟨⟨h.micros, h.levels, fun g _ => h.busy g nofun, h.idle, fun u _ => h.rests u nofun⟩, h.map⟩

theorem Does.ite {p : Prop} [Decidable p] (ht : p → Does x s t) (hr : ¬p → Does x s r) :
    Does x s (if p then t else r) := by
  split
  · exact ht ‹_›
  · exact hr ‹_›

theorem Does.each {α : Type} (l : List α) (f : α → State → State) (s : State) (h : ∀ a ∈ l, ∀ q, Does x s q → Does x q (f a q)) :
    Does x s (s.each l f) :=
  State.each_induct (P := fun q => Does x s q) l f (fun a ha q hq => hq.trans (h a ha q hq)) s .refl

theorem busyMatches_of_eq {g : Group} (hb : (t.group g).busy = (s.group g).busy)
    (hu : ∀ u ∈ groupUnits g, (t.unit u).phase = (s.unit u).phase) (hs : s.BusyMatches g) : t.BusyMatches g := by
  unfold State.BusyMatches at *
  rw [hb, hs]
  exact exists_congr fun u => and_congr_right fun hu' => by rw [hu u hu']

/-- A move that leaves the groups and the phases. -/
theorem Micro.does (h : Micro False s t) (hg : ∀ g, t.group g = s.group g) (hu : ∀ u, (t.unit u).phase = (s.unit u).phase)
    (hm : t.map = s.map) : Does x s t where
  micros := h.run
  levels g hs := by rwa [hg]
  busy g _ hs := busyMatches_of_eq (by rw [hg]) (fun u _ => hu u) hs
  idle g hs := by rwa [hg]
  rests u _ hs := (hu u).trans hs
  map := hm

/-! ### Small operations -/

theorem State.does_queue (s : State) (who : Master → Bool) (b : EventBody) (h : s.PartiesRead → s.Addresses who b) :
    Does x s (s.queue who b) :=
  (Micro.queue who b (.inr h)).does (fun _ => rfl) (fun _ => rfl) rfl

theorem State.addresses_none {who : Master → Bool} {b : EventBody} (h : b.readBy = none) : s.Addresses who b :=
  fun c hc => by rw [h] at hc; cases hc

theorem State.does_queueAll (s : State) (b : EventBody) (h : b.readBy = none) : Does x s (s.queueAll b) :=
  s.does_queue _ b fun _ => State.addresses_none h

theorem State.does_queueReaders (s : State) (c : ChanId) (b : EventBody) (h : b.readBy = some c) :
    Does x s (s.queueReaders c b) :=
  s.does_queue _ b fun _ k hk m hm => by
    rw [h] at hk
    cases hk
    exact hm

theorem State.does_quiet (h : Quiet s t) (hu : ∀ u, (t.unit u).phase = (s.unit u).phase) : Does x s t :=
  (Micro.quiet t h).does (fun g => by simp only [State.group, h.groups]) hu h.map

/-- A change of units, the speed monitor, the inputs and the like. -/
theorem quiet_of_eq (hp : ∀ m, (t.port m).queue ⊆ (s.port m).queue) (hm : t.map = s.map) (hc : t.ch = s.ch)
    (hg : t.groups = s.groups) (ha : t.actions = s.actions) (hw : t.swu = s.swu) (hh : t.hmt = s.hmt) (hu : t.asu.period = s.asu.period)
    (hf : t.pfl = s.pfl) : Quiet s t where
  queue := hp
  map := hm
  chan c := by simp [State.chan, hc]
  groups := hg
  actions := ha
  guard := State.guard_of_swu hw
  guardParams k := by cases k <;> simp only [State.guardParams, hw]
  hmt := hh
  period := hu
  mirror := by rw [hf]
  eeprom := by rw [hf]

theorem State.modUnit_quiet (s : State) (u : UnitId) (f : UnitRec → UnitRec) : Quiet s (s.modUnit u f) :=
  quiet_of_eq (fun _ => List.Subset.refl _) rfl rfl rfl rfl rfl rfl rfl rfl

theorem State.does_note (s : State) (u : UnitId) (f : UnitRec → UnitRec) (h : (f (s.unit u)).phase = (s.unit u).phase) :
    Does x s (s.modUnit u f) :=
  State.does_quiet (s.modUnit_quiet u f) fun v => by
    rw [State.unit_modUnit]
    split
    case isTrue heq => subst heq; exact h
    case isFalse => rfl

/-- A unit of the group whose paths are being started or ended changes. -/
theorem State.does_unit (s : State) (u : UnitId) (f : UnitRec → UnitRec) (h : x = some (unitGroup u)) :
    Does x s (s.modUnit u f) where
  micros := (Micro.quiet _ (s.modUnit_quiet u f)).run
  levels g hs := hs
  busy g hg hs := busyMatches_of_eq (s := s) rfl (fun v hv => by
    rw [State.unit_modUnit, if_neg]
    rintro rfl
    exact hg (h.trans (congrArg some (unitGroup_of_mem hv)))) hs
  idle g hs := hs
  rests v hv hs := by
    rw [State.unit_modUnit, if_neg]
    · exact hs
    · rintro rfl
      exact hv h
  map := rfl

theorem State.does_tsm (s : State) (f : Tsm → Tsm) : Does x s (s.modTsm f) :=
  State.does_quiet (quiet_of_eq (fun _ => List.Subset.refl _) rfl rfl rfl rfl rfl rfl rfl rfl) fun _ => rfl

/-- The scaling watch changes without its parameters and its guards. -/
theorem State.does_swu (s : State) (f : Swu → Swu)
    (h : (f s.swu).params = s.swu.params ∧ (f s.swu).silGuard = s.swu.silGuard ∧ (f s.swu).calGuards = s.swu.calGuards) :
    Does x s (s.modSwu f) := by
  obtain ⟨hparams, hsil, hcal⟩ := h
  refine State.does_quiet ?_ fun _ => rfl
  exact {
    queue := fun _ => List.Subset.refl _
    map := rfl
    chan := fun _ => ⟨rfl, rfl, rfl, rfl, rfl⟩
    groups := rfl
    actions := rfl
    guard := fun k => by cases k <;> simp only [State.guard, State.modSwu_swu, hsil, hcal]
    guardParams := fun k => by cases k <;> simp only [State.guardParams, State.modSwu_swu, hparams]
    hmt := rfl
    period := rfl
    mirror := rfl
    eeprom := rfl }

theorem State.does_refold (s : State) (c : ChanId) : Does x s (s.refold c) :=
  (Micro.refold c).does (fun _ => rfl) (fun _ => rfl) rfl

theorem State.does_refoldUnit (s : State) (u : UnitId) : Does x s (s.refoldUnit u) :=
  .each _ _ s fun c _ q _ => q.does_refold c

theorem State.does_filter (s : State) (c : ChanId) (p : Entry → Bool) (hs : ∀ e, e.source = .scale → p e = true)
    (ht : ∀ e, e.source = .trip → p e = true) : Does x s (s.modChan c fun ch => { ch with stack := ch.stack.filter p }) :=
  (Micro.filter c p hs (.inr ht)).does (fun _ => rfl) (fun _ => rfl) rfl

/-! ### Groups -/

theorem State.setLevel_busy (s : State) (g h : Group) (l : Level) : ((s.setLevel g l).group h).busy = (s.group h).busy := by
  rw [State.setLevel_group]
  split
  case isTrue heq => rw [heq]
  case isFalse => rfl

/-- A level that is entered outside TRIP. -/
theorem State.does_setLevel (s : State) (g : Group) (l : Level) (hl : l ≠ .trip)
    (hf : (s.group g).Follows → ({ s.group g with level := l } : GroupRec).Follows) : Does x s (s.setLevel g l) where
  micros := .tail (Micro.group g (fun y => { y with level := l }) rfl (.inr fun h => absurd h hl)).run
    (Micro.queue (fun _ => true) (.groupLevel g l (s.group g).firstOut) (.inr fun _ => State.addresses_none rfl))
  levels h hs := by
    rw [State.setLevel_group]
    split
    case isTrue heq => subst heq; exact hf hs
    case isFalse => exact hs
  busy h _ hs := by
    refine busyMatches_of_eq (s := s) ?_ (fun _ _ => rfl) hs
    exact s.setLevel_busy g h l
  idle h hs := (s.setLevel_busy g h l).trans hs
  rests u _ hs := hs
  map := rfl

theorem GroupRec.follows_quietLevel (y : GroupRec) : ({ y with level := y.quietLevel } : GroupRec).Follows :=
  fun _ => y.quietLevel_alarm

theorem State.relevel_follows (s : State) (g : Group) : ((s.relevel g).group g).Follows := by
  rw [State.relevel_group, if_pos rfl]
  split
  · exact fun h => absurd rfl h
  · exact (s.group g).follows_quietLevel

theorem State.does_relevel (s : State) (g : Group) : Does x s (s.relevel g) := by
  unfold State.relevel
  dsimp only
  split
  · exact .refl
  · exact s.does_setLevel g _ (GroupRec.quietLevel_ne _) fun _ => (s.group g).follows_quietLevel

theorem State.recordWith_micros (s : State) (g : Group) (c : Cause) (cls : CauseClass) (b : Bool) (y : GroupRec × Recorded)
    (hlist : y.1.tripList = (s.group g).tripList) (hlevel : y.1.level = (s.group g).level) :
    Micros False s (s.recordWith g c cls b y) := by
  have hgroup : Micros False s (s.modGroup g fun _ => y.1) := (Micro.group g _ hlist (.inr fun h => hlevel ▸ h)).run
  unfold State.recordWith
  dsimp only
  split
  · exact hgroup
  · exact hgroup.tail (Micro.queue _ _ (.inr fun _ => State.addresses_none rfl))
  · exact hgroup.tail (Micro.queue _ _ (.inr fun _ => State.addresses_none rfl))

theorem State.recordWith_map (s : State) (g : Group) (c : Cause) (cls : CauseClass) (b : Bool) (y : GroupRec × Recorded) :
    (s.recordWith g c cls b y).map = s.map := by
  unfold State.recordWith
  dsimp only
  split <;> rfl

theorem State.recordWith_busy (s : State) (g : Group) (c : Cause) (cls : CauseClass) (b : Bool) (y : GroupRec × Recorded)
    (hb : y.1.busy = (s.group g).busy) (h : Group) : ((s.recordWith g c cls b y).group h).busy = (s.group h).busy := by
  rw [State.recordWith_group]
  split
  case isTrue heq => subst heq; exact hb
  case isFalse => rfl

theorem State.recordWith_matches (s : State) (g : Group) (c : Cause) (cls : CauseClass) (b : Bool) (y : GroupRec × Recorded)
    (hb : y.1.busy = (s.group g).busy) (h : Group) (hs : s.BusyMatches h) : (s.recordWith g c cls b y).BusyMatches h :=
  busyMatches_of_eq (s.recordWith_busy g c cls b y hb h) (fun u _ => by rw [State.recordWith_unit]) hs

/-- An arrival is recorded, something follows that keeps the laws, and the level is recomputed. -/
theorem State.does_recorded (s : State) (g : Group) (c : Cause) (cls : CauseClass) (b : Bool) (y : GroupRec × Recorded)
    (hy : y.1.tripList = (s.group g).tripList ∧ y.1.level = (s.group g).level ∧ y.1.busy = (s.group g).busy)
    (h : Does x (s.recordWith g c cls b y) t) : Does x s (t.relevel g) where
  micros := ((s.recordWith_micros g c cls b y hy.1 hy.2.1).trans h.micros).trans (t.does_relevel (x := x) g).micros
  levels k hk := by
    by_cases heq : k = g
    · subst heq
      exact t.relevel_follows k
    · refine (t.does_relevel (x := x) g).levels k (h.levels k ?_)
      rwa [State.recordWith_group, if_neg heq]
  busy k hx hk := (t.does_relevel g).busy k hx (h.busy k hx (s.recordWith_matches g c cls b y hy.2.2 k hk))
  idle k hk := (t.does_relevel (x := x) g).idle k (h.idle k ((s.recordWith_busy g c cls b y hy.2.2 k).trans hk))
  rests u hx hu := (t.does_relevel g).rests u hx (h.rests u hx (by rwa [State.recordWith_unit]))
  map := ((t.does_relevel (x := x) g).map.trans h.map).trans (s.recordWith_map g c cls b y)

theorem State.does_momentary (s : State) (g : Group) (c : Cause) : Does x s (s.momentary g c) :=
  State.does_recorded s g c .alarm true ((s.group g).arriveMomentary c .alarm s.ms)
    ⟨(GroupRec.arriveMomentary_spec ..).1, (GroupRec.arriveMomentary_spec ..).2.1, (GroupRec.arriveMomentary_spec ..).2.2.1⟩
    .refl

/-! ### Paths -/

theorem State.pathInFlight_iff (s : State) (g : Group) :
    s.pathInFlight g = true ↔ ∃ u ∈ groupUnits g, (s.unit u).phase ≠ .none := by simp [State.pathInFlight]

/-- R78: the end of a path leaves the flag of its group as the other paths ask for. -/
theorem State.pathEnd_busy (s : State) (g h : Group) : ((s.pathEnd g).group h).busy =
    if h = g then (s.group g).busy && s.pathInFlight g else (s.group h).busy := by
  unfold State.pathEnd
  by_cases hb : (s.group g).busy = true ∧ s.pathInFlight g = false
  · rw [if_pos (by simp [hb.1, hb.2]), State.queueAll, State.queue_group, State.group_modGroup]
    split <;> simp [hb.2]
  · rw [if_neg (by simpa using hb)]
    split
    case isTrue heq =>
      subst heq
      cases hbusy : (s.group h).busy <;> simp_all
    case isFalse => rfl

theorem State.pathEnd_unit (s : State) (g : Group) (u : UnitId) : (s.pathEnd g).unit u = s.unit u := by
  unfold State.pathEnd
  split <;> rfl

/-- The flags match after the end of a path, where they matched before and no unit has entered a phase since. -/
theorem State.pathEnd_matches (s q : State) (g h : Group) (hb : (q.group h).busy = (s.group h).busy)
    (hphase : ∀ v ∈ groupUnits h, (q.unit v).phase ≠ .none → (s.unit v).phase ≠ .none)
    (hother : h ≠ g → ∀ v ∈ groupUnits h, (q.unit v).phase = (s.unit v).phase) (hs : s.BusyMatches h) :
    (q.pathEnd g).BusyMatches h := by
  by_cases heq : h = g
  · subst heq
    unfold State.BusyMatches at *
    rw [State.pathEnd_busy, if_pos rfl, Bool.and_eq_true, State.pathInFlight_iff, hb, hs]
    simp only [State.pathEnd_unit]
    exact ⟨fun h => h.2, fun ⟨v, hv, hp⟩ => ⟨⟨v, hv, hphase v hv hp⟩, v, hv, hp⟩⟩
  · refine busyMatches_of_eq ?_ (fun v hv => ?_) hs
    · rw [State.pathEnd_busy, if_neg heq, hb]
    · rw [State.pathEnd_unit]
      exact hother heq v hv

theorem GroupRec.follows_congr {y z : GroupRec} (hl : z.level = y.level) (h : y.SameLog z) (hy : y.Follows) : z.Follows := by
  obtain ⟨hlog, hset, hfull⟩ := h
  unfold GroupRec.Follows GroupRec.asksAlarm at *
  rwa [hl, hlog, hset, hfull]

theorem State.pathEnd_micros (s : State) (g : Group) : Micros False s (s.pathEnd g) := by
  unfold State.pathEnd
  split
  · exact .tail (Micro.group g (fun y => { y with busy := false }) rfl (.inr id)).run (Micro.queue _ _ (.inr fun _ => State.addresses_none rfl))
  · exact .refl

theorem State.pathEnd_levels (s : State) (g h : Group) (hs : (s.group h).Follows) : ((s.pathEnd g).group h).Follows := by
  unfold State.pathEnd
  split
  · rw [State.queueAll, State.queue_group, State.group_modGroup]
    split
    case isTrue heq => subst heq; exact hs
    case isFalse => exact hs
  · exact hs

theorem State.pathEnd_map (s : State) (g : Group) : (s.pathEnd g).map = s.map := by
  unfold State.pathEnd
  split <;> rfl

/-- A path of a unit ends: what came before it may have taken the unit out of its phase. -/
theorem Does.cleared {u : UnitId} (h : Does (some (unitGroup u)) s t)
    (hb : (t.group (unitGroup u)).busy = (s.group (unitGroup u)).busy)
    (hphase : ∀ v ∈ groupUnits (unitGroup u), (t.unit v).phase ≠ .none → (s.unit v).phase ≠ .none) :
    Does x s (t.clearPath u) := by
  have hnote := t.does_note (x := some (unitGroup u)) u (fun y => { y with dest := none, timer := none }) rfl
  have hunit (v : UnitId) : ((t.modUnit u fun y => { y with dest := none, timer := none }).unit v).phase = (t.unit v).phase := by
    rw [State.unit_modUnit]
    split
    case isTrue heq => subst heq; rfl
    case isFalse => rfl
  refine ⟨⟨(h.trans hnote).micros.trans (State.pathEnd_micros _ _), fun g hg => State.pathEnd_levels _ _ g (h.levels g hg),
    fun g _ hg => ?_, fun g hg => ?_, fun v _ hv => ?_⟩, (State.pathEnd_map _ _).trans h.map⟩
  case refine_2 =>
    have hbusy : ((t.modUnit u fun y => { y with dest := none, timer := none }).group g).busy = false := h.idle g hg
    refine (State.pathEnd_busy _ _ g).trans ?_
    split
    case isTrue heq => rw [← heq, hbusy]; rfl
    case isFalse => exact hbusy
  case refine_3 =>
    refine (congrArg UnitRec.phase (State.pathEnd_unit _ _ v)).trans ((hunit v).trans ?_)
    by_cases heq : unitGroup v = unitGroup u
    · by_contra hp
      exact hphase v (heq ▸ mem_groupUnits v) hp hv
    · exact h.rests v (fun he => heq (Option.some.inj he).symm) hv
  by_cases heq : g = unitGroup u
  · subst heq
    exact State.pathEnd_matches s _ _ _ hb (fun v hv hp => hphase v hv (by rwa [hunit] at hp)) (fun hne => absurd rfl hne) hg
  · refine State.pathEnd_matches (t.modUnit u fun y => { y with dest := none, timer := none }) _ _ g rfl (fun _ _ => id)
      (fun _ _ _ => rfl) (hnote.busy g ?_ (h.busy g ?_ hg)) <;> exact fun he => heq (Option.some.inj he).symm

theorem State.does_stepTo (s : State) (u : UnitId) (st : UState) (k : StateReason) :
    Does (some (unitGroup u)) s (s.stepTo u st k) :=
  ((s.does_unit u _ rfl).trans (State.does_refoldUnit _ u)).trans (State.does_queueReaders _ _ _ rfl)

theorem State.does_endStarting (s : State) (u : UnitId) : Does x s (s.endStarting u) := by
  have hfirst := s.does_stepTo u .running .go
  have hboth : Does (some (unitGroup u)) s (if (s.unit u).dest = some .paused then
      (s.stepTo u .running .go).stepTo u .paused .go else s.stepTo u .running .go) :=
    .ite (fun _ => hfirst.trans (State.does_stepTo _ u _ _)) fun _ => hfirst
  refine hboth.cleared ?_ fun v _ hp => ?_
  · split <;> simp only [State.group, State.stepTo_groups]
  · split at hp <;> simp only [State.stepTo_unit] at hp <;> split_ifs at hp <;> first | exact absurd rfl hp | exact hp

/-- The end of a drain, with what happens between its steps. -/
theorem State.does_endDrain (s : State) (u : UnitId) (k : StateReason) (mid : State → State)
    (hmid : ∀ q, Does (some (unitGroup u)) q (mid q))
    (hkeeps : ∀ q, (∀ v, (mid q).unit v = q.unit v) ∧ ((mid q).group (unitGroup u)).busy = (q.group (unitGroup u)).busy) :
    Does x s (s.endDrain u k mid) := by
  have hfirst := (s.does_note (x := some (unitGroup u)) u (fun y => { y with timer := none }) rfl).trans
    ((State.does_stepTo _ u .standby k).trans (hmid _))
  have hboth := Does.ite (p := (s.unit u).phase = .isolating) (fun _ => hfirst.trans (State.does_stepTo _ u .isolated .go))
    fun _ => hfirst
  refine hboth.cleared ?_ fun v _ hp => ?_
  · have hgroup (q : State) (st : UState) (k : StateReason) (g : Group) : (q.stepTo u st k).group g = q.group g := by
      simp only [State.group, State.stepTo_groups]
    split <;> simp only [hgroup, (hkeeps _).2, State.modUnit_group]
  · split at hp <;> simp only [State.stepTo_unit, (hkeeps _).1, State.unit_modUnit] at hp <;> split_ifs at hp <;>
      first | exact absurd rfl hp | exact hp

theorem State.does_test (s : State) (u : UnitId) : Does x s (s.testUnit u) := by
  have hdrain := s.does_endDrain (x := x) u .drainEnd id (fun _ => .refl) fun _ => ⟨fun _ => rfl, rfl⟩
  unfold State.testUnit
  split
  · exact .refl
  · exact .ite (fun _ => s.does_endStarting u) fun _ => .refl
  · exact .ite (fun _ => hdrain) fun _ => .refl
  · exact .ite (fun _ => hdrain) fun _ => .refl

end Sys2Proof.Machine
end

section
/-! Pushes, removals, causes and the service of a unit, as operations that keep the laws (R16 to R21, R81, R88 to R95, R118,
R139, R140, R143). -/

namespace Sys2Proof.Machine

variable {s t r : State} {x : Option Group}

/-! ### Stacks -/

theorem State.loseGuard_unit (s : State) (k : GuardId) (u : UnitId) : (s.loseGuard k).unit u = s.unit u := by
  unfold State.loseGuard State.tellGuard
  dsimp only
  split <;> exact s.setGuard_unit k _ u

theorem State.relevel_busy (s : State) (g h : Group) : ((s.relevel g).group h).busy = (s.group h).busy := by
  rw [State.relevel_group]
  split
  case isTrue heq => rw [heq]
  case isFalse => rfl

theorem State.momentary_busy (s : State) (g h : Group) (c : Cause) : ((s.momentary g c).group h).busy = (s.group h).busy :=
  (State.relevel_busy _ g h).trans (s.recordWith_busy g c .alarm true _ (GroupRec.arriveMomentary_spec ..).2.2.1 h)

/-- R18: what the discard of an entry leaves of the groups and the map. -/
theorem State.discarded_laws (s : State) (c : ChanId) (e : Entry) :
    (∀ g, (s.group g).Follows → ((s.discarded c e).group g).Follows) ∧
    (∀ g, ((s.discarded c e).group g).busy = (s.group g).busy) ∧ (s.discarded c e).map = s.map := by
  unfold State.discarded
  dsimp only
  split
  · split
    case h_1 k _ =>
      have h := (s.loseGuard k).does_momentary (x := none) (chanGroup c) (.guardLost c)
      exact ⟨fun g hg => h.levels g (by rwa [s.loseGuard_group]),
        fun g => (State.momentary_busy _ _ g _).trans (by rw [s.loseGuard_group]), h.map.trans (s.loseGuard_same k).map⟩
    case h_2 =>
      have h := s.does_momentary (x := none) (chanGroup c) (.guardLost c)
      exact ⟨h.levels, fun g => s.momentary_busy _ g _, h.map⟩
  · exact ⟨fun _ => id, fun _ => rfl, rfl⟩

theorem State.pushRaw_laws (s : State) (c : ChanId) (e : Entry) :
    (∀ g, (s.group g).Follows → ((s.pushRaw c e).group g).Follows) ∧
    (∀ g, ((s.pushRaw c e).group g).busy = (s.group g).busy) ∧ (s.pushRaw c e).map = s.map := by
  unfold State.pushRaw
  cases discardedBy e (s.chan c).stack with
  | none => exact ⟨fun _ => id, fun _ => rfl, rfl⟩
  | some z => exact s.discarded_laws c z

/-- A push, which is one smallest move of a state with the same groups and units. -/
theorem State.pushRaw_does (q : State) (c : ChanId) (e : Entry) (h : Micros False s (q.pushRaw c e))
    (hg : ∀ g, q.group g = s.group g) (hu : ∀ u, q.unit u = s.unit u) (hm : q.map = s.map) : Does x s (q.pushRaw c e) := by
  obtain ⟨hlevels, hbusy, hmap⟩ := q.pushRaw_laws c e
  have hunit (u : UnitId) : (q.pushRaw c e).unit u = s.unit u := (q.pushRaw_unit c e u).trans (hu u)
  have hflag (g : Group) : ((q.pushRaw c e).group g).busy = (s.group g).busy := (hbusy g).trans (by rw [hg])
  exact ⟨⟨h, fun g hs => hlevels g (by rwa [hg]), fun g _ hs => busyMatches_of_eq (hflag g) (fun u _ => by rw [hunit]) hs,
    fun g hs => (hflag g).trans hs, fun u _ hs => by rwa [hunit]⟩, hmap.trans hm⟩

theorem State.does_pushRaw (s : State) (c : ChanId) (e : Entry) (hs : e.source ≠ .scale) (hv : s.ValuesFit → e.value ≤ 1000)
    (ht : e.source = .trip → e.kind = .value ∧ (s.TripListsOk → ⟨c, e.value⟩ ∈ (s.group (chanGroup c)).tripList)) :
    Does x s (s.pushRaw c e) :=
  State.pushRaw_does s c e (Micro.push c e hs hv ht).run (fun _ => rfl) (fun _ => rfl) rfl

theorem State.does_push (s : State) (c : ChanId) (e : Entry) (hs : e.source ≠ .scale) (ht : e.source ≠ .trip)
    (hv : s.ValuesFit → e.value ≤ 1000) : Does x s (s.push c e) :=
  ((s.does_pushRaw c e hs hv fun h => absurd h ht).trans (State.does_refold _ c)).trans (State.does_test _ _)

theorem State.does_remove (s : State) (c : ChanId) (y : Source) (hs : y ≠ .scale) (ht : y ≠ .trip) : Does x s (s.remove c y) := by
  refine .ite (fun _ => ?_) fun _ => .refl
  refine ((s.does_filter c (fun e => decide (e.source ≠ y)) (fun e he => ?_) fun e he => ?_).trans
    (State.does_refold _ c)).trans (State.does_test _ _)
  · exact decide_eq_true fun h => hs (h ▸ he)
  · exact decide_eq_true fun h => ht (h ▸ he)

/-! ### Causes -/

theorem Micros.actions {d : Prop} (h : Micros d s t) : t.actions = s.actions := by
  induction h with
  | refl => rfl
  | tail _ h ih => exact h.actions.trans ih

theorem State.ValuesFit.actionsIn (h : s.ValuesFit) {g : Group} {c : Cause} {a : Action} (ha : a ∈ s.actionsIn g c) :
    a.value ≤ 1000 := by
  unfold State.actionsIn at ha
  split at ha
  · cases ha
  case h_2 rec hrec => exact h.2.2.1 rec (List.mem_of_find?_eq_some hrec) a (List.mem_of_mem_filter ha)

theorem State.actionsIn_congr (h : t.actions = s.actions) (g : Group) (c : Cause) : t.actionsIn g c = s.actionsIn g c := by
  simp only [State.actionsIn, h]

theorem State.does_applyActions (s : State) (g : Group) (c : Cause) : Does x s (s.applyActions g c) := by
  refine .each _ _ s fun a ha q hq => q.does_push a.channel _ (by simp) (by simp) fun hfit => ?_
  rw [← State.actionsIn_congr hq.micros.actions] at ha
  exact hfit.actionsIn ha

theorem State.does_arriveAlarm (s : State) (g : Group) (c : Cause) : Does x s (s.arriveAlarm g c) :=
  State.does_recorded s g c .alarm false ((s.group g).arrive c .alarm s.ms)
    ⟨(GroupRec.arrive_spec ..).1, (GroupRec.arrive_spec ..).2.1, (GroupRec.arrive_spec ..).2.2.1⟩
    (State.does_applyActions _ g c)

theorem State.does_deactivate (s : State) (g : Group) (c : Cause) : Does x s (s.deactivate g c) := by
  have hrecord : Micros False s (s.modGroup g fun y => y.deactivate c s.ms) :=
    (Micro.group g _ (GroupRec.deactivate_spec ..).1 (.inr fun h => (GroupRec.deactivate_spec ..).2.1 ▸ h)).run
  have hremoved : Does x (s.modGroup g fun y => y.deactivate c s.ms) (s.withoutCause g c) :=
    .each _ _ _ fun a _ q _ => q.does_remove a.channel (.alarm c) (by simp) (by simp)
  have hlevel := (s.withoutCause g c).does_relevel (x := x) g
  have hbusy (h : Group) : ((s.modGroup g fun y => y.deactivate c s.ms).group h).busy = (s.group h).busy :=
    State.modGroup_frame (·.busy) (fun _ => (GroupRec.deactivate_spec ..).2.2.1) s g h
  refine ⟨⟨(hrecord.trans hremoved.micros).trans hlevel.micros, fun h hs => ?_, fun h hx hs => ?_,
    fun h hs => hlevel.idle h (hremoved.idle h ((hbusy h).trans hs)), fun u hx hu => hlevel.rests u hx (hremoved.rests u hx hu)⟩,
    hlevel.map.trans hremoved.map⟩
  · by_cases heq : h = g
    · subst heq
      exact State.relevel_follows _ h
    · refine hlevel.levels h (hremoved.levels h ?_)
      rwa [State.group_modGroup, if_neg heq]
  · exact hlevel.busy h hx (hremoved.busy h hx (busyMatches_of_eq (s := s) (hbusy h) (fun _ _ => rfl) hs))

/-! ### Guards -/

theorem State.setGuard_map (s : State) (k : GuardId) (g : Guard) : (s.setGuard k g).map = s.map :=
  (s.setGuard_raws k g).same.map

theorem State.does_guardNote (s : State) (k : GuardId) (g : Guard) (hg : (g.ceiling = (s.guard k).ceiling ∧
    (g.state = .clear ↔ (s.guard k).state = .clear)) ∨
    (g.state = .clear ∧ g.ceiling = none ∧ hasSource .scale (s.chan k.chan).stack = false)) : Does x s (s.setGuard k g) :=
  (Micro.guardNote k g hg).does (s.setGuard_group k g) (fun u => by rw [s.setGuard_unit]) (s.setGuard_map k g)

theorem State.does_tellGuard (s : State) (k : GuardId) (old : GuardState) (why : GuardReason) :
    Does x s (s.tellGuard k old why) :=
  .ite (fun _ => .refl) fun _ => s.does_queueReaders _ _ rfl

/-- A guard takes CLEAR, and its SCALE entry goes. -/
theorem State.does_dropScale (s : State) (k : GuardId) (g : Guard) (hg : g.state = .clear ∧ g.ceiling = none) :
    Does x s ((s.setGuard k g).remove k.chan .scale) := by
  unfold State.remove
  split
  case isTrue =>
    have hdrop : Does x s ((s.setGuard k g).modChan k.chan fun ch => { ch with stack := removeEntry .scale ch.stack }) :=
      (Micro.scaleDrop k g hg).does (s.setGuard_group k g) (fun u => congrArg UnitRec.phase (s.setGuard_unit k g u))
        (s.setGuard_map k g)
    exact (hdrop.trans (State.does_refold _ _)).trans (State.does_test _ _)
  case isFalse hnone =>
    refine s.does_guardNote k g (.inr ⟨hg.1, hg.2, ?_⟩)
    rwa [s.setGuard_chan, Bool.not_eq_true] at hnone

theorem State.does_scalePut (s : State) (k : GuardId) (g : Guard) (e : Entry) (hg : g.state ≠ .clear ∧ g.ceiling = some e.value)
    (he : e.source = .scale ∧ e.kind = .ceiling) (hv : s.ValuesFit → e.value ≤ 1000)
    (hj : s.ScalesHold → (s.guardParams k).floor ≤ e.value ∧ e.value ≤ 999) :
    Does x s ((s.setGuard k g).push k.chan e) := by
  have hput : Does x s ((s.setGuard k g).pushRaw k.chan e) :=
    State.pushRaw_does (s.setGuard k g) k.chan e (Micro.scalePut k g e hg he hv hj).run (s.setGuard_group k g) (s.setGuard_unit k g)
      (s.setGuard_map k g)
  exact (hput.trans (State.does_refold _ _)).trans (State.does_test _ _)

theorem State.does_guardOff (s : State) (k : GuardId) : Does x s (s.guardOff k) :=
  .ite (fun _ => .refl) fun _ => (s.does_dropScale k _ ⟨rfl, rfl⟩).trans (State.does_tellGuard _ _ _ _)

theorem State.does_holdGuard (s : State) (k : GuardId) : Does x s (s.holdGuard k) :=
  s.does_guardNote k _ (.inl ⟨rfl, Iff.rfl⟩)

/-- R140: a ceiling that the guard rule puts lies between the floor and 999, from a guard and its entry in their form. -/
theorem guardRule_put {p : GuardParams} {st new : GuardState} {ceiling applied v : Nat} {m : Int}
    (h : guardRule p st ceiling applied m = .put v new) (hfloor : p.floor ≤ 999) (hstep : 1 ≤ p.step) (happlied : applied ≤ 1000)
    (hceiling : st ≠ .clear → p.floor ≤ ceiling ∧ ceiling ≤ 999) : p.floor ≤ v ∧ v ≤ 999 := by
  unfold guardRule at h
  split_ifs at h <;> simp only [GuardMove.put.injEq] at h <;> obtain ⟨rfl, _⟩ := h
  · omega
  · have := hceiling ‹_›
    omega
  · have := hceiling ‹_›
    omega

theorem guardRule_put_le {p : GuardParams} {st new : GuardState} {ceiling applied v : Nat} {m : Int}
    (h : guardRule p st ceiling applied m = .put v new) (hfloor : p.floor ≤ 1000) (happlied : applied ≤ 1000)
    (hceiling : ceiling ≤ 1000) : v ≤ 1000 := by
  unfold guardRule at h
  split_ifs at h <;> simp only [GuardMove.put.injEq] at h <;> obtain ⟨rfl, _⟩ := h <;> omega

/-- R140: a guard that is not CLEAR has a ceiling from its floor to 999. -/
theorem State.ScalesHold.ceiling (h : s.ScalesHold) {k : GuardId} (hk : (s.guard k).state ≠ .clear) :
    (s.guardParams k).floor ≤ (s.guard k).ceiling.getD 0 ∧ (s.guard k).ceiling.getD 0 ≤ 999 := by
  obtain ⟨_, _, hmatch, hceilings⟩ := h
  obtain ⟨z, hz, hscale⟩ := hasSource_eq_true.mp ((hmatch k.chan).mpr ⟨k, rfl, hk⟩)
  obtain ⟨_, hceiling, hlow, hhigh⟩ := (hceilings k).2.2.2 z hz hscale
  rw [hceiling]
  exact ⟨hlow, hhigh⟩

theorem State.does_runGuard (s : State) (k : GuardId) (m : Int) : Does x s (s.runGuard k m) := by
  have hstate := guardRule_state (s.guardParams k) (s.guard k).state ((s.guard k).ceiling.getD 0) (s.chan k.chan).applied m
  unfold State.runGuard
  dsimp only
  generalize hrule : guardRule (s.guardParams k) (s.guard k).state ((s.guard k).ceiling.getD 0) (s.chan k.chan).applied m =
    move at hstate
  cases move with
  | put v st =>
    refine (s.does_scalePut k _ _ ⟨hstate, rfl⟩ ⟨rfl, rfl⟩ (fun hfit => ?_) fun hhold => ?_).trans (State.does_tellGuard _ _ _ _)
    · refine guardRule_put_le hrule (hfit.2.2.2 k).1 (hfit.chan k.chan).2.2.2.2.1 ?_
      cases hceiling : (s.guard k).ceiling with
      | none => simp
      | some w => exact (hfit.2.2.2 k).2 w hceiling
    · exact guardRule_put hrule (hhold.2.2.2 k).1 (hhold.2.2.2 k).2.1 (hhold.2.1.chan k.chan).2.2.2.2.1 hhold.ceiling
  | keep st =>
    exact (s.does_guardNote k { s.guard k with margin := m, status := .current, state := st } (.inl ⟨rfl, hstate⟩)).trans
      (State.does_tellGuard _ _ _ _)
  | drop => exact (s.does_dropScale k _ ⟨rfl, rfl⟩).trans (State.does_tellGuard _ _ _ _)

/-! ### Service -/

theorem State.does_calciteOff (s : State) (i : Fin 8) : Does x s (s.calciteOff i) :=
  .ite (fun _ => (s.does_swu _ ⟨rfl, rfl, rfl⟩).trans (State.does_deactivate _ _ _)) fun _ => .refl

theorem State.does_leaveService (s : State) (u : UnitId) : Does x s (s.leaveService u) := by
  unfold State.leaveService
  cases unitGuard u with
  | none =>
    cases wellOf u with
    | none => exact .refl
    | some i => exact s.does_calciteOff i
  | some k =>
    cases wellOf u with
    | none => exact s.does_guardOff k
    | some i => exact (s.does_guardOff k).trans (State.does_calciteOff _ i)

theorem State.does_loseSpeed (s : State) : Does x s s.loseSpeed := (s.does_tsm _).trans (State.does_arriveAlarm _ _ _)

theorem State.does_regainSpeed (s : State) : Does x s s.regainSpeed :=
  .ite (fun _ => (s.does_tsm _).trans (State.does_deactivate _ _ _)) fun _ => .refl

theorem State.does_speedEnter (s : State) (u : UnitId) : Does x s (s.speedEnter u) :=
  .ite (fun _ => s.does_loseSpeed) fun _ => .refl

theorem State.does_speedLeave (s : State) (u : UnitId) : Does x s (s.speedLeave u) :=
  .ite (fun _ => s.does_regainSpeed) fun _ => .refl

theorem State.does_propagateAlarm (s : State) (g : Group) : Does x s (s.propagateAlarm g) := by
  cases g with
  | field => exact .refl
  | turbine | heat => exact s.does_arriveAlarm _ _

theorem State.does_propagateEnd (s : State) (g : Group) : Does x s (s.propagateEnd g) := by
  cases g with
  | field => exact (s.does_deactivate _ _).trans (State.does_deactivate _ _ _)
  | turbine | heat => exact s.does_deactivate _ _

end Sys2Proof.Machine
end

section
/-! What a part of a command does to the laws (R59, R78, R92, R97, R165, R166): the operations with those that work on the map, on
trips, on logs and on the units of a GO. -/

namespace Sys2Proof.Machine

variable {s t r : State}

/-! ### Deeds -/

/-- A LOCKED entry keeps its lock and its writer. -/
def LocksStay (s t : State) : Prop := ∀ c, (s.entry c).locked = true →
  (t.entry c).locked = true ∧ (t.entry c).writer = (s.entry c).writer

/-- A part of a command, which keeps the laws. -/
structure Deed (s t : State) : Prop where
  micros : Micros True s t
  adds : s.PartiesRead → Adds s t
  levels : s.LevelsFollow → t.LevelsFollow
  busy : s.BusyOk → t.BusyOk
  lists : ∀ g, s.ListStands g → t.ListStands g
  map : s.MapOk → t.MapOk ∧ LocksStay s t

theorem Deed.refl : Deed s s :=
  ⟨.refl, .refl, id, id, fun _ => id, fun h => ⟨h, fun _ hl => ⟨hl, rfl⟩⟩⟩

theorem LocksStay.trans (h : LocksStay s t) (k : LocksStay t r) : LocksStay s r := fun c hl =>
  ⟨(k c (h c hl).1).1, (k c (h c hl).1).2.trans (h c hl).2⟩

theorem Deed.trans (h : Deed s t) (k : Deed t r) : Deed s r where
  micros := h.micros.trans k.micros
  adds hs := (h.adds hs).trans (k.adds (h.adds hs).parties)
  levels hs := k.levels (h.levels hs)
  busy hs := k.busy (h.busy hs)
  lists g hs := k.lists g (h.lists g hs)
  map hs := ⟨(k.map (h.map hs).1).1, (h.map hs).2.trans (k.map (h.map hs).1).2⟩

theorem Deed.ite {p : Prop} [Decidable p] (ht : p → Deed s t) (hr : ¬p → Deed s r) : Deed s (if p then t else r) := by
  split
  · exact ht ‹_›
  · exact hr ‹_›

theorem Deed.each {α : Type} (l : List α) (f : α → State → State) (h : ∀ a ∈ l, ∀ q, Deed q (f a q)) (s : State) :
    Deed s (s.each l f) :=
  State.each_induct (P := fun q => Deed s q) l f (fun a ha q hq => hq.trans (h a ha q)) s .refl

theorem mapOk_of_eq (h : t.map = s.map) (hs : s.MapOk) : t.MapOk ∧ LocksStay s t := by
  have hentry (c : ChanId) : t.entry c = s.entry c := by simp only [State.entry, h]
  exact ⟨fun c => by simpa only [hentry] using hs c, fun c hl => by rw [hentry]; exact ⟨hl, rfl⟩⟩

/-- An operation with what it does to the map is a part of a command. -/
theorem Keeps.deed (h : Keeps none s t) (hm : s.MapOk → t.MapOk ∧ LocksStay s t) : Deed s t :=
  ⟨h.micros.loosen, h.micros.adds, fun hs g => h.levels g (hs g), fun hs g => h.busy g nofun (hs g), h.micros.listStands, hm⟩

theorem Does.deed (h : Does none s t) : Deed s t := h.toKeeps.deed (mapOk_of_eq h.map)

/-- An operation, and a record of it to the parties of an entry as they were. -/
theorem Keeps.deed_queue (h : Keeps none s t) (hm : s.MapOk → t.MapOk ∧ LocksStay s t) (who : Master → Bool) (b : EventBody)
    (hb : s.PartiesRead → t.Addresses who b) : Deed s (t.queue who b) where
  micros := h.micros.loosen.tail (.queue who b (.inl trivial))
  adds hs := (h.micros.adds hs).trans (t.queue_adds who b (hb hs) (h.micros.adds hs).parties)
  levels hs g := h.levels g (hs g)
  busy hs g := h.busy g nofun (hs g)
  lists g hs := by
    have hstands : t.ListStands g := h.micros.listStands g hs
    exact hstands
  map := hm

/-! ### Ports, bases and ramps -/

/-- A change of the ports, none of whose queues takes a record. -/
theorem State.does_port (s : State) {x : Option Group} (m : Master) (f : Port → Port)
    (h : (f (s.port m)).queue ⊆ (s.port m).queue) : Does x s (s.modPort m f) := by
  refine State.does_quiet (quiet_of_eq (fun n => ?_) rfl rfl rfl rfl rfl rfl rfl rfl) fun _ => rfl
  rw [State.port_modPort]
  split
  case isTrue heq => subst heq; exact h
  case isFalse => exact List.Subset.refl _

theorem State.does_base (s : State) {x : Option Group} (c : ChanId) (v : Nat) (hv : v ≤ 1000) : Does x s (s.setBase c v) :=
  ((Micro.base c v hv).does (fun _ => rfl) (fun _ => rfl) rfl).trans (State.does_refold _ c)

theorem TsmParams.gv1_le (p : TsmParams) (d : Nat) : p.gv1 d ≤ 1000 := Nat.min_le_left _ _

theorem TsmParams.gv2_le (p : TsmParams) (d : Nat) : p.gv2 d ≤ 1000 := by
  unfold TsmParams.gv2
  dsimp only
  split
  · exact Nat.zero_le _
  · exact Nat.min_le_left _ _

theorem State.does_storePoint (s : State) {x : Option Group} (c : ChanId) (v : Nat) (hv : v ≤ 1000) :
    Does x s (s.storePoint c v) := by
  refine Does.trans (.ite (fun _ => ?_) fun _ => s.does_base c v hv) (State.does_test _ _)
  exact ((s.does_tsm _).trans (State.does_base _ 8 _ (s.tsm.params.gv1_le v))).trans (State.does_base _ 9 _ (s.tsm.params.gv2_le v))

/-- A channel whose values alone change. -/
theorem State.does_value (s : State) {x : Option Group} (c : ChanId) (f : Channel → Channel)
    (hf : (f (s.chan c)).params = (s.chan c).params ∧ (f (s.chan c)).base = (s.chan c).base ∧
      (f (s.chan c)).stack = (s.chan c).stack)
    (hv : s.ValuesFit → (f (s.chan c)).target ≤ 1000 ∧ (f (s.chan c)).applied ≤ 1000) : Does x s (s.modChan c f) :=
  (Micro.value c f hf hv).does (fun _ => rfl) (fun _ => rfl) rfl

theorem Channel.rampValue_le {y : Channel} (h : y.Fits) (up : Bool) : y.rampValue up ≤ 1000 := by
  obtain ⟨_, _, _, htarget, happlied, _⟩ := h
  unfold Channel.rampValue
  split_ifs <;> omega

theorem State.does_rampChannel (s : State) {x : Option Group} (c : ChanId) : Does x s (s.rampChannel c) := by
  unfold State.rampChannel
  dsimp only
  refine .ite (fun _ => .refl) fun _ => ?_
  generalize decide (¬((s.unit (unitOf c)).phase = .none ∧ (s.unit (unitOf c)).state = .paused)) = up
  have hspec := Channel.setApplied_spec (s.chan c) ((s.chan c).rampValue up)
  have hramp : Does x s (s.modChan c fun ch => ch.setApplied ((s.chan c).rampValue up)) := by
    refine s.does_value c _ ⟨hspec.1, hspec.2.1, hspec.2.2.1⟩ fun hs => ⟨?_, ?_⟩
    · exact hspec.2.2.2.1.le.trans (hs.chan c).2.2.2.1
    · exact hspec.2.2.2.2.1.le.trans (Channel.rampValue_le (hs.chan c) up)
  exact .ite (fun _ => hramp.trans (State.does_queueReaders _ _ _ rfl)) fun _ => hramp

/-! ### The map -/

/-- The law of one entry (R47, R56, R59). -/
def MapEntry.Ok (y : MapEntry) : Prop :=
  (∀ m, y.writer = some m → y.readers.has m = true) ∧
  (∀ o, y.offer = some o → y.locked = false ∧ y.readers.has o.offeree = true ∧ y.writer ≠ none ∧
    y.writer ≠ some o.offeree) ∧ (y.locked = true → y.writer ≠ none)

theorem MapEntry.Ok.parties {y : MapEntry} (h : y.Ok) : y.PartiesRead := ⟨h.1, fun o ho => (h.2.1 o ho).2.1⟩

theorem State.MapOk.parties (h : s.MapOk) : s.PartiesRead := fun c => MapEntry.Ok.parties (h c)

/-- One entry changes, to a form that its law allows. -/
theorem mapOk_of_entry {c : ChanId} {y : MapEntry} (he : ∀ d, t.entry d = if d = c then y else s.entry d)
    (hy : (s.entry c).Ok → y.Ok) (hl : (s.entry c).Ok → (s.entry c).locked = true → y.locked = true ∧ y.writer = (s.entry c).writer)
    (hs : s.MapOk) : t.MapOk ∧ LocksStay s t := by
  refine ⟨fun d => ?_, fun d hd => ?_⟩ <;> rw [he]
  · split
    · exact hy (hs c)
    · exact hs d
  · split
    case isTrue heq => subst heq; exact hl (hs d) hd
    case isFalse => exact ⟨hd, rfl⟩

/-- An entry changes; its readers stay. -/
theorem State.keeps_entry (s : State) {x : Option Group} (c : ChanId) (f : MapEntry → MapEntry)
    (hf : (s.entry c).PartiesRead → (f (s.entry c)).PartiesRead)
    (hr : ∀ m, (s.entry c).readers.has m = true → (f (s.entry c)).readers.has m = true) : Keeps x s (s.modEntry c f) :=
  ⟨(Micro.entry c f hf hr).run, fun _ => id, fun _ _ => id, fun _ => id, fun _ _ => id⟩

theorem mem_parties {l : List (Option Master)} {m : Master} : l.contains (some m) = true ↔ some m ∈ l := by
  simp

/-- R47, R52: the writer of an entry that is not LOCKED changes. -/
theorem State.deed_changeWriter (s : State) (c : ChanId) (new : Option Master)
    (hl : (s.entry c).Ok → (s.entry c).locked = false) : Deed s (s.changeWriter c new) := by
  rw [State.changeWriter_eq_queue]
  have hwriter : Keeps none s (s.withWriter c new) := by
    refine s.keeps_entry c _ (fun h => ?_) fun m hm => ?_
    · refine ⟨fun m hm => ?_, fun o ho => ?_⟩
      · exact (MapEntry.handedTo_has new _ m).mpr (.inl hm)
      · exact (MapEntry.handedTo_has new _ _).mpr (.inr (h.2 o ho))
    · exact (MapEntry.handedTo_has new _ m).mpr (.inr hm)
  have hdropped : Keeps none (s.withWriter c new) ((s.withWriter c new).dropWriterEntries c) := by
    refine (Does.ite (fun _ => ?_) fun _ => .refl).toKeeps
    simp only [removeEntry_force_link]
    refine ((State.does_filter _ c _ (fun e he => ?_) fun e he => ?_).trans (State.does_refold _ c)).trans (State.does_test _ _)
      <;> simp [he]
  have hcleared : Keeps none ((s.withWriter c new).dropWriterEntries c) (s.rewritten c new) :=
    State.keeps_entry _ c _ (fun h => ⟨h.1, nofun⟩) fun m => id
  have hreviewed : Keeps none (s.rewritten c new) (s.reviewed c new) := by
    rcases s.reviewed_cases c new with ⟨w, _, heq⟩ | ⟨_, heq⟩
    · rw [heq]
      exact (State.does_deactivate _ _ _).toKeeps
    · rw [heq]
      exact Does.refl.toKeeps
  refine (((hwriter.trans hdropped).trans hcleared).trans hreviewed).deed_queue ?_ _ _ fun hp d hd m hm => ?_
  · refine mapOk_of_entry (s.reviewed_entry c new) (fun h => ⟨fun m hm => ?_, nofun, fun hlocked => ?_⟩) fun h hlocked => ?_
    · exact (MapEntry.handedTo_has new _ m).mpr (.inl hm)
    · rw [show ((s.entry c).handedTo new).locked = (s.entry c).locked from rfl, hl h] at hlocked
      cases hlocked
    · rw [hl h] at hlocked
      cases hlocked
  · cases hd
    rw [State.reviewed_entry, if_pos rfl, MapEntry.handedTo_has]
    rcases (s.hearsHandover_iff c new m).mp hm with hold | hnew | hread
    · exact .inr ((hp c).1 m hold)
    · exact .inl hnew
    · exact .inr hread

/-- An offer ends, and parties of the entry are told. -/
theorem State.deed_endOffer (s : State) (c : ChanId) (parties : Option Master → Master → List (Option Master))
    (hparties : ∀ w o m, some m ∈ parties w o → w = some m ∨ o = m) (why : ExpiryReason) :
    Deed s (s.endOffer c parties why) := by
  unfold State.endOffer
  cases ho : (s.entry c).offer with
  | none => exact .refl
  | some o =>
    refine (s.keeps_entry c (fun e => { e with offer := none }) (fun h => ⟨h.1, nofun⟩) fun _ => id).deed_queue ?_ _ _
      fun hp d hd m hm => ?_
    · refine mapOk_of_entry (s.entry_modEntry c · _) (fun h => ⟨h.1, nofun, h.2.2⟩) fun _ hl => ⟨hl, rfl⟩
    · cases hd
      rw [State.entry_modEntry, if_pos rfl]
      rcases hparties _ _ _ (mem_parties.mp hm) with hw | rfl
      · exact (hp c).1 m hw
      · exact (hp c).2 o ho

/-- R56: an offer by the writer of an OPEN entry to another of its readers. -/
theorem State.deed_setOffer (s : State) (c : ChanId) (o m : Master) (hw : (s.entry c).writer = some m)
    (hl : (s.entry c).locked = false) (hne : o ≠ m) (hr : (s.entry c).readers.has o = true) : Deed s (s.setOffer c o) := by
  have hreplace : Does none s (s.replaceOffer c o) := by
    unfold State.replaceOffer
    cases ho : (s.entry c).offer with
    | none => exact .refl
    | some k =>
      refine .ite (fun _ => .refl) fun _ => s.does_queue _ _ fun hp d hd n hn => ?_
      cases hd
      simp only [mem_parties, List.mem_cons, Option.some.injEq, List.not_mem_nil, or_false] at hn
      rcases hn with hn | rfl
      · exact (hp c).1 n hn.symm
      · exact (hp c).2 k ho
  have hentry (d : ChanId) : (s.replaceOffer c o).entry d = s.entry d := by simp only [State.entry, hreplace.map]
  refine hreplace.deed.trans ?_
  unfold State.setOffer
  dsimp only
  generalize s.replaceOffer c o = q at hentry
  refine Keeps.deed_queue (q.keeps_entry c
    (fun e => { e with offer := some ⟨o, q.ms + BitVec.ofNat 32 (q.offerTimeout * 1000)⟩ })
    (fun h => ⟨h.1, fun k hk => ?_⟩) fun _ => id) ?_ _ _ fun hp d hd n hn => ?_
  · cases hk
    rw [hentry]
    exact hr
  · refine mapOk_of_entry (q.entry_modEntry c · _) (fun h => ⟨h.1, fun k hk => ?_, h.2.2⟩) fun _ hlocked => ⟨hlocked, rfl⟩
    cases hk
    rw [hentry]
    exact ⟨hl, hr, by simp [hw], by simpa [hw] using fun h : m = o => hne h.symm⟩
  · cases hd
    rw [State.entry_modEntry, if_pos rfl, hentry]
    simp only [mem_parties, List.mem_cons, Option.some.injEq, List.not_mem_nil, or_false, hentry] at hn
    rcases hn with hn | rfl
    · have hn' := (hp c).1 n
      rw [hentry] at hn'
      exact hn' hn.symm
    · exact hr

end Sys2Proof.Machine
end

section
/-! Trips, releases, acknowledgements and the paths of a GO, as parts of a command (R70 to R79, R97, R98, R101 to R103). -/

namespace Sys2Proof.Machine

variable {s t r : State} {x : Option Group}

/-! ### Forcing (R79) -/

theorem State.does_enterTripState (s : State) (u : UnitId) : Does (some (unitGroup u)) s (s.enterTripState u) :=
  .ite (fun _ => .refl) fun _ => (s.does_unit u _ rfl).trans (State.does_refoldUnit _ u)

theorem State.enterTripState_phase (s : State) (u v : UnitId) (h : v = u ∨ (s.unit v).phase = .none) :
    ((s.enterTripState u).unit v).phase = .none := by
  unfold State.enterTripState
  split
  case isTrue hrest =>
    rcases h with rfl | h
    · simp only [UnitRec.atRest, Bool.and_eq_true, decide_eq_true_eq] at hrest
      exact hrest.1
    · exact h
  case isFalse =>
    rw [State.refoldUnit_unit, State.unit_modUnit]
    split
    case isTrue => rfl
    case isFalse hne => exact h.resolve_left hne

theorem State.entered_phase (s : State) (l : List UnitId) (v : UnitId) (h : v ∈ l ∨ (s.unit v).phase = .none) :
    ((s.entered l).unit v).phase = .none := by
  induction l generalizing s with
  | nil => exact h.resolve_left (by simp)
  | cons u l ih =>
    refine ih (s.enterTripState u) ?_
    rcases h with h | h
    · rcases List.mem_cons.mp h with heq | h
      · exact .inr (s.enterTripState_phase u v (.inl heq))
      · exact .inl h
    · exact .inr (s.enterTripState_phase u v (.inr h))

theorem State.does_entered (s : State) (g : Group) (l : List UnitId) (hl : ∀ u ∈ l, unitGroup u = g) :
    Does (some g) s (s.entered l) :=
  .each l _ s fun u hu q _ => hl u hu ▸ q.does_enterTripState u

theorem State.does_forced (s : State) (u : UnitId) (y : UnitRec) : Does x s (s.forced u y) := by
  unfold State.forced
  dsimp only
  refine .ite (fun _ => .refl) fun _ => ?_
  have hleft := ((s.does_leaveService u).trans (State.does_speedLeave (x := x) _ u)).trans
    (State.does_note _ u (fun y => { y with protAltered := true }) rfl)
  exact (Does.ite (fun _ => hleft) fun _ => hleft.trans (State.does_queueReaders _ _ _ rfl)).trans
    (State.does_queueReaders _ _ _ rfl)

/-- R79 steps 1 to 5 for the units of a group, before a GO in flight is abandoned. -/
def State.allForced (s : State) (g : Group) : State :=
  (s.entered (groupUnits g)).each (groupUnits g) fun u q => q.forced u s.units[u]

/-- R78: a GO in flight ends ABANDONED. -/
def State.abandonGo (s : State) (g : Group) : State :=
  if (s.group g).busy then
    (s.modGroup g fun y => { y with busy := false }).queueAll (.goDone g true (s.group g).started)
  else s

theorem State.forceGroup_eq (s : State) (g : Group) : s.forceGroup g = (s.allForced g).abandonGo g := rfl

theorem State.abandonGo_group (s : State) (g h : Group) : (s.abandonGo g).group h =
    if h = g then { s.group g with busy := false } else s.group h := by
  unfold State.abandonGo
  split
  case isTrue => rw [State.queueAll, State.queue_group, State.group_modGroup]
  case isFalse hb =>
    split
    case isTrue heq =>
      rw [Bool.not_eq_true] at hb
      rw [heq, ← hb]
    case isFalse => rfl

theorem State.abandonGo_unit (s : State) (g : Group) (u : UnitId) : (s.abandonGo g).unit u = s.unit u := by
  unfold State.abandonGo
  split <;> rfl

theorem State.abandonGo_micros (s : State) (g : Group) : Micros False s (s.abandonGo g) := by
  unfold State.abandonGo
  split
  · exact .tail (Micro.group g (fun y => { y with busy := false }) rfl (.inr id)).run
      (Micro.queue (fun _ => true) (.goDone g true (s.group g).started) (.inr fun _ => State.addresses_none rfl))
  · exact .refl

/-- R78: where no unit of a group is in a phase, its flag falls. -/
theorem Does.abandoned {g : Group} (h : Does (some g) s t) (hphase : ∀ u ∈ groupUnits g, (t.unit u).phase = .none) :
    Does x s (t.abandonGo g) := by
  have hgroup (k : Group) (hk : k ≠ g) : (t.abandonGo g).group k = t.group k := by rw [State.abandonGo_group, if_neg hk]
  refine ⟨⟨h.micros.trans (t.abandonGo_micros g), fun k hk => ?_, fun k _ hk => ?_, fun k hk => ?_, fun u _ hu => ?_⟩, ?_⟩
  · rw [State.abandonGo_group]
    split
    case isTrue heq => subst heq; exact h.levels k hk
    case isFalse => exact h.levels k hk
  · by_cases heq : k = g
    · subst heq
      unfold State.BusyMatches
      rw [State.abandonGo_group, if_pos rfl]
      simp only [Bool.false_eq_true, false_iff, not_exists, not_and, not_not]
      exact fun u hu => by rw [State.abandonGo_unit]; exact hphase u hu
    · refine busyMatches_of_eq (by rw [hgroup k heq]) (fun u _ => by rw [State.abandonGo_unit]) (h.busy k ?_ hk)
      exact fun he => heq (Option.some.inj he).symm
  · rw [State.abandonGo_group]
    split
    · rfl
    · exact h.idle k hk
  · rw [State.abandonGo_unit]
    by_cases heq : unitGroup u = g
    · exact hphase u (heq ▸ mem_groupUnits u)
    · exact h.rests u (fun he => heq (Option.some.inj he).symm) hu
  · refine Eq.trans ?_ h.map
    unfold State.abandonGo
    split <;> rfl

theorem State.does_forceGroup (s : State) (g : Group) : Does x s (s.forceGroup g) := by
  rw [State.forceGroup_eq]
  have hentered := s.does_entered g (groupUnits g) fun u hu => unitGroup_of_mem hu
  have hforced : Does none (s.entered (groupUnits g)) (s.allForced g) :=
    .each _ _ _ fun u _ q _ => q.does_forced u _
  exact (hentered.trans hforced.weaken).abandoned fun u hu =>
    hforced.rests u nofun (s.entered_phase _ u (.inl hu))

/-! ### Trip entry (R97, R98) -/

theorem Channel.tripJump_applied (y : Channel) (v : Nat) :
    (y.tripJump v).applied = v ∨ (y.tripJump v).applied = y.applied := by
  unfold Channel.tripJump
  split
  · split
    · exact .inr rfl
    · exact .inl (Channel.oneShotTarget_spec y v).2.2.2.2
  · exact .inl (Channel.jumpApplied_spec _ v).2.2.2.2.1

theorem State.does_pushTrip (s : State) (c : ChanId) (v : Nat)
    (hlist : s.TripListsOk → ⟨c, v⟩ ∈ (s.group (chanGroup c)).tripList) (hv : s.ValuesFit → v ≤ 1000) :
    Does x s (s.pushTrip c v) := by
  have hpush := s.does_pushRaw (x := x) c ⟨.trip, .value, v, s.ms⟩ (by simp) hv fun _ => ⟨rfl, hlist⟩
  have hspec (y : Channel) := Channel.tripJump_spec y v
  refine hpush.trans (State.does_value _ c _ ⟨(hspec _).1, (hspec _).2.1, (hspec _).2.2.1⟩ fun hfit => ?_)
  obtain ⟨_, _, _, _, happlied, hstack⟩ := hfit.chan c
  have hle : v ≤ 1000 := by
    refine hstack ⟨.trip, .value, v, s.ms⟩ ?_
    rw [State.pushRaw_stack, if_pos rfl]
    exact mem_pushEntry_self _ _
  refine ⟨(hspec _).2.2.2.le.trans hle, ?_⟩
  rcases Channel.tripJump_applied ((s.pushRaw c ⟨.trip, .value, v, s.ms⟩).chan c) v with h | h
  · exact h.le.trans hle
  · exact h.le.trans happlied

theorem Micros.tripList {d : Prop} (h : Micros d s t) (g : Group) : (t.group g).tripList = (s.group g).tripList := by
  induction h with
  | refl => rfl
  | tail _ h ih => exact (h.tripList g).trans ih

theorem State.does_pushTripList (s : State) (g : Group) : Does x s (s.pushTripList g) := by
  refine .each _ _ s fun y hy q hq => q.does_pushTrip y.channel y.value (fun hlists => ?_) fun hfit => ?_
  all_goals rw [← hq.micros.tripList g] at hy
  · rw [(hlists g).1 y hy]
    exact hy
  · exact hfit.2.1 g y hy

/-! ### Deeds that set one group aside -/

/-- A part of a command that keeps the laws but, it may be, the trip list of one group. -/
structure Nearly (g : Group) (s t : State) : Prop where
  micros : Micros True s t
  adds : s.PartiesRead → Adds s t
  levels : s.LevelsFollow → t.LevelsFollow
  busy : s.BusyOk → t.BusyOk
  lists : ∀ k, k ≠ g → s.ListStands k → t.ListStands k
  map : t.map = s.map

variable {g : Group}

theorem Does.nearly (h : Does none s t) : Nearly g s t :=
  ⟨h.deed.micros, h.deed.adds, h.deed.levels, h.deed.busy, fun k _ => h.deed.lists k, h.map⟩

theorem Nearly.trans (h : Nearly g s t) (k : Nearly g t r) : Nearly g s r where
  micros := h.micros.trans k.micros
  adds hs := (h.adds hs).trans (k.adds (h.adds hs).parties)
  levels hs := k.levels (h.levels hs)
  busy hs := k.busy (h.busy hs)
  lists j hj hs := k.lists j hj (h.lists j hj hs)
  map := k.map.trans h.map

theorem Nearly.deed (h : Nearly g s t) (hl : s.ListStands g → t.ListStands g) : Deed s t where
  micros := h.micros
  adds := h.adds
  levels := h.levels
  busy := h.busy
  lists k hs := by
    by_cases hk : k = g
    · exact hk ▸ hl (hk ▸ hs)
    · exact h.lists k hk hs
  map := mapOk_of_eq h.map

/-- A move of a group's level and no list. -/
theorem listStands_of_eq (hc : ∀ c, (t.chan c).stack = (s.chan c).stack) (hl : ∀ k, (t.group k).tripList = (s.group k).tripList)
    (hg : (t.group g).level = .trip → (s.group g).level = .trip) (hs : s.ListStands g) : t.ListStands g := by
  obtain ⟨hstack, hlists, hhold⟩ := hs
  refine ⟨fun c => by rw [hc]; exact hstack c, fun k => by rw [hl]; exact hlists k, fun ht y hy => ?_⟩
  rw [hl] at hy
  rw [hc]
  exact hhold (hg ht) y hy

/-- R97: the arrival is recorded, and the group enters TRIP. -/
theorem State.nearly_setTrip (s : State) (g : Group) (c : Cause) : Nearly g s ((s.record g c .trip).setLevel g .trip) := by
  have hspec := GroupRec.arrive_spec (s.group g) c .trip s.ms
  have hrecord := s.recordWith_micros g c .trip false _ hspec.1 hspec.2.1
  have hother (k : Group) (hk : k ≠ g) : ((s.record g c .trip).setLevel g .trip).group k = s.group k := by
    rw [State.setLevel_group, if_neg hk, State.record, State.recordWith_group, if_neg hk]
  refine ⟨?_, fun hs => ?_, fun hs k hk => ?_, fun hs k => ?_, fun k hk hs => ?_, s.recordWith_map g c .trip false _⟩
  · exact (hrecord.loosen.tail (Micro.group g (fun y => { y with level := .trip }) rfl (.inl trivial))).tail
      (Micro.queue (fun _ => true) (.groupLevel g .trip ((s.record g c .trip).group g).firstOut) (.inl trivial))
  · exact (s.recordWith_adds g c .trip false _ hs).trans
      (State.setLevel_adds _ g .trip (s.recordWith_adds g c .trip false _ hs).parties)
  · by_cases heq : k = g
    · rw [heq, State.setLevel_group, if_pos rfl] at hk
      exact absurd rfl hk
    · rw [hother k heq] at hk ⊢
      exact hs k hk
  · refine busyMatches_of_eq (s := s) ((State.setLevel_busy _ g k .trip).trans (s.recordWith_busy g c .trip false _ hspec.2.2.1 k))
      (fun u _ => congrArg UnitRec.phase (s.recordWith_unit g c .trip false _ u)) (hs k)
  · refine listStands_of_eq (s := s) (fun d => ?_) (fun j => ?_) (fun ht => by rwa [hother k hk] at ht) hs
    · exact congrArg Channel.stack (s.recordWith_chan g c .trip false _ d)
    · refine Eq.trans ?_ (hrecord.tripList j)
      rw [State.setLevel_group]
      split
      case isTrue heq => rw [heq]; rfl
      case isFalse => rfl

/-- R97 step 2: the trip list stands once it is pushed. -/
theorem State.pushTripList_holds (s : State) (g : Group) (hlists : s.TripListsOk) : (s.pushTripList g).ListHolds g := by
  intro _ y hy
  rw [(s.does_pushTripList (x := none) g).micros.tripList g] at hy
  refine ⟨⟨.trip, .value, y.value, s.ms⟩, ?_, rfl, rfl⟩
  rw [(State.pushTripList_stack s g (hlists g).2).1 y hy]
  exact mem_pushEntry_self _ _

theorem Micros.stacksOk {d : Prop} (h : Micros d s t) (hs : s.StacksOk) : t.StacksOk :=
  h.keep (P := State.StacksOk) (fun _ _ h hq => h.stacksOk hq) hs

theorem Micros.tripListsOk {d : Prop} (h : Micros d s t) (hs : s.TripListsOk) : t.TripListsOk :=
  h.keep (P := State.TripListsOk) (fun _ _ h hq => h.tripListsOk hq) hs

/-- R97 steps 1 to 3, after the record of the cause. -/
theorem State.deed_tripSteps (s : State) (g : Group) (c : Cause) : Deed s ((s.record g c .trip).tripSteps g) := by
  have hlevel := s.nearly_setTrip g c
  have hpush := State.does_pushTripList (x := none) ((s.record g c .trip).setLevel g .trip) g
  have hforce := State.does_forceGroup (x := none) (((s.record g c .trip).setLevel g .trip).pushTripList g) g
  have hpushed := hlevel.trans hpush.nearly
  refine (hpushed.trans hforce.nearly).deed fun ⟨hstack, hlists, _⟩ => hforce.micros.listStands g ⟨?_, ?_, ?_⟩
  · exact hpushed.micros.stacksOk hstack
  · exact hpushed.micros.tripListsOk hlists
  · exact State.pushTripList_holds _ g (hlevel.micros.tripListsOk hlists)

/-! ### Arrivals (R88, R97, R98) -/

/-- R88: an arrival, with what its group's trip entry does after the record. -/
theorem State.deed_arriveWith (s : State) (entry : State → State) (g : Group) (c : Cause)
    (h : Deed s (entry (s.record g c .trip))) : Deed s (s.arriveWith entry g c) := by
  have hspec := GroupRec.arrive_spec (s.group g) c .trip s.ms
  unfold State.arriveWith
  split
  · exact (s.does_arriveAlarm g c).deed
  · dsimp only
    split
    · exact (State.does_recorded s g c .trip false _ ⟨hspec.1, hspec.2.1, hspec.2.2.1⟩ .refl).deed
    · exact h.trans (State.does_relevel _ g).deed

theorem State.deed_tripAlarm (s : State) (g : Group) (c : Cause) : Deed s ((s.record g c .trip).tripAlarm g) :=
  (s.deed_tripSteps g c).trans (State.does_propagateAlarm _ g).deed

theorem State.deed_arriveField (s : State) (g : Group) :
    Deed s (s.arriveWith (fun q => q.tripAlarm g) g .fieldTripped) :=
  s.deed_arriveWith (fun q => q.tripAlarm g) g .fieldTripped (s.deed_tripAlarm g .fieldTripped)

theorem State.deed_propagateField (s : State) : Deed s s.propagateField :=
  (s.deed_arriveField .turbine).trans (State.deed_arriveField _ .heat)

theorem State.deed_arrive (s : State) (g : Group) (c : Cause) : Deed s (s.arrive g c) := by
  refine s.deed_arriveWith _ g c ((s.deed_tripSteps g c).trans ?_)
  exact .ite (fun _ => State.deed_propagateField _) fun _ => (State.does_propagateAlarm _ g).deed

theorem State.deed_handOver (s : State) (g : Group) (c : Cause) (b : Bool) : Deed s (s.handOver g c b) :=
  .ite (fun _ => s.deed_arrive g c) fun _ => (s.does_deactivate g c).deed

/-! ### Release (R101) -/

theorem State.nearly_removeTrip (s : State) (c : ChanId) : Nearly (chanGroup c) s (s.remove c .trip) := by
  unfold State.remove
  split
  case isFalse => exact Does.refl.nearly
  have hmicro : Micro True s (s.modChan c fun ch => { ch with stack := removeEntry .trip ch.stack }) :=
    .filter c _ (fun e he => decide_eq_true (by rw [he]; nofun)) (.inl trivial)
  have hdrop : Nearly (chanGroup c) s (s.modChan c fun ch => { ch with stack := removeEntry .trip ch.stack }) :=
    ⟨hmicro.run, s.modChan_adds c _, id, id, fun k hk ⟨hstack, hlists, hhold⟩ => ⟨hmicro.stacksOk hstack, hlists, fun hl y hy => ?_⟩, rfl⟩
  · exact (hdrop.trans (State.does_refold _ c).nearly).trans (State.does_test _ _).nearly
  · rw [State.chan_modChan, if_neg]
    · exact hhold hl y hy
    · rintro rfl
      exact hk ((hlists k).1 y hy).symm

/-- R101: the TRIP entries go, the level is the one the log asks for, and what the trip had propagated ends. -/
theorem State.deed_release (s : State) (g : Group) : Deed s (s.release g) := by
  have hdropped : Nearly g s (s.dropTrips g) :=
    State.each_induct (P := fun q => Nearly g s q) _ _ (fun c hc q hq => hq.trans (chanGroup_of_mem hc ▸ q.nearly_removeTrip c)) s
      Does.refl.nearly
  have hlevel := (s.dropTrips g).does_setLevel (x := none) g _ (GroupRec.quietLevel_ne _)
    fun _ => ((s.dropTrips g).group g).follows_quietLevel
  have hset := hdropped.trans hlevel.nearly
  refine (hset.deed fun ⟨hstack, hlists, _⟩ => ⟨hset.micros.stacksOk hstack, hset.micros.tripListsOk hlists, fun hl => ?_⟩).trans
    (State.does_propagateEnd _ g).deed
  rw [State.setLevel_group, if_pos rfl] at hl
  exact absurd hl (GroupRec.quietLevel_ne _)

/-! ### ACK (R102, R103) -/

theorem State.giveRecords_micros (s : State) (g : Group) : Micros False s (s.giveRecords g) := by
  have hgive (q : State) (y : Unrecorded) : Micros False q (q.giveRecord g y) :=
    .tail (Micro.group g (fun r => { r with
      log := r.log ++ [⟨y.cause, y.cls, false, q.ms, q.ms, 1, true, false⟩]
      unrecorded := r.unrecorded.filter (fun z => decide (z.cause ≠ y.cause)) }) rfl (.inr id)).run
      (Micro.queue (fun _ => true) (.causeNew g y.cause y.cls false true) (.inr fun _ => State.addresses_none rfl))
  have heach := State.each_induct (P := fun q => Micros False s q) ((s.group g).unrecorded.take (logSize - (s.group g).log.length))
    (fun y q => q.giveRecord g y) (fun y _ q hq => hq.trans (hgive q y)) s .refl
  exact heach.tail (Micro.group g (fun r => { r with logFull := !r.unrecorded.isEmpty }) rfl (.inr id))

theorem State.does_acknowledge (s : State) (g : Group) : Does x s (s.acknowledge g) := by
  have hgiven : Micros False s ((s.modGroup g GroupRec.acknowledge).giveRecords g) :=
    (Micro.group g GroupRec.acknowledge rfl (.inr id)).run.trans (State.giveRecords_micros _ g)
  have hkept (h : Group) := s.acknowledged_kept g h
  have hunit : ((s.modGroup g GroupRec.acknowledge).giveRecords g).units = s.units := by
    simpa using congrArg State.units (s.acknowledged_frame g)
  have hmap : ((s.modGroup g GroupRec.acknowledge).giveRecords g).map = s.map := by
    simpa using congrArg State.map (s.acknowledged_frame g)
  have hlevel := ((s.modGroup g GroupRec.acknowledge).giveRecords g).does_relevel (x := x) g
  refine ⟨⟨hgiven.trans hlevel.micros, fun h hs => ?_, fun h hx hs => ?_, fun h hs => ?_, fun u hx hu => ?_⟩, hlevel.map.trans hmap⟩
  · by_cases heq : h = g
    · subst heq
      exact State.relevel_follows _ h
    · refine hlevel.levels h ?_
      rwa [s.acknowledged_group_other heq]
  · exact hlevel.busy h hx (busyMatches_of_eq (s := s) (hkept h).2.2.1 (fun u _ => by simp only [State.unit, hunit]) hs)
  · exact hlevel.idle h ((hkept h).2.2.1.trans hs)
  · refine hlevel.rests u hx ?_
    simpa only [State.unit, hunit] using hu

/-! ### GO and the drain timer (R70 to R78) -/

theorem State.does_clearPath (s : State) (u : UnitId) : Does x s (s.clearPath u) := Does.refl.cleared rfl fun _ _ => id

theorem State.does_beginStarting (s : State) (u : UnitId) : Does (some (unitGroup u)) s (s.beginStarting u) :=
  (((s.does_unit u _ rfl).trans (State.does_refoldUnit _ u)).trans (State.does_speedEnter _ u)).trans (State.does_test _ u)

theorem State.does_beginDrain (s : State) (u : UnitId) (p : Phase) : Does (some (unitGroup u)) s (s.beginDrain u p) := by
  unfold State.beginDrain
  exact (((((s.does_unit u _ rfl).trans (State.does_refoldUnit _ u)).trans (State.does_leaveService _ u)).trans
    (State.does_speedLeave _ u)).trans (State.does_unit _ u _ rfl)).trans (State.does_test _ u)

theorem State.does_startPath (s : State) (u : UnitId) : Does (some (unitGroup u)) s (s.startPath u) := by
  have hdest : Does (some (unitGroup u)) s (s.modUnit u fun y => { y with dest := some y.next }) := s.does_unit u _ rfl
  have hstep (st : UState) := hdest.trans (State.does_stepTo _ u st .go)
  unfold State.startPath
  dsimp only
  split
  · exact hdest.trans (State.does_clearPath _ u)
  · exact hdest.trans (State.does_clearPath _ u)
  · exact hdest.trans (State.does_clearPath _ u)
  · exact hdest.trans (State.does_clearPath _ u)
  · exact (hstep _).trans (State.does_clearPath _ u)
  · exact (hstep _).trans (State.does_beginStarting _ u)
  · exact (hstep _).trans (State.does_beginStarting _ u)
  · exact (hstep _).trans (State.does_clearPath _ u)
  · exact hdest.trans (State.does_beginStarting _ u)
  · exact hdest.trans (State.does_beginStarting _ u)
  · exact (hstep _).trans (State.does_clearPath _ u)
  · exact (hstep _).trans (State.does_clearPath _ u)
  · exact hdest.trans (State.does_beginDrain _ u _)
  · exact hdest.trans (State.does_beginDrain _ u _)
  · exact hdest.trans (State.does_beginDrain _ u _)
  · exact hdest.trans (State.does_beginDrain _ u _)

/-- R78: what ends a GO sets the busy flag of its group where a unit of it is in a phase. -/
theorem Does.goEnded {g : Group} {q : State} (h : Does (some g) s q) (hm : Micros False q t) (hmap : t.map = q.map)
    (hunit : ∀ u, t.unit u = q.unit u) (hother : ∀ k, k ≠ g → t.group k = q.group k)
    (hlevel : (q.group g).Follows → (t.group g).Follows) (hbusy : t.BusyMatches g) : Deed s t where
  micros := (h.micros.trans hm).loosen
  adds := (h.micros.trans hm).adds
  levels hs k := by
    by_cases heq : k = g
    · subst heq
      exact hlevel (h.levels k (hs k))
    · change (t.group k).Follows
      rw [hother k heq]
      exact h.levels k (hs k)
  busy hs k := by
    by_cases heq : k = g
    · exact heq ▸ hbusy
    · refine busyMatches_of_eq (by rw [hother k heq]) (fun u _ => by rw [hunit]) (h.busy k ?_ (hs k))
      exact fun he => heq (Option.some.inj he).symm
  lists := (h.micros.trans hm).listStands
  map := mapOk_of_eq (hmap.trans h.map)

/-- R78: a GO of a group that is not busy leaves it busy exactly while a unit of it is in a phase. -/
theorem State.deed_startGo (s : State) (g : Group) (hidle : (s.group g).busy = false) : Deed s (s.startGo g) := by
  have hpaths : Does (some g) s (s.each (s.pathUnits g) fun u q => q.startPath u) :=
    .each _ _ s fun u hu q _ => by
      rw [← unitGroup_of_mem (List.mem_filter.mp hu).1]
      exact q.does_startPath u
  unfold State.startGo State.endGo
  dsimp only
  generalize (s.each (s.pathUnits g) fun u q => q.startPath u) = q at hpaths
  split
  case isTrue hflight =>
    refine hpaths.goEnded (Micro.group g (fun y => { y with busy := true, started := (s.pathUnits g).length }) rfl (.inr id)).run
      rfl (fun _ => rfl) (fun k hk => by rw [State.group_modGroup, if_neg hk]) ?_ ?_
    · rw [State.group_modGroup, if_pos rfl]
      exact id
    · unfold State.BusyMatches
      rw [State.group_modGroup, if_pos rfl]
      exact ⟨fun _ => (State.pathInFlight_iff q g).mp hflight, fun _ => rfl⟩
  case isFalse hflight =>
    refine hpaths.goEnded (Micro.queue _ (.goDone g false (s.pathUnits g).length) (.inr fun _ => State.addresses_none rfl)).run
      rfl (fun _ => rfl) (fun _ _ => rfl) id ?_
    have hbusy : (q.group g).busy = false := hpaths.idle g hidle
    have hnone : ¬∃ u ∈ groupUnits g, (q.unit u).phase ≠ .none := fun h => hflight ((State.pathInFlight_iff q g).mpr h)
    exact ⟨fun h => absurd (hbusy.symm.trans h) (by simp), fun h => absurd h hnone⟩

theorem State.does_drainExpired (s : State) (u : UnitId) : Does x s (s.drainExpired u) :=
  s.does_endDrain u _ _ (fun q => q.does_momentary _ _) fun q => ⟨fun v => (State.relevel_unit _ _ v).trans (State.recordWith_unit q _ _ _ _ _ v), q.momentary_busy _ _ _⟩

end Sys2Proof.Machine
end

section
/-! What every command but a reset and a load does to the laws: each is a run of deeds. -/

namespace Sys2Proof.Machine

variable {s t r : State} {x : Option Group}

/-! ### Requests -/

theorem State.does_takeFrame (s : State) (m : Master) : Does x s (s.takeFrame m) :=
  s.does_port m _ (List.Subset.refl _)

theorem State.does_respond (s : State) (m : Master) (tag : Byte) (a : Result) (p : List Byte) : Does x s (s.respond m tag a p) := by
  refine (s.does_port m (fun p' => { p' with buffer := .ready ⟨tag, a, p⟩, partialFlag := false }) (List.Subset.refl _)).trans ?_
  exact State.does_quiet (quiet_of_eq (fun _ => List.Subset.refl _) rfl rfl rfl rfl rfl rfl rfl rfl) fun _ => rfl

theorem State.does_recoverMap (s : State) (m : Master) : Does x s (s.recoverMap m) := by
  have hlinks : Does x s (s.each (s.written m) fun c q => q.remove c .link) :=
    .each _ _ s fun c _ q _ => q.does_remove c .link (by simp) (by simp)
  exact hlinks.trans (.each _ _ _ fun g _ q _ => q.does_deactivate g _)

theorem State.does_hear (s : State) (m : Master) : Does x s (s.hear m) := by
  have hport := s.does_port (x := x) m (fun p => { p with silent := false }) (List.Subset.refl _)
  have htold := hport.trans (State.does_queue _ (fun k => decide (k ≠ m)) (.portHeard m (s.ms - (s.port m).silentSince))
    fun _ => State.addresses_none rfl)
  exact htold.trans (State.does_recoverMap _ m)

theorem State.does_validFrame (s : State) (m : Master) : Does x s (s.validFrame m) :=
  (Does.ite (fun _ => s.does_hear m) fun _ => .refl).trans (State.does_port _ m Port.reload (List.Subset.refl _))

/-- What a request's owner makes of the state after the valid frame decides what the request does. -/
theorem State.deed_takeRequest (s : State) (m : Master) (tag : Byte) (owner : State → Answer) (h : ∀ e, Deed e (owner e).1) :
    Deed s (s.takeRequest m tag owner) := by
  have htake := (s.does_takeFrame (x := none) m).deed
  unfold State.takeRequest
  refine .ite (fun _ => ?_) fun _ => htake.trans (State.does_respond _ m _ _ _).deed
  exact ((htake.trans (State.does_validFrame _ m).deed).trans (h _)).trans (State.does_respond _ m _ _ _).deed

theorem State.deed_index {α : Type} (s : State) (field : Option α) (k : α → Answer) (h : ∀ a, Deed s (k a).1) :
    Deed s (s.index field k).1 := by
  cases field with
  | none => exact .refl
  | some a => exact h a

theorem State.deed_needWriter (s : State) (ok : Bool) (k : Answer) (h : ok = true → Deed s k.1) : Deed s (s.needWriter ok k).1 := by
  unfold State.needWriter
  split
  · exact h ‹_›
  · exact .refl

theorem State.deed_needReader (s : State) (m : Master) (c : ChanId) (k : Answer) (h : Deed s k.1) :
    Deed s (s.needReader m c k).1 := by
  unfold State.needReader
  split
  · exact h
  · exact .refl

/-- A choice between answers. -/
theorem Deed.answer_ite {p : Prop} [Decidable p] {a b : Answer} (ha : p → Deed s a.1) (hb : ¬p → Deed s b.1) :
    Deed s (if p then a else b).1 := by
  split
  · exact ha ‹_›
  · exact hb ‹_›

/-! ### Requests of the channels and the map -/

theorem clampValue_le (v : Half) : clampValue v ≤ 1000 := Nat.min_le_left _ _

theorem deed_ownSetPoint (s : State) (m : Master) (ch : Byte) (v : Half) : Deed s (ownSetPoint m ch v s).1 :=
  s.deed_index _ _ fun c => s.deed_needWriter _ _ fun _ => .answer_ite (fun _ => .refl) fun _ =>
    .answer_ite (fun _ => .refl) fun _ => (s.does_storePoint c _ (clampValue_le v)).deed

theorem deed_ownForce (s : State) (m : Master) (ch k : Byte) (v : Half) : Deed s (ownForce m ch k v s).1 :=
  s.deed_index _ _ fun c => s.deed_index _ _ fun _ => s.deed_needWriter _ _ fun _ =>
    (s.does_push c _ (by simp) (by simp) fun _ => clampValue_le v).deed

theorem deed_ownUnforce (s : State) (m : Master) (ch : Byte) : Deed s (ownUnforce m ch s).1 :=
  s.deed_index _ _ fun c => s.deed_needWriter _ _ fun _ => (s.does_remove c .force (by simp) (by simp)).deed

theorem MapEntry.Ok.open {y : MapEntry} (h : y.Ok) (hw : y.writer = none) : y.locked = false := by
  by_contra hl
  exact h.2.2 (by simpa using hl) hw

theorem deed_ownClaim (s : State) (m : Master) (ch : Byte) : Deed s (ownClaim m ch s).1 := by
  refine s.deed_index _ _ fun c => .answer_ite (fun _ => .refl) fun _ => ?_
  split
  case h_1 hw => exact s.deed_changeWriter c _ fun h => h.open hw
  case h_2 =>
    refine .answer_ite (fun _ => .refl) fun hl => ?_
    exact .answer_ite (fun _ => .refl) fun _ => .answer_ite (fun _ => .refl) fun _ =>
      s.deed_changeWriter c _ fun _ => by simpa using hl

theorem deed_ownReleaseCh (s : State) (m : Master) (ch : Byte) : Deed s (ownReleaseCh m ch s).1 :=
  s.deed_index _ _ fun c => s.deed_needWriter _ _ fun _ => .answer_ite (fun _ => .refl) fun hl =>
    s.deed_changeWriter c _ fun _ => by simpa using hl

theorem deed_ownOffer (s : State) (m : Master) (ch o : Byte) : Deed s (ownOffer m ch o s).1 := by
  refine s.deed_index _ _ fun c => s.deed_index _ _ fun o => s.deed_needWriter _ _ fun hw => ?_
  refine .answer_ite (fun _ => .refl) fun hl => .answer_ite (fun _ => .refl) fun hne => .answer_ite (fun _ => .refl) fun hr => ?_
  exact s.deed_setOffer c o m (by simpa [State.writes] using hw) (by simpa using hl) hne (by simpa using hr)

theorem deed_ownAccept (s : State) (m : Master) (ch : Byte) : Deed s (ownAccept m ch s).1 := by
  refine s.deed_index _ _ fun c => ?_
  split
  case h_1 => exact .refl
  case h_2 o ho => exact .answer_ite (fun _ => s.deed_changeWriter c _ fun h => (h.2.1 o ho).1) fun _ => .refl

/-- R59: a lock, which ends a pending offer. -/
theorem State.deed_lock (s : State) (c : ChanId) (hw : (s.entry c).writer ≠ none) : Deed s
    ((s.modEntry c fun e => { e with locked := true }).endOffer c (fun w o => [w, some o]) .locked) := by
  have hlock : Keeps none s (s.modEntry c fun e => { e with locked := true }) := s.keeps_entry c _ id fun _ => id
  have hlocked (d : ChanId) : (s.modEntry c fun e => { e with locked := true }).entry d =
      if d = c then { s.entry c with locked := true } else s.entry d := s.entry_modEntry c d _
  unfold State.endOffer
  rw [hlocked, if_pos rfl]
  cases ho : (s.entry c).offer with
  | none =>
    refine hlock.deed (mapOk_of_entry hlocked (fun h => ⟨h.1, fun o hk => ?_, fun _ => hw⟩) fun _ _ => ⟨rfl, rfl⟩)
    rw [ho] at hk
    cases hk
  | some o =>
    have hclear := hlock.trans (State.keeps_entry _ c (fun e => { e with offer := none }) (fun h => ⟨h.1, nofun⟩) fun _ => id)
    have hcleared (d : ChanId) : ((s.modEntry c fun e => { e with locked := true }).modEntry c fun e =>
        { e with offer := none }).entry d = if d = c then { s.entry c with locked := true, offer := none } else s.entry d := by
      rw [State.entry_modEntry, hlocked, if_pos rfl, hlocked]
      split <;> rfl
    refine hclear.deed_queue ?_ _ _ fun hp d hd m hm => ?_
    · exact mapOk_of_entry hcleared (fun h => ⟨h.1, nofun, fun _ => hw⟩) fun _ _ => ⟨rfl, rfl⟩
    · cases hd
      rw [hcleared, if_pos rfl]
      simp only [mem_parties, List.mem_cons, Option.some.injEq, List.not_mem_nil, or_false] at hm
      rcases hm with hm | rfl
      · exact (hp c).1 m hm.symm
      · exact (hp c).2 o ho

theorem deed_ownLock (s : State) (m : Master) (ch : Byte) : Deed s (ownLock m ch s).1 := by
  refine s.deed_index _ _ fun c => s.deed_needWriter _ _ fun hw => .answer_ite (fun _ => .refl) fun _ => s.deed_lock c ?_
  rw [show (s.entry c).writer = some m by simpa [State.writes] using hw]
  nofun

/-! ### The other requests -/

/-- A change of the ports, the units, the inputs, the speed monitor and the clock. -/
theorem Deed.of_eq (hp : ∀ m, (t.port m).queue ⊆ (s.port m).queue) (hm : t.map = s.map) (hc : t.ch = s.ch)
    (hg : t.groups = s.groups) (ha : t.actions = s.actions) (hw : t.swu = s.swu) (hh : t.hmt = s.hmt)
    (hu : t.asu.period = s.asu.period) (hf : t.pfl = s.pfl) (hunits : t.units = s.units) : Deed s t :=
  (State.does_quiet (quiet_of_eq hp hm hc hg ha hw hh hu hf) fun u => by simp only [State.unit, hunits]).deed

theorem deed_ownGo (s : State) (m : Master) (g : Byte) : Deed s (ownGo m g s).1 :=
  s.deed_index _ _ fun g => s.deed_needWriter _ _ fun _ => .answer_ite (fun _ => .refl) fun hb =>
    .answer_ite (fun _ => .refl) fun _ => s.deed_startGo g (by simpa using hb)

theorem deed_ownSetNext (s : State) (m : Master) (u st : Byte) : Deed s (ownSetNext m u st s).1 :=
  s.deed_index _ _ fun u => s.deed_index _ _ fun st => s.deed_needWriter _ _ fun _ =>
    (s.does_note u (fun y => { y with next := st, protAltered := false }) rfl).deed

theorem deed_ownReleaseTrip (s : State) (m : Master) (g : Byte) : Deed s (ownReleaseTrip m g s).1 :=
  s.deed_index _ _ fun g => s.deed_needWriter _ _ fun _ => .answer_ite (fun _ => .refl) fun _ =>
    .answer_ite (fun _ => .refl) fun _ => s.deed_release g

theorem deed_ownAck (s : State) (m : Master) (g : Byte) : Deed s (ownAck m g s).1 :=
  s.deed_index _ _ fun g => s.deed_needWriter _ _ fun _ => (s.does_acknowledge g).deed

theorem State.does_setLab (s : State) (y : LabItem) (v : Nat) : Does x s (s.setLab y v) := by
  cases y with
  | silica => exact s.does_swu (fun w => { w with cSil := v }) ⟨rfl, rfl, rfl⟩
  | bubble i => exact s.does_swu (fun w => { w with pBub := w.pBub.set i v }) ⟨rfl, rfl, rfl⟩

theorem deed_ownSetLab (s : State) (m : Master) (i : Byte) (v : Word) : Deed s (ownSetLab m i v s).1 :=
  s.deed_index _ _ fun y => s.deed_needWriter _ _ fun _ => (s.does_setLab y _).deed

theorem deed_ownStatus (s : State) (m : Master) : Deed s (ownStatus m s).1 :=
  (s.does_port m (fun p => { p with lost := false }) (List.Subset.refl _)).deed

theorem deed_ownReadEvent (s : State) (m : Master) : Deed s (ownReadEvent m s).1 := by
  unfold ownReadEvent
  split
  case h_1 => exact .refl
  case h_2 e rest h => exact (s.does_port m (fun p => { p with queue := rest }) (h ▸ List.subset_cons_self e rest)).deed

theorem deed_ownPortReset (s : State) (m : Master) : Deed s (ownPortReset m s).1 := by
  have hoffers : Deed s (s.withdrawOffers m) := by
    refine .each _ _ (fun c _ q => .ite (fun _ => ?_) fun _ => .ite (fun _ => ?_) fun _ => .refl) s
    · exact q.deed_endOffer c _ (fun w o k hk => .inr (by simpa [eq_comm] using hk)) _
    · exact q.deed_endOffer c _ (fun w o k hk => .inl (by simpa [eq_comm] using hk)) _
  have hforces : Does none (s.withdrawOffers m) ((s.withdrawOffers m).dropForces m) :=
    .each _ _ _ fun c _ q _ => q.does_remove c .force (by simp) (by simp)
  exact (hoffers.trans hforces.deed).trans (State.does_port _ m Port.restart (List.nil_subset _)).deed

theorem State.deed_whenIdle (s : State) (k : Answer) (h : Deed s k.1) : Deed s (s.whenIdle k).1 := by
  unfold State.whenIdle
  split
  · exact .refl
  · exact h

/-- The parts of the profile block other than its stores change. -/
theorem State.does_pfl (s : State) (f : Pfl → Pfl) (hm : (f s.pfl).mirror = s.pfl.mirror) (he : (f s.pfl).eeprom = s.pfl.eeprom) :
    Does x s (s.modPfl f) := by
  refine (Micro.stores f fun hs => ?_).does (fun _ => rfl) (fun _ => rfl) rfl
  exact storesOk_of_eq hm he hs

theorem deed_ownProfileWrite (s : State) (o : Half) (d : List Byte) : Deed s (ownProfileWrite o d s).1 :=
  s.deed_index _ _ fun _ => s.deed_whenIdle _ (.answer_ite (fun _ => (s.does_pfl (fun p => { p with
    busy := some pageWriteTime, write := some ⟨_, d⟩ }) rfl rfl).deed) fun _ => .refl)

/-! ### The meter and the scaling watch -/

/-- The meter changes as its law allows. -/
theorem State.does_meter (s : State) (y : Hmt) (h : s.MeterOk → MeterRuns s { s with hmt := y }) :
    Does x s { s with hmt := y } := (Micro.meter y h).does (fun _ => rfl) (fun _ => rfl) rfl

def Hmt.Ok (h : Hmt) : Prop := h.kwh ≤ max32 ∧ h.residue < kwhUnits ∧ h.unmeteredS ≤ max32 ∧ h.unmeteredMs < 1000

/-- The counts do not fall. -/
def Hmt.Runs (h k : Hmt) : Prop :=
  k.Ok ∧ h.kwh ≤ k.kwh ∧ (k.kwh < max32 → h.kwh * kwhUnits + h.residue ≤ k.kwh * kwhUnits + k.residue)

theorem Hmt.Ok.integrate {h : Hmt} (hok : h.Ok) (e : Nat) : h.Runs (h.integrate e) := by
  obtain ⟨hkwh, _, hs, hms⟩ := hok
  have hdiv := Nat.div_add_mod (h.residue + e) kwhUnits
  have hmod := Nat.mod_lt (h.residue + e) (show 0 < kwhUnits by decide)
  simp only [Hmt.Runs, Hmt.Ok, Hmt.integrate]
  generalize (h.residue + e) / kwhUnits = q at hdiv ⊢
  have hk : kwhUnits = 36000000000000 := rfl
  have hmax : max32 = 4294967295 := rfl
  simp only [hk] at *
  refine ⟨⟨?_, ?_, hs, hms⟩, ?_, ?_⟩ <;> omega

theorem Hmt.Ok.addUnmetered {h : Hmt} (hok : h.Ok) {dt : Nat} (hdt : dt ≤ 1000) : h.Runs (h.addUnmetered dt) := by
  obtain ⟨hkwh, hresidue, hs, hms⟩ := hok
  unfold Hmt.addUnmetered
  dsimp only
  split
  · exact ⟨⟨hkwh, hresidue, Nat.min_le_left _ _, by dsimp only; omega⟩, le_rfl, fun _ => le_rfl⟩
  · exact ⟨⟨hkwh, hresidue, hs, by dsimp only; omega⟩, le_rfl, fun _ => le_rfl⟩

theorem Hmt.Ok.interval {h : Hmt} (hok : h.Ok) (w : Snapshot) {dt : Nat} (hdt : dt ≤ 1000) : h.Runs (h.interval w dt) := by
  have htimed : { h with lastTime := w.time }.Ok := hok
  unfold Hmt.interval
  dsimp only
  split_ifs
  · exact htimed.addUnmetered hdt
  · exact ⟨hok, le_rfl, fun _ => le_rfl⟩
  · exact htimed.integrate _

theorem State.does_meterScan (s : State) : Does x s s.meterScan := by
  refine s.does_meter _ fun ⟨hkwh, hresidue, hs, hms, hperiod⟩ => ?_
  obtain ⟨⟨hkwh', hresidue', hs', hms'⟩, hruns⟩ := Hmt.Ok.interval ⟨hkwh, hresidue, hs, hms⟩ s.snap hperiod
  exact ⟨⟨hkwh', hresidue', hs', hms', hperiod⟩, hruns.1, hruns.2⟩

theorem State.deed_modSwu (s : State) (f : Swu → Swu)
    (h : (f s.swu).params = s.swu.params ∧ (f s.swu).silGuard = s.swu.silGuard ∧ (f s.swu).calGuards = s.swu.calGuards) :
    Deed s (s.modSwu f) := (s.does_swu f h).deed

theorem State.deed_stepFouling (s : State) : Deed s s.stepFouling :=
  .ite (fun _ => .refl) fun _ => (s.deed_modSwu _ ⟨rfl, rfl, rfl⟩).trans (State.deed_handOver _ _ _ _)

theorem State.deed_evalExchanger (s : State) : Deed s s.evalExchanger :=
  .ite (fun _ => (s.deed_modSwu _ ⟨rfl, rfl, rfl⟩).trans (.ite (fun _ => State.deed_stepFouling _) fun _ => .refl))
    fun _ => s.deed_modSwu _ ⟨rfl, rfl, rfl⟩

theorem State.deed_stepMargin (s : State) : Deed s s.stepMargin :=
  .ite (fun _ => .refl) fun _ => (s.deed_modSwu _ ⟨rfl, rfl, rfl⟩).trans (State.deed_handOver _ _ _ _)

theorem State.deed_stepTrip (s : State) : Deed s s.stepTrip :=
  .ite (fun _ => s.deed_modSwu _ ⟨rfl, rfl, rfl⟩) fun _ =>
    (s.deed_modSwu _ ⟨rfl, rfl, rfl⟩).trans (State.deed_handOver _ _ _ _)

theorem State.deed_evalSilica (s : State) : Deed s s.evalSilica := by
  have hsil (f : Silica → Silica) : Deed s (s.modSil f) := s.deed_modSwu _ ⟨rfl, rfl, rfl⟩
  unfold State.evalSilica
  dsimp only
  refine .ite (fun _ => ?_) fun _ => ?_
  · generalize hstored : (s.modSil fun x => { x with
      outcome := .evaluated, tLim := limitOf s.swu.params.table s.swu.cSil
      sm := s.snap.ai[aiBrineOut].value - limitOf s.swu.params.table s.swu.cSil }) = q
    have hq : Deed s q := hstored ▸ hsil _
    exact ((hq.trans q.deed_stepMargin).trans (State.deed_stepTrip _)).trans
      (.ite (fun _ => (State.does_runGuard _ _ _).deed) fun _ => .refl)
  · exact (hsil _).trans (.ite (fun _ => (State.does_holdGuard _ _).deed) fun _ => .refl)

theorem State.deed_stepCalcite (s : State) (i : Fin 8) : Deed s (s.stepCalcite i) :=
  .ite (fun _ => .refl) fun _ => (s.deed_modSwu _ ⟨rfl, rfl, rfl⟩).trans (State.deed_handOver _ _ _ _)

theorem State.deed_evalCalcite (s : State) (i : Fin 8) : Deed s (s.evalCalcite i) := by
  have hcal (f : Calcite → Calcite) : Deed s (s.modCal i f) := s.deed_modSwu _ ⟨rfl, rfl, rfl⟩
  unfold State.evalCalcite
  dsimp only
  split_ifs
  · exact ((hcal _).trans (State.deed_stepCalcite _ i)).trans (State.does_runGuard _ _ _).deed
  · exact (hcal _).trans (State.does_holdGuard _ _).deed
  · exact hcal _

theorem State.deed_evaluate (s : State) : Deed s s.evaluate :=
  (((s.deed_modSwu (fun w => { w with counter := 0, lastTime := s.snap.time }) ⟨rfl, rfl, rfl⟩).trans
    (State.deed_evalExchanger _)).trans (State.deed_evalSilica _)).trans (.each wells _ (fun i _ q => q.deed_evalCalcite i) _)

theorem State.deed_countScan (s : State) : Deed s s.countScan :=
  .ite (fun _ => s.deed_evaluate) fun _ => s.deed_modSwu _ ⟨rfl, rfl, rfl⟩

/-! ### Inputs -/

theorem State.deed_convert (s : State) (n : Fin 16) (code : Nat) : Deed s (s.convert n code) := by
  have hanalog : Deed s (s.modAnalog n fun a => a.convert code) :=
    .of_eq (fun _ => List.Subset.refl _) rfl rfl rfl rfl rfl rfl rfl rfl rfl
  exact hanalog.trans (.ite (fun _ => State.deed_handOver _ _ _ _) fun _ =>
    .ite (fun _ => State.deed_handOver _ _ _ _) fun _ => .refl)

theorem State.deed_limitCheck (s : State) (n : Fin 16) (k : Fin 2) : Deed s (s.limitCheck n k) := by
  unfold State.limitCheck
  dsimp only
  refine .ite (fun _ => Deed.trans ?_ (State.deed_handOver _ _ _ _)) fun _ => .refl
  exact .of_eq (fun _ => List.Subset.refl _) rfl rfl rfl rfl rfl rfl rfl rfl rfl

theorem State.deed_completeScan (s : State) : Deed s s.completeScan := by
  have hsnap : Deed s s.takeSnapshot := .of_eq (fun _ => List.Subset.refl _) rfl rfl rfl rfl rfl rfl rfl rfl rfl
  have hchecks : Deed s.takeSnapshot s.takeSnapshot.limitChecks :=
    .each analogs _ (fun n _ q => (q.deed_limitCheck n 0).trans (State.deed_limitCheck _ n 1)) _
  exact ((hsnap.trans hchecks).trans (State.does_meterScan _).deed).trans (State.deed_countScan _)

theorem State.deed_nextEntry (s : State) (p : Nat) : Deed s (s.nextEntry p) := by
  have hasu (pos : Option Nat) : Deed s { s with asu := { s.asu with pos := pos } } :=
    .of_eq (fun _ => List.Subset.refl _) rfl rfl rfl rfl rfl rfl rfl rfl rfl
  exact .ite (fun _ => hasu _) fun _ => (hasu none).trans (State.deed_completeScan _)

theorem State.deed_comparePeriod (s : State) (p : Nat) : Deed s (s.comparePeriod p) := by
  unfold State.comparePeriod
  dsimp only
  exact .ite (fun _ => (s.does_tsm _).deed) fun _ => (s.does_tsm _).deed.trans (State.deed_handOver _ _ _ _)

theorem State.deed_speedPeriod (s : State) (p : Nat) : Deed s (s.speedPeriod p) :=
  ((s.does_tsm _).trans (State.does_regainSpeed _)).deed.trans (State.deed_comparePeriod _ p)

theorem State.does_stopOverspeed (s : State) : Does x s s.stopOverspeed := by
  unfold State.stopOverspeed
  dsimp only
  exact .ite (fun _ => (s.does_tsm _).trans (State.does_deactivate _ _ _)) fun _ => s.does_tsm _

theorem State.does_speedLoss (s : State) : Does x s s.speedLoss :=
  ((s.does_tsm (fun t => { t with speed := 0, quality := .noSignal })).trans (State.does_stopOverspeed _)).trans
    (.ite (fun _ => State.does_loseSpeed _) fun _ => .refl)

theorem State.does_testPulse (s : State) (j : PulseId) : Does x s (s.testPulse j) := by
  unfold State.testPulse
  split
  · exact s.does_test _
  · exact .refl

theorem State.deed_latchPulse (s : State) (j : PulseId) : Deed s (s.latchPulse j) := by
  have hlatch : Deed s { s.modPulse j (fun p => p.latch ((s.pulse j).period s.draws)) with draws := s.draws + 1 } :=
    .of_eq (fun _ => List.Subset.refl _) rfl rfl rfl rfl rfl rfl rfl rfl rfl
  exact (hlatch.trans (.ite (fun _ => State.deed_speedPeriod _ _) fun _ => .refl)).trans (State.does_testPulse _ j).deed

theorem State.deed_losePulse (s : State) (j : PulseId) : Deed s (s.losePulse j) := by
  have hlose : Deed s (s.modPulse j Pulse.lose) := .of_eq (fun _ => List.Subset.refl _) rfl rfl rfl rfl rfl rfl rfl rfl rfl
  exact (hlose.trans (.ite (fun _ => (State.does_speedLoss _).deed) fun _ => .refl)).trans (State.does_testPulse _ j).deed

theorem State.deed_sampleDiscretes (s : State) (l : BitVec 12) : Deed s (s.sampleDiscretes l) := by
  have hsample : Deed s { s with di := vec12 fun d => (s.di[d]).sample (l.getLsbD d.val), draws := s.draws + 1 } :=
    .of_eq (fun _ => List.Subset.refl _) rfl rfl rfl rfl rfl rfl rfl rfl rfl
  exact hsample.trans (.each _ _ (fun y _ q => q.deed_handOver _ _ _) _)

/-! ### Arrivals of the clock -/

/-- A channel of which nothing changes that a law reads. -/
theorem State.deed_modChan (s : State) (c : ChanId) (f : Channel → Channel)
    (h : (f (s.chan c)).params = (s.chan c).params ∧ (f (s.chan c)).base = (s.chan c).base ∧
      (f (s.chan c)).stack = (s.chan c).stack ∧ (f (s.chan c)).target = (s.chan c).target ∧
      (f (s.chan c)).applied = (s.chan c).applied) : Deed s (s.modChan c f) := by
  obtain ⟨hparams, hbase, hstack, htarget, happlied⟩ := h
  refine (s.does_value c f ⟨hparams, hbase, hstack⟩ fun hs => ?_).deed
  rw [htarget, happlied]
  exact ⟨(hs.chan c).2.2.2.1, (hs.chan c).2.2.2.2.1⟩

theorem State.deed_dropOffersTo (s : State) (m : Master) : Deed s (s.dropOffersTo m) :=
  .each _ _ (fun c _ q => .ite
    (fun _ => q.deed_endOffer c _ (fun w o k hk => .inl (by simpa [eq_comm] using hk)) _) fun _ => .refl) s

theorem State.deed_silenceMap (s : State) (m : Master) : Deed s (s.silenceMap m) := by
  have hlinks (q : State) : Deed q (q.each (q.written m) fun c q => q.push c ⟨.link, .value, (q.chan c).params.fallback, q.ms⟩) :=
    (Does.each _ _ q fun c _ q _ => q.does_push c _ (by simp) (by simp) fun hs => (hs.chan c).2.1).deed
  have hcauses (q : State) : Deed q (q.each (q.writtenGroups m) fun g q => q.arriveAlarm g (.linkSilent m)) :=
    (Does.each _ _ q fun g _ q _ => q.does_arriveAlarm g _).deed
  exact ((s.deed_dropOffersTo m).trans (hlinks _)).trans (hcauses _)

theorem State.deed_fallSilent (s : State) (m : Master) : Deed s (s.fallSilent m) := by
  have hport := s.does_port (x := none) m (fun p => { p with silent := true, timer := none, silentSince := s.ms }) (List.Subset.refl _)
  have htold := hport.trans (State.does_queue _ (fun k => decide (k ≠ m)) (.portSilent m (s.port m).timeout)
    fun _ => State.addresses_none rfl)
  exact htold.deed.trans (State.deed_silenceMap _ m)

theorem State.deed_pageWriteEnd (s : State) : Deed s (s.modPfl Pfl.endWrite) := by
  refine ((Micro.stores Pfl.endWrite fun ⟨hmirror, heeprom⟩ => ?_).does (fun _ => rfl) (fun _ => rfl) rfl).deed
  simp only [State.StoresOk, State.modPfl, Pfl.endWrite, Pfl.commit]
  cases s.pfl.write with
  | none => exact ⟨hmirror, heeprom⟩
  | some w => exact ⟨Memory.wf_writeBytes _ hmirror _, Memory.wf_writeBytes _ heeprom _⟩

end Sys2Proof.Machine
end

section
/-! Every step but one that takes a reset or a load is a deed. -/

namespace Sys2Proof.Machine

variable {s t r : State}

/-- An arrival that acts where a condition of its own holds. -/
theorem Deed.next_ite {p : Prop} [Decidable p] {a : State} (h : p → Deed s a)
    (ht : (Host.Outcome.next (if p then a else s) : Out) = .next t) : Deed s t := by
  cases ht
  exact .ite h fun _ => .refl

theorem deed_execConversionEnd (s : State) (code : BitVec 12) (h : execConversionEnd code s = .next t) : Deed s t := by
  cases h
  split
  · exact .refl
  · split
    · exact .refl
    · exact (s.deed_convert _ _).trans (State.deed_nextEntry _ _)

theorem deed_execPulseActiveEdge (s : State) (j : PulseId) (h : execPulseActiveEdge j s = .next t) : Deed s t := by
  cases h
  refine .ite (fun _ => .refl) fun _ => .ite (fun _ => s.deed_latchPulse j) fun _ => ?_
  exact .of_eq (fun _ => List.Subset.refl _) rfl rfl rfl rfl rfl rfl rfl rfl rfl

theorem Channel.endHigh_kept (y : Channel) : y.endHigh.params = y.params ∧ y.endHigh.base = y.base ∧ y.endHigh.stack = y.stack ∧
    y.endHigh.target = y.target ∧ y.endHigh.applied = y.applied := by
  unfold Channel.endHigh
  split <;> simp

theorem Channel.boundary_kept (y : Channel) : y.boundary.params = y.params ∧ y.boundary.base = y.base ∧
    y.boundary.stack = y.stack ∧ y.boundary.target = y.target ∧ y.boundary.applied = y.applied := by
  unfold Channel.boundary
  split <;> simp

theorem Channel.endDelay_kept (y : Channel) : y.endDelay.params = y.params ∧ y.endDelay.base = y.base ∧
    y.endDelay.stack = y.stack ∧ y.endDelay.target = y.target ∧ y.endDelay.applied = y.applied := by
  unfold Channel.endDelay Channel.startPulse
  split <;> simp

theorem Channel.endPulse_kept (y : Channel) : y.endPulse.params = y.params ∧ y.endPulse.base = y.base ∧
    y.endPulse.stack = y.stack ∧ y.endPulse.target = y.target ∧ y.endPulse.applied = y.applied := by
  unfold Channel.endPulse
  split <;> simp

theorem deed_badFrame (s : State) (m : Master) (b : List Byte) : Deed s (s.badFrame m b) :=
  .ite (fun _ => ((s.does_takeFrame (x := none) m).trans (State.does_respond _ _ _ _ _)).deed) fun _ =>
    s.deed_takeRequest m _ _ fun _ => .refl

theorem deed_execFetch (s : State) (m : Master) (n : Nat) (h : execFetch m n s = .next t) : Deed s t := by
  cases h
  refine .ite (fun _ => .refl) fun _ => (s.does_port m _ ?_).deed
  rw [Port.fetch_queue]
  exact List.Subset.refl _

theorem deed_execRequestTransactionEnd (s : State) (m : Master) (b : List Byte)
    (h : execRequestTransactionEnd m b s = .next t) : Deed s t := by
  cases h
  refine (s.does_port m _ ?_).deed
  rw [Port.transact_queue]
  exact List.Subset.refl _

theorem deed_ownReadMeter (s : State) : Deed s (ownReadMeter s).1 :=
  (s.does_meter (x := none) { s.hmt with reverse := false } fun h => ⟨h, le_rfl, fun _ => le_rfl⟩).deed

theorem State.deed_rampTick (s : State) :
    Deed s ((s.each channels fun c q => q.rampChannel c).each allUnits fun u q => q.testUnit u) := by
  have hramps : Does none s (s.each channels fun c q => q.rampChannel c) :=
    .each channels _ s fun c _ q _ => q.does_rampChannel c
  exact (hramps.trans (.each allUnits _ _ fun u _ q _ => q.does_test u)).deed

theorem State.deed_startScan (s : State) : Deed s s.startScan :=
  .of_eq (fun _ => List.Subset.refl _) rfl rfl rfl rfl rfl rfl rfl rfl rfl

theorem State.deed_beginStartUp (s : State) : Deed s { s with run := .startUp, ms := 0, tick := 0 } :=
  .of_eq (fun _ => List.Subset.refl _) rfl rfl rfl rfl rfl rfl rfl rfl rfl

/-- Every command but a reset and a load is a deed. -/
theorem exec_deed (i : Instr) (hi : ¬begins i) (h : exec i s = .next t) : Deed s t := by
  cases i <;> simp only [exec] at h
  case powerOnReset => simp [begins] at hi
  case warmReset => simp [begins] at hi
  case profileLoadComplete => simp [begins] at hi
  case badFrame => cases h; exact deed_badFrame s _ _
  case unknownRequest => cases h; exact s.deed_takeRequest _ _ _ fun _ => .refl
  case status => cases h; exact s.deed_takeRequest _ _ _ fun e => deed_ownStatus e _
  case portReset => cases h; exact s.deed_takeRequest _ _ _ fun e => deed_ownPortReset e _
  case readEvent => cases h; exact s.deed_takeRequest _ _ _ fun e => deed_ownReadEvent e _
  case setPoint => cases h; exact s.deed_takeRequest _ _ _ fun e => deed_ownSetPoint e _ _ _
  case force => cases h; exact s.deed_takeRequest _ _ _ fun e => deed_ownForce e _ _ _ _
  case unforce => cases h; exact s.deed_takeRequest _ _ _ fun e => deed_ownUnforce e _ _
  case readChannel =>
    cases h
    exact s.deed_takeRequest _ _ _ fun e => e.deed_index _ _ fun c => e.deed_needReader _ _ _ .refl
  case readInput => cases h; exact s.deed_takeRequest _ _ _ fun e => e.deed_index _ _ fun c => .refl
  case claim => cases h; exact s.deed_takeRequest _ _ _ fun e => deed_ownClaim e _ _
  case releaseCh => cases h; exact s.deed_takeRequest _ _ _ fun e => deed_ownReleaseCh e _ _
  case offer => cases h; exact s.deed_takeRequest _ _ _ fun e => deed_ownOffer e _ _ _
  case accept => cases h; exact s.deed_takeRequest _ _ _ fun e => deed_ownAccept e _ _
  case lock => cases h; exact s.deed_takeRequest _ _ _ fun e => deed_ownLock e _ _
  case readMap =>
    cases h
    exact s.deed_takeRequest _ _ _ fun e => e.deed_index _ _ fun c => e.deed_needReader _ _ _ .refl
  case setNext => cases h; exact s.deed_takeRequest _ _ _ fun e => deed_ownSetNext e _ _ _
  case go => cases h; exact s.deed_takeRequest _ _ _ fun e => deed_ownGo e _ _
  case readUnit =>
    cases h
    exact s.deed_takeRequest _ _ _ fun e => e.deed_index _ _ fun c => e.deed_needReader _ _ _ .refl
  case releaseTrip => cases h; exact s.deed_takeRequest _ _ _ fun e => deed_ownReleaseTrip e _ _
  case ack => cases h; exact s.deed_takeRequest _ _ _ fun e => deed_ownAck e _ _
  case readLog => cases h; exact s.deed_takeRequest _ _ _ fun e => e.deed_index _ _ fun c => .refl
  case setLab => cases h; exact s.deed_takeRequest _ _ _ fun e => deed_ownSetLab e _ _ _
  case readScale => cases h; exact s.deed_takeRequest _ _ _ fun e => e.deed_index _ _ fun c => .refl
  case readMeter => cases h; exact s.deed_takeRequest _ _ _ fun e => deed_ownReadMeter e
  case profileRead =>
    cases h
    exact s.deed_takeRequest _ _ _ fun e => e.deed_index _ _ fun _ => e.deed_whenIdle _ .refl
  case profileWrite => cases h; exact s.deed_takeRequest _ _ _ fun e => deed_ownProfileWrite e _ _
  case profileCheck => cases h; exact s.deed_takeRequest _ _ _ fun e => e.deed_whenIdle _ .refl
  case silenceTimerExpiry => exact .next_ite (fun _ => s.deed_fallSilent _) h
  case offerExpiry => cases h; exact s.deed_endOffer _ _ (fun w o m hm => by simpa [eq_comm] using hm) _
  case rampTick => exact Host.Outcome.next.inj h ▸ s.deed_rampTick
  case diSample => exact .next_ite (fun _ => s.deed_sampleDiscretes _) h
  case scanStart => exact .next_ite (fun _ => s.deed_startScan) h
  case conversionEnd => exact deed_execConversionEnd s _ h
  case pulseActiveEdge => exact deed_execPulseActiveEdge s _ h
  case signalTimeout => exact .next_ite (fun _ => s.deed_losePulse _) h
  case periodCounterOverflow => exact .next_ite (fun _ => s.deed_losePulse _) h
  case highPhaseEnd => cases h; exact s.deed_modChan _ _ (Channel.endHigh_kept _)
  case periodBoundary => cases h; exact s.deed_modChan _ _ (Channel.boundary_kept _)
  case oneshotDelayExpiry => cases h; exact s.deed_modChan _ _ (Channel.endDelay_kept _)
  case oneshotPulseExpiry => cases h; exact s.deed_modChan _ _ (Channel.endPulse_kept _)
  case drainTimerExpiry => exact .next_ite (fun _ => (s.does_drainExpired _).deed) h
  case pageWriteEnd => exact .next_ite (fun _ => s.deed_pageWriteEnd) h
  case startUpBegin => cases h; exact .ite (fun _ => s.deed_beginStartUp) fun _ => .refl
  case fetch => exact deed_execFetch s _ _ h
  case requestTransactionEnd => exact deed_execRequestTransactionEnd s _ _ h

/-! ### Steps -/

/-- A channel of which a tick changes nothing that a law reads. -/
theorem State.tickCounters_quiet (s : State) : Quiet s { s with
    tick := s.tick + 1, ch := vec16 fun c => s.ch[c].clock, pi := vec12 fun j => s.pi[j].clock } where
  queue _ := List.Subset.refl _
  map := rfl
  chan c := by
    obtain ⟨hparams, hbase, hstack, htarget, happlied, _⟩ := (s.ch[c]).clock_spec
    simp only [State.chan, vec16_get]
    exact ⟨hparams, hbase, hstack, htarget, happlied⟩
  groups := rfl
  actions := rfl
  guard k := State.guard_of_swu rfl k
  guardParams k := by cases k <;> rfl
  hmt := rfl
  period := rfl
  mirror := rfl
  eeprom := rfl

theorem State.millisecond_quiet (s : State) : Quiet s s.millisecond where
  queue m := by simp [State.millisecond, State.port]
  map := rfl
  chan c := by simp [State.millisecond, State.chan]
  groups := rfl
  actions := rfl
  guard k := State.guard_of_swu rfl k
  guardParams k := by cases k <;> rfl
  hmt := rfl
  period := rfl
  mirror := rfl
  eeprom := rfl

theorem State.deed_tickCounters (s : State) : Deed s { s with
    tick := s.tick + 1, ch := vec16 fun c => s.ch[c].clock, pi := vec12 fun j => s.pi[j].clock } :=
  (State.does_quiet s.tickCounters_quiet fun _ => rfl).deed

theorem State.deed_millisecond (s : State) : Deed s s.millisecond :=
  (State.does_quiet s.millisecond_quiet fun u => by simp [State.millisecond, State.unit]).deed

theorem State.deed_clock (s : State) : Deed s s.clock := by
  unfold State.clock
  exact .ite (fun _ => s.deed_tickCounters.trans (State.deed_millisecond _)) fun _ => s.deed_tickCounters

/-- The arrivals that a tick makes due. -/
theorem State.deed_fireAll (h : s.fireAll = .next t) : Deed s t := by
  have hdraws : Deed s { s with draws := s.draws + 1 } :=
    .of_eq (fun _ => List.Subset.refl _) rfl rfl rfl rfl rfl rfl rfl rfl rfl
  have hlist (l : List Instr) (q r : State) (h : l.foldl fireDue (.next q) = .next r) : Deed q r := by
    induction l generalizing q with
    | nil => cases h; exact .refl
    | cons i l ih =>
      rw [List.foldl_cons] at h
      unfold fireDue at h
      dsimp only at h
      split at h
      case isTrue hdue =>
        obtain ⟨k, hk⟩ := exec_next q i
        rw [hk] at h
        exact (exec_deed i (due_plain q hdue) hk).trans (ih k h)
      case isFalse => exact ih q h
  exact hdraws.trans (hlist _ _ _ h)

/-- A step is a deed, but for a reset or a load at the front of the queue. -/
theorem step_deed (h : step s = .next t) :
    Deed s t ∨ ∃ i rest, s.pending = i :: rest ∧ begins i ∧ exec i { s with pending := rest } = .next t := by
  unfold step at h
  split at h
  case h_1 i rest hpending =>
    by_cases hi : begins i
    · exact .inr ⟨i, rest, hpending, hi, h⟩
    · have hrest : Deed s { s with pending := rest } :=
        .of_eq (fun _ => List.Subset.refl _) rfl rfl rfl rfl rfl rfl rfl rfl rfl
      exact .inl (hrest.trans (exec_deed i hi h))
  case h_2 =>
    left
    unfold State.idle at h
    split at h
    · unfold State.runTick at h
      split at h
      · cases h; exact .refl
      · exact s.deed_clock.trans (State.deed_fireAll h)
    · exact exec_deed _ (decodeFrame_plain _ _) h

end Sys2Proof.Machine
end

section
/-! The laws of values, guards, stores, the meter, levels, busy flags, the map and the queues over a step: what a reset and a load
begin with, and the deeds of every other command. -/

namespace Sys2Proof.Machine

variable {s t r : State}

/-! ### Start-up after set-up (R107, R180, R181) -/

/-- An arrival recorded in a group in TRIP, whose level no law then reads. -/
theorem State.does_recordTripped (s : State) (g : Group) (c : Cause) (hl : (s.group g).level = .trip) :
    Does none s (s.record g c .trip) where
  micros := s.recordWith_micros g c .trip false _ (GroupRec.arrive_spec ..).1 (GroupRec.arrive_spec ..).2.1
  levels h hs := by
    rw [State.record, State.recordWith_group]
    split
    case isTrue heq =>
      intro hne
      rw [(GroupRec.arrive_spec ..).2.1, hl] at hne
      exact absurd rfl hne
    case isFalse => exact hs
  busy h _ hs := s.recordWith_matches g c .trip false _ (GroupRec.arrive_spec ..).2.2.1 h hs
  idle h hs := (s.recordWith_busy g c .trip false _ (GroupRec.arrive_spec ..).2.2.1 h).trans hs
  rests u _ hs := by rwa [State.record, State.recordWith_unit]
  map := s.recordWith_map g c .trip false _

theorem State.does_badProfile (s : State) (hl : ∀ g, (s.group g).level = .trip) : Does none s s.badProfile := by
  refine .ite (fun _ => .refl) fun _ => ?_
  refine (State.each_induct (P := fun q => Does none s q ∧ ∀ g, (q.group g).level = .trip) allGroups
    (fun g q => q.record g .profileBad .trip) (fun g _ q hq => ⟨hq.1.trans (q.does_recordTripped g _ (hq.2 g)), fun h => ?_⟩) s
    ⟨.refl, hl⟩).1
  exact ((q.record_raws g .profileBad .trip).same.level h).mpr (hq.2 h)

theorem State.deed_startUpTrips (s : State) : Deed s s.startUpTrips := by
  have heach : Does none s (s.each allGroups fun g q => (q.pushTripList g).forceGroup g) :=
    .each _ _ s fun g _ q _ => (q.does_pushTripList g).trans (State.does_forceGroup _ g)
  exact (heach.deed.trans (State.deed_propagateField _)).trans
    ((State.does_propagateAlarm _ .turbine).trans (State.does_propagateAlarm _ .heat)).deed

theorem State.deed_emptyQueues (s : State) : Deed s s.emptyQueues :=
  .of_eq (fun m => by simp [State.emptyQueues, State.port]) rfl rfl rfl rfl rfl rfl rfl rfl rfl

theorem State.deed_startTimers (s : State) : Deed s s.startTimers :=
  s.deed_startScan.trans (Does.each masters _ _ fun m _ q _ => q.does_port m Port.reload (List.Subset.refl _)).deed

theorem State.deed_leaveStartUp (s : State) : Deed s s.leaveStartUp :=
  (s.does_queueAll (x := none) (.profileDone s.pfl.state s.pfl.failing) rfl).deed.trans
    (.of_eq (fun _ => List.Subset.refl _) rfl rfl rfl rfl rfl rfl rfl rfl rfl)

theorem State.setUp_group (s : State) (p : Profile) (g : Group) :
    (s.setUp p).group g = GroupRec.setUp p.tripLists[groupIdx g] s.ms := by simp [State.setUp, State.group]

theorem State.deed_afterSetUp (s : State) (p : Profile) :
    Deed (s.setUp p) (((s.setUp p).badProfile.startUpTrips.emptyQueues.startTimers).leaveStartUp) :=
  (((((s.setUp p).does_badProfile fun g => by rw [State.setUp_group]; rfl).deed.trans (State.deed_startUpTrips _)).trans
    (State.deed_emptyQueues _)).trans (State.deed_startTimers _)).trans (State.deed_leaveStartUp _)

/-! ### Steps -/

/-- What a reset or a load makes of a state: a deed, or a beginning, which a load follows by deeds. -/
theorem exec_begins {i : Instr} (hi : begins i) (h : exec i s = .next t) :
    Deed s t ∨ (i = .powerOnReset ∧ t = s.powerOn) ∨ (i = .warmReset ∧ t = s.warm) ∨
      ∃ a, i = .profileLoadComplete a ∧ s.run = .startUp ∧
        Deed ((s.modPfl fun p => p.load a).setUp (s.pfl.load a).parameters) t := by
  rcases hi with rfl | rfl | ⟨a, rfl⟩
  · cases h
    exact .inr (.inl ⟨rfl, rfl⟩)
  · cases h
    exact .inr (.inr (.inl ⟨rfl, rfl⟩))
  · simp only [exec, execProfileLoadComplete] at h
    cases h
    split
    case isTrue hrun => exact .inr (.inr (.inr ⟨a, rfl, hrun, State.deed_afterSetUp _ _⟩))
    case isFalse => exact .inl .refl

theorem State.deed_pending (s : State) (l : List Instr) : Deed s { s with pending := l } :=
  .of_eq (fun _ => List.Subset.refl _) rfl rfl rfl rfl rfl rfl rfl rfl rfl

/-- A step is a deed, or a beginning and then deeds. -/
theorem step_deeds (h : step s = .next t) :
    Deed s t ∨ ∃ rest r, Fresh { s with pending := rest } r ∧ Deed r t := by
  rcases step_deed h with h | ⟨i, rest, hpending, hi, h⟩
  · exact .inl h
  · rcases exec_begins hi h with h | ⟨_, rfl⟩ | ⟨_, rfl⟩ | ⟨a, _, _, h⟩
    · exact .inl ((s.deed_pending rest).trans h)
    · exact .inr ⟨rest, _, .powerOn, .refl⟩
    · exact .inr ⟨rest, _, .warm, .refl⟩
    · exact .inr ⟨rest, _, .setUp a, h⟩

/-- A property that every deed keeps, and that a beginning carries over, is kept by every step. -/
theorem step_keep_deeds {P : State → Prop} (hP : ∀ s t, Deed s t → P s → P t) (hF : ∀ s r, Fresh s r → P s → P r)
    (h : step s = .next t) (hs : P s) : P t := by
  rcases step_deeds h with h | ⟨rest, r, hr, h⟩
  · exact hP s t h hs
  · exact hP r t h (hF _ r hr (hP s _ (s.deed_pending rest) hs))

/-! ### Beginnings -/

theorem Channel.setUp_fits {p : ChanParams} (hs : p.safe ≤ 1000) (hf : p.fallback ≤ 1000) : (Channel.setUp p).Fits := by
  have hspec := Channel.retarget_spec { Channel.init p with base := p.safe } true p.safe
  have happlied := Channel.retarget_applied { Channel.init p with base := p.safe } true p.safe
  obtain ⟨hparams, hbase, hstack, htarget⟩ := hspec
  unfold Channel.Fits Channel.setUp
  rw [hparams, hbase, hstack, htarget]
  refine ⟨hs, hf, hs, hs, ?_, by simp [Channel.init]⟩
  rcases happlied with h | h
  · exact h.le.trans hs
  · exact h.le.trans (Nat.zero_le _)

theorem Channel.setUp_stack (p : ChanParams) : (Channel.setUp p).stack = [] :=
  (Channel.retarget_spec { Channel.init p with base := p.safe } true p.safe).2.2.1

/-- The laws that a beginning starts with. -/
structure State.Begun (s : State) : Prop where
  map : s.MapOk
  levels : s.LevelsFollow
  busy : s.BusyOk
  values : s.ValuesFit
  guards : s.GuardsMatch
  ceilings : s.CeilingsOk
  tripLists : s.TripListsOk

section
variable {q : State} (p : Profile)

@[simp] theorem State.setUp_chan (c : ChanId) : (q.setUp p).chan c = Channel.setUp p.chans[c] := by simp [State.setUp, State.chan]
@[simp] theorem State.setUp_entry (c : ChanId) : (q.setUp p).entry c = MapEntry.init p.writers[c] p.readers[c] := by
  simp [State.setUp, State.entry]
@[simp] theorem State.setUp_unit (u : UnitId) : (q.setUp p).unit u = UnitRec.init p.units[u] := by simp [State.setUp, State.unit]
@[simp] theorem State.setUp_guard (k : GuardId) : (q.setUp p).guard k = Guard.init := by
  cases k <;> simp [State.setUp, State.guard, Swu.init]

theorem State.setUp_begun (hp : p.Fits) : (q.setUp p).Begun where
  map c := by
    rw [State.setUp_entry]
    exact ⟨hp.writer c, nofun, nofun⟩
  levels g hg := by
    rw [State.setUp_group] at hg
    exact absurd rfl hg
  busy g := by
    rw [State.setUp_group]
    simp [GroupRec.setUp, GroupRec.init, UnitRec.init]
  values := by
    refine ⟨fun c => ?_, fun g => ?_, hp.action, fun k => ⟨?_, ?_⟩⟩
    · rw [State.setUp_chan]
      exact Channel.setUp_fits (hp.safe c) (hp.fallback c)
    · rw [State.setUp_group]
      exact hp.tripValue g
    · cases k with
      | silica => exact hp.silGuard.1.trans (by decide)
      | calcite i => exact (hp.calGuard i).1.trans (by decide)
    · rw [State.setUp_guard]
      nofun
  guards c := by
    rw [State.setUp_chan, Channel.setUp_stack]
    simp [hasSource, Guard.init]
  ceilings k := by
    rw [State.setUp_guard, State.setUp_chan, Channel.setUp_stack]
    refine ⟨?_, ?_, fun _ => rfl, by simp⟩
    · cases k with
      | silica => exact hp.silGuard.1
      | calcite i => exact (hp.calGuard i).1
    · cases k with
      | silica => exact hp.silGuard.2
      | calcite i => exact (hp.calGuard i).2
  tripLists g := by
    rw [State.setUp_group]
    exact hp.tripList g

end

theorem Fresh.begun (h : Fresh s t) : t.Begun := by
  obtain ⟨_, _, _, hmap, _, hlevels, _, _, _, hbusy, hguards, hceilings, _, hvalues, _, hlists⟩ := resetMeetsLaws
  cases h with
  | powerOn | warm => exact ⟨hmap, hlevels, hbusy, hvalues, hguards, hceilings, hlists⟩
  | setUp a => exact State.setUp_begun _ (s.pfl.parameters_fits a)

theorem Fresh.stacksOk (h : Fresh s t) : t.StacksOk := fun c => (h.stack c).symm ▸ stackOk_nil

theorem Fresh.storesOk (h : Fresh s t) (hs : s.StoresOk) : t.StoresOk := by
  obtain ⟨hmirror, heeprom⟩ := hs
  cases h with
  | powerOn =>
    refine ⟨rfl, ?_⟩
    change (s.pfl.cut s.draws).wf = true
    unfold Pfl.cut
    split
    · exact heeprom
    · exact wf_reachedBytes _ _ heeprom _
  | warm => exact ⟨hmirror, heeprom⟩
  | setUp a =>
    have hread : (s.pfl.read a).wf = true := by
      cases a with
      | some l => exact Memory.wf_ofBytes _ _
      | none =>
        simp only [Pfl.read, Pfl.commit]
        split
        · exact heeprom
        · exact Memory.wf_writeBytes _ heeprom _
    exact ⟨hread, hread⟩

/-! ### The laws -/

/-- Settles O18, by the smallest moves of every command. -/
theorem stepKeepsValues : Obligations.StepKeepsValues := fun _ _ hs hstep =>
  step_keep_deeds (P := State.ValuesFit) (fun _ _ h hq => h.micros.keep (fun _ _ h hq => h.valuesFit hq) hq)
    (fun _ _ h _ => h.begun.values) hstep hs

/-- Settles O17. -/
theorem stepKeepsStores : Obligations.StepKeepsStores := fun _ _ hs hstep =>
  step_keep_deeds (P := State.StoresOk) (fun _ _ h hq => h.micros.keep (fun _ _ h hq => h.storesOk hq) hq)
    (fun _ _ h hq => h.storesOk hq) hstep hs

/-- Settles O16: a SCALE entry and its guard move together. -/
theorem stepKeepsGuards : Obligations.StepKeepsGuards := by
  intro s t hstack hguards hstep
  refine ⟨?_, fun hvalues hceilings => ?_⟩
  · refine (step_keep_deeds (P := fun q => q.StacksOk ∧ q.GuardsMatch) (fun _ _ h hq => ?_)
      (fun _ _ h _ => ⟨h.stacksOk, h.begun.guards⟩) hstep ⟨hstack, hguards⟩).2
    exact h.micros.keep (P := fun q => q.StacksOk ∧ q.GuardsMatch)
      (fun _ _ h hq => ⟨h.stacksOk hq.1, h.guardsMatch hq.1 hq.2⟩) hq
  · refine (step_keep_deeds (P := State.ScalesHold) (fun _ _ h hq => h.micros.keep (fun _ _ h hq => h.scalesHold hq) hq)
      (fun _ _ h _ => ⟨h.stacksOk, h.begun.values, h.begun.guards, h.begun.ceilings⟩) hstep
      ⟨hstack, hvalues, hguards, hceilings⟩).2.2.2

/-- Settles O19: only a power-on reset writes the counts lower. -/
theorem meterNeverFalls : Obligations.MeterNeverFalls := by
  intro s t hs hstep
  have hruns (h : MeterRuns s t) : t.MeterOk ∧ (s.pending.head? ≠ some .powerOnReset → s.hmt.kwh ≤ t.hmt.kwh ∧
      (t.hmt.kwh < 4294967295 →
        s.hmt.kwh * 36000000000000 + s.hmt.residue ≤ t.hmt.kwh * 36000000000000 + t.hmt.residue)) :=
    ⟨h.ok, fun _ => ⟨h.count, h.reading⟩⟩
  rcases step_deed hstep with h | ⟨i, rest, hpending, hi, h⟩
  · exact hruns (h.micros.meterRuns hs)
  obtain ⟨hkwh, hresidue, hsec, hms, _⟩ := id hs
  rcases exec_begins hi h with h | ⟨rfl, rfl⟩ | ⟨_, rfl⟩ | ⟨a, _, _, h⟩
  · exact hruns (((s.deed_pending rest).trans h).micros.meterRuns hs)
  · obtain ⟨_, _, _, _, _, _, _, _, _, _, _, _, _, _, hmeter, _⟩ := resetMeetsLaws
    exact ⟨hmeter, fun hne => absurd (by rw [hpending]; rfl) hne⟩
  · exact hruns ⟨⟨hkwh, hresidue, hsec, hms, Profile.default_fits.period⟩, le_rfl, fun _ => le_rfl⟩
  · have hset : MeterRuns s (({ s with pending := rest }.modPfl fun p => p.load a).setUp (s.pfl.load a).parameters) :=
      ⟨⟨hkwh, hresidue, hsec, hms, (s.pfl.parameters_fits a).period⟩, le_rfl, fun _ => le_rfl⟩
    exact hruns (hset.trans (h.micros.meterRuns hset.ok))

/-- Settles O12: the levels by what every command leaves, the logs by their moves. -/
theorem stepKeepsLogs : Obligations.StepKeepsLogs := fun _ _ hstep =>
  ⟨step_logsOk hstep, step_keep_deeds (P := State.LevelsFollow) (fun _ _ h => h.levels) (fun _ _ h _ => h.begun.levels) hstep⟩

/-- Settles O11: LOCK alone locks an entry, and no writer of a LOCKED entry changes. -/
theorem stepKeepsMap : Obligations.StepKeepsMap := by
  intro s t hs hstep
  refine ⟨step_keep_deeds (P := State.MapOk) (fun _ _ h hq => (h.map hq).1) (fun _ _ h _ => h.begun.map) hstep hs, fun hfront => ?_⟩
  rcases step_deed hstep with h | ⟨i, rest, hpending, hi, _⟩
  · exact (h.map hs).2
  · obtain ⟨hpower, hwarm, hload⟩ := hfront i (by rw [hpending]; rfl)
    rcases hi with h | h | ⟨a, h⟩
    · exact absurd h hpower
    · exact absurd h hwarm
    · exact absurd h (hload a)

/-- Settles O14: the units of a group in TRIP were forced, its trip list was pushed, and only a release lets them go. -/
theorem trippedUnitsRest : Obligations.TrippedUnitsRest := by
  intro s t hstep
  refine ⟨step_trippedAtRest hstep, step_keep_deeds (P := State.BusyOk) (fun _ _ h => h.busy) (fun _ _ h _ => h.begun.busy) hstep,
    fun hrun hran hstack hlists hhold => ?_⟩
  have hdeed (h : Deed s t) : t.TripListsHold := fun g => (h.lists g ⟨hstack, hlists, hhold g⟩).2.2
  rcases step_deed hstep with h | ⟨i, rest, hpending, hi, h⟩
  · exact hdeed h
  · rcases exec_begins hi h with h | ⟨_, rfl⟩ | ⟨_, rfl⟩ | ⟨a, _, hstart, _⟩
    · exact hdeed ((s.deed_pending rest).trans h)
    · cases hran
    · cases hran
    · rw [show ({ s with pending := rest } : State).run = s.run from rfl, hrun] at hstart
      cases hstart

theorem Port.append_fits {p : Port} (e : Event) (h : p.queue.length ≤ 16) : (p.append e).queue.length ≤ 16 := by
  unfold Port.append
  split
  case isTrue hroom =>
    have : queueSize = 16 := rfl
    rw [List.length_append, List.length_singleton]
    omega
  case isFalse => exact h

theorem State.queue_queuesFit (who : Master → Bool) (b : EventBody) (hs : s.QueuesFit) : (s.queue who b).QueuesFit := by
  intro m
  rw [State.port_queue]
  split
  · exact Port.append_fits _ (hs m)
  · exact hs m

theorem Same.queuesFit (h : Same s t) (hs : s.QueuesFit) : t.QueuesFit := fun m => h.queues m (hs m)

theorem Turn.queuesFit (h : Turn s t) (hs : s.QueuesFit) : t.QueuesFit := by
  have hlevel {q : State} (hq : q.QueuesFit) (g : Group) (l : Level) : (q.setLevel g l).QueuesFit :=
    State.queue_queuesFit (s := q.modGroup g fun y => { y with level := l }) _ _ hq
  cases h with
  | react t h => exact h.same.queuesFit hs
  | other t h => exact fun m => h.queue m (hs m)
  | base c v => exact hs
  | ramp c up => exact hs
  | known g c => exact (s.record_raws g c .trip).same.queuesFit hs
  | trip g c => exact (State.tripSteps_reacts _ g).same.queuesFit (hlevel ((s.record_raws g c .trip).same.queuesFit hs) g .trip)
  | release g =>
    exact hlevel (State.dropTrips_keep s (P := State.QueuesFit) (fun _ _ h hq => h.same.queuesFit hq) g (fun _ _ _ hq => hq) hs) g _
  | ack g =>
    refine State.each_induct (P := State.QueuesFit) _ (fun y q => q.giveRecord g y) (fun y _ q hq => ?_) _ hs
    exact State.queue_queuesFit _ _ hq

theorem Fresh.queues (h : Fresh s t) (m : Master) : (t.port m).queue ⊆ (s.port m).queue ∧
    ((t.port m).queue.length ≤ (s.port m).queue.length) := by
  have hempty (h : (t.port m).queue = []) : (t.port m).queue ⊆ (s.port m).queue ∧
      (t.port m).queue.length ≤ (s.port m).queue.length := by
    rw [h]
    exact ⟨List.nil_subset _, Nat.zero_le _⟩
  cases h with
  | powerOn | warm =>
    refine hempty ?_
    change ((State.initial _).port m).queue = []
    rw [State.initial_port]
    rfl
  | setUp a => simp [State.setUp, State.port, State.modPfl]

/-- Settles O8: queues are bounded where a record is appended, and a record about a channel goes to readers of it. -/
theorem stepKeepsQueues : Obligations.StepKeepsQueues := by
  intro s t hs hstep
  refine ⟨step_keep (P := State.QueuesFit) (fun _ _ => Turn.queuesFit) (fun _ _ h hq m => (h.queues m).2.trans (hq m)) hstep hs,
    fun hmap m x hx hnew => ?_⟩
  rcases step_deeds hstep with h | ⟨rest, r, hr, h⟩
  · exact ((h.adds hmap.parties).record m x hx).resolve_left hnew
  · exact ((h.adds hr.begun.map.parties).record m x hx).resolve_left fun hold => hnew ((hr.queues m).1 hold)

end Sys2Proof.Machine
end

section
/-! Steps, transactions and fetches at a port (R159, R163, R164). -/

namespace Sys2Proof.Machine

variable {s t r : State}

/-! ### Steps -/

/-- Settles O1. -/
theorem stepRunsFrontCommand : Obligations.StepRunsFrontCommand := by
  intro c rest s hpending
  simp only [step, hpending]

theorem step_next (s : State) : ∃ t, step s = .next t := by
  unfold step
  split
  · exact exec_next _ _
  · unfold State.idle
    split
    · unfold State.runTick
      split
      · exact ⟨s, rfl⟩
      · obtain ⟨t, ht, _⟩ := State.fireAll_keep (P := fun _ => True) (fun _ _ _ h => h) (fun _ _ _ h => h) (s := s.clock) trivial
        exact ⟨t, ht⟩
    · exact exec_next _ _

/-- Settles O2: the meaning of every command is a next state, and so is a tick. -/
theorem everyRunGoesOn : Obligations.EveryRunGoesOn := by
  intro s n
  induction n generalizing s with
  | zero => nofun
  | succ n ih =>
    obtain ⟨t, ht⟩ := step_next s
    simp only [stepsFrom, ht]
    exact ih t

/-! ### Transactions and fetches -/

theorem State.modPort_self {m : Master} {f : Port → Port} (h : f (s.port m) = s.port m) : s.modPort m f = s := by
  have hports : s.ports.set (masterIdx m) (s.port m) = s.ports := Vector.set_getElem_self _
  unfold State.modPort
  rw [h, hports]

theorem State.port_modPort_same (s : State) (m : Master) (f : Port → Port) : (s.modPort m f).port m = f (s.port m) := by
  rw [State.port_modPort, if_pos rfl]

theorem State.port_modPort_other (s : State) {m k : Master} (h : k ≠ m) (f : Port → Port) : (s.modPort m f).port k = s.port k := by
  rw [State.port_modPort, if_neg h]

/-- Settles O20, by the first byte of the transaction. -/
theorem requestTransaction : Obligations.RequestTransaction := by
  intro s m b rest
  refine ⟨congrArg Host.Outcome.next (State.modPort_self rfl), fun hb => ?fetch, fun hb => ⟨_, rfl, ?own, fun k hk => ?other, rfl⟩⟩
  case fetch =>
    subst hb
    rfl
  case own =>
    rw [State.port_modPort_same]
    simp only [Port.transact, if_neg hb]
    rfl
  case other => exact s.port_modPort_other hk _

/-- R164: the length of a response frame. -/
theorem Response.frame_length (x : Response) (b : Bool) : (x.frame b).length = x.payload.length + 6 := by
  simp [Response.frame, crc16Tail]

/-- R163: the NO_REQUEST frame, with its CRC. -/
theorem noRequest_frame : noRequest.frame false = [0xA5, 0x00, 0x41, 0x00, 0xEC, 0x0E] := by
  decide +kernel

/-- Settles O21, by the buffer's state and by whether the frame is clocked out whole. -/
theorem fetchReturnsBuffer : Obligations.FetchReturnsBuffer := by
  intro s m n
  refine ⟨rfl, s.modPort m fun p => p.fetch (n + 1), rfl, fun k hk => s.port_modPort_other hk _, rfl, ?_⟩
  rw [State.port_modPort_same]
  generalize s.port m = p
  obtain ⟨buffer, partialFlag⟩ := p
  cases buffer with
  | empty =>
    simp only [Port.fetch, noRequest_frame, shiftOut]
    rfl
  | pending => rfl
  | ready x =>
    have hlength := x.frame_length partialFlag
    simp only [Port.fetch, hlength, shiftOut]
    split
    case isTrue h => rw [List.take_of_length_le (by omega)]; rfl
    case isFalse h =>
      rw [Nat.sub_eq_zero_of_le (by omega), List.replicate_zero, List.append_nil]
      rfl

end Sys2Proof.Machine
end

section
/-! The frames of requests, and how a request is taken (R160 to R163). -/

namespace Sys2Proof.Machine

variable {s t r : State}

/-! ### Frames -/

theorem half_word2 (w : Half) : half (w.extractLsb' 8 8) (w.extractLsb' 0 8) = w := by
  refine BitVec.eq_of_getLsbD_eq fun i hi => ?_
  simp only [half, BitVec.getLsbD_append, BitVec.getLsbD_extractLsb']
  have hhigh : 8 ≤ i → 8 + (i - 8) = i := by omega
  grind

theorem word_word4 (w : Word) :
    word (w.extractLsb' 24 8) (w.extractLsb' 16 8) (w.extractLsb' 8 8) (w.extractLsb' 0 8) = w := by
  refine BitVec.eq_of_getLsbD_eq fun i hi => ?_
  simp only [word, BitVec.getLsbD_append, BitVec.getLsbD_extractLsb']
  have h1 : 8 ≤ i → 8 + (i - 8) = i := by omega
  have h2 : 16 ≤ i → 16 + (i - 8 - 8) = i := by omega
  have h3 : 24 ≤ i → 24 + (i - 8 - 8 - 8) = i := by omega
  grind

/-- The frame of a code, a tag and a payload without its CRC. -/
def frameBody (code tag : Byte) (p : List Byte) : List Byte := code :: tag :: BitVec.ofNat 8 p.length :: p

theorem frameOf_eq (code tag : Byte) (p : List Byte) : frameOf code tag p =
    frameBody code tag p ++ crc16Tail (frameBody code tag p) := rfl

theorem crc16Tail_length (l : List Byte) : (crc16Tail l).length = 2 := rfl

theorem frameOf_length (code tag : Byte) (p : List Byte) : (frameOf code tag p).length = p.length + 5 := by
  simp [frameOf_eq, frameBody, crc16Tail_length]

theorem lengthByte (p : List Byte) (hp : p.length ≤ 48) : (BitVec.ofNat 8 p.length).toNat = p.length := by
  rw [BitVec.toNat_ofNat]
  exact Nat.mod_eq_of_lt (by omega)

theorem frameOf_not_faulted (code tag : Byte) (p : List Byte) (hp : p.length ≤ 48) : faulted (frameOf code tag p) = false := by
  have hlen := frameOf_length code tag p
  have hbyte : ((frameOf code tag p).getD 2 0).toNat = p.length := lengthByte p hp
  have hbody : (frameBody code tag p).length = p.length + 3 := by simp [frameBody]
  unfold faulted
  simp only [hbyte, hlen, maxPayload]
  rw [show p.length + 5 - 2 = (frameBody code tag p).length by omega, frameOf_eq, List.drop_left, List.take_left]
  simp
  omega

theorem decodeFrame_frameOf (m : Master) (code tag : Byte) (p : List Byte) (hp : p.length ≤ 48) (hcode : knownCode code = true) :
    decodeFrame m (frameOf code tag p) = (requestOf m code tag p).getD (.badFrame m (frameOf code tag p)) := by
  have hpayload : ((frameOf code tag p).drop 3).take ((frameOf code tag p).length - 5) = p := by
    rw [frameOf_length]
    exact List.take_left
  unfold decodeFrame
  rw [if_neg (by simp [frameOf_not_faulted code tag p hp])]
  simp only [hpayload]
  refine if_neg ?_
  rw [show (frameOf code tag p).getD 0 0 = code from rfl, hcode]
  simp

/-- Table 9-3: the code and the payload of a request command spell it. -/
theorem requestOf_fields {i : Instr} {m : Master} {code tag : Byte} {p : List Byte} (hw : i.wellFormed = true)
    (hm : requestPort i = some m) (hf : requestFields i = some (code, tag, p)) :
    requestOf m code tag p = some i ∧ knownCode code = true ∧ code ≠ 0 ∧ p.length ≤ 48 := by
  cases i
  all_goals
    simp only [requestFields, reduceCtorEq, Option.some.injEq, Prod.mk.injEq] at hf
  all_goals
    obtain ⟨rfl, rfl, rfl⟩ := hf
    cases hm
  case profileWrite o data =>
    have hpage : data.length = 32 := by simpa [Instr.wellFormed, pageDataOk] using hw
    refine ⟨?_, rfl, by decide, by simp [word2, hpage]⟩
    simp [requestOf, payloadPage, word2, hpage, half_word2]
  all_goals
    refine ⟨?_, rfl, by decide, by simp [word2, word4]⟩
    simp [requestOf, payload0, payload1, payload2, payload3, payload4, payload5, word2, word4, half_word2, word_word4]

/-- Settles O22: a frame that is not faulted, with a known code, is the command that its payload spells. -/
theorem frameRoundTrip : Obligations.FrameRoundTrip := by
  intro i m hw hm
  obtain ⟨⟨code, tag, p⟩, hf⟩ : ∃ f, requestFields i = some f := by
    cases i <;> first | exact ⟨_, rfl⟩ | cases hm
  obtain ⟨hrequest, hknown, hcode, hlen⟩ := requestOf_fields hw hm hf
  refine ⟨frameOf code tag p, by rw [encodeFrame, hf]; rfl, ?_, ?_, ?_, ?_⟩
  · rw [decodeFrame_frameOf m code tag p hlen hknown, hrequest, Option.getD_some]
  · exact fun h => hcode (Option.some.inj h)
  · rw [frameOf_length]
    omega
  · rw [frameOf_length]
    omega

/-! ### Fields out of range (Table 9-4) -/

theorem channelField_none {b : Byte} (h : 15 < b.toNat) : channelField b = none := dif_neg (by omega)
theorem unitField_none {b : Byte} (h : 11 < b.toNat) : unitField b = none := dif_neg (by omega)

/-- A byte is a code exactly where its number is. -/
theorem byte_eq_code (b k : Byte) : b = k ↔ b.toNat = k.toNat := BitVec.toNat_inj.symm

theorem groupField_none {b : Byte} (h : 2 < b.toNat) : groupField b = none := by
  simp only [groupField, byte_eq_code]
  split_ifs with hb hb hb <;> first | rfl | exact absurd (hb ▸ h) (by decide)

theorem masterField_none {b : Byte} (h : b.toNat = 0 ∨ 3 < b.toNat) : masterField b = none := by
  simp only [masterField, byte_eq_code]
  split_ifs with hb hb hb <;> first | rfl | exact absurd (hb ▸ h) (by decide)

theorem kindField_none {b : Byte} (h : 2 < b.toNat) : kindField b = none := by
  simp only [kindField, byte_eq_code]
  split_ifs with hb hb hb <;> first | rfl | exact absurd (hb ▸ h) (by decide)

theorem stateField_none {b : Byte} (h : 3 < b.toNat) : stateField b = none := by
  simp only [stateField, byte_eq_code]
  split_ifs with hb hb hb hb <;> first | rfl | exact absurd (hb ▸ h) (by decide)

theorem inputField_none {k n : Byte} (h : 2 < k.toNat ∨ (k.toNat = 0 ∧ 15 < n.toNat) ∨ (k.toNat ≠ 0 ∧ 11 < n.toNat)) :
    inputField k n = none := by
  have h0 : (0 : Byte).toNat = 0 := rfl
  have h1 : (1 : Byte).toNat = 1 := rfl
  have h2 : (2 : Byte).toNat = 2 := rfl
  simp only [inputField, byte_eq_code, h0, h1, h2]
  split_ifs <;> first | rfl | omega

theorem itemField_none {b : Byte} (h : 8 < b.toNat) : itemField b = none := by
  simp only [itemField, byte_eq_code]
  split_ifs with hb hb
  · exact absurd (hb ▸ h) (by decide)
  · omega
  · rfl

theorem partField_none {b : Byte} (h : 9 < b.toNat) : partField b = none := by
  simp only [partField, byte_eq_code]
  split_ifs with hb hb hb
  · exact absurd (hb ▸ h) (by decide)
  · exact absurd (hb ▸ h) (by decide)
  · omega
  · rfl

theorem offsetField_none {w : Half} (h : 4064 < w.toNat ∨ w.toNat % 32 ≠ 0) : offsetField w = none := if_neg (by omega)

theorem State.index_none {α : Type} (s : State) {field : Option α} (k : α → Answer) (h : field = none) :
    s.index field k = s.answer .badIndex := by rw [h]; rfl

/-! ### Requests -/

/-- A request command is taken by its owner, which refuses a field out of its range (R161, R162). -/
theorem exec_request {i : Instr} {m : Master} {code tag : Byte} {p : List Byte} (hm : requestPort i = some m)
    (hf : requestFields i = some (code, tag, p)) : ∃ owner : State → Answer,
      (∀ s, exec i s = .next (s.takeRequest m tag owner)) ∧ (outOfRange i → ∀ e, owner e = e.answer .badIndex) := by
  cases i
  all_goals
    simp only [requestFields, reduceCtorEq, Option.some.injEq, Prod.mk.injEq] at hf
  all_goals
    obtain ⟨rfl, rfl, rfl⟩ := hf
    cases hm
    refine ⟨_, fun _ => rfl, fun hout e => ?_⟩
  case setPoint | unforce | readChannel | claim | releaseCh | accept | lock | readMap =>
    exact e.index_none _ (channelField_none hout)
  case force c k v =>
    rcases hout with hc | hk
    · exact e.index_none _ (channelField_none hc)
    · cases hfield : channelField c with
      | none => exact e.index_none _ hfield
      | some d => simp only [ownForce, hfield, State.index, kindField_none hk]
  case offer c o =>
    rcases hout with hc | ho
    · exact e.index_none _ (channelField_none hc)
    · cases hfield : channelField c with
      | none => exact e.index_none _ hfield
      | some d => simp only [ownOffer, hfield, State.index, masterField_none ho]
  case setNext u st =>
    rcases hout with hu | hst
    · exact e.index_none _ (unitField_none hu)
    · cases hfield : unitField u with
      | none => exact e.index_none _ hfield
      | some d => simp only [ownSetNext, hfield, State.index, stateField_none hst]
  case readInput => exact e.index_none _ (inputField_none hout)
  case readUnit => exact e.index_none _ (unitField_none hout)
  case go | releaseTrip | ack | readLog => exact e.index_none _ (groupField_none hout)
  case setLab => exact e.index_none _ (itemField_none hout)
  case readScale => exact e.index_none _ (partField_none hout)
  case profileRead | profileWrite => exact e.index_none _ (offsetField_none hout)
  case status | portReset | readEvent | readMeter | profileCheck => exact hout.elim

theorem State.takeRequest_starting (hrun : s.run ≠ .running) (m : Master) (tag : Byte) (owner : State → Answer) :
    s.takeRequest m tag owner = (s.takeFrame m).respond m tag .starting [] := if_neg hrun

/-- Settles O26: the index check is the first of every owner. -/
theorem outOfRangeRefused : Obligations.OutOfRangeRefused := by
  intro s i m code tag p hrun hout hm hf
  obtain ⟨owner, hexec, hrefused⟩ := exec_request hm hf
  rw [hexec, State.takeRequest_running hrun, hrefused hout]
  rfl

/-- Settles O23. -/
theorem startingUntilOperation : Obligations.StartingUntilOperation := by
  intro s hrun
  refine ⟨fun i m code tag p hm hf => ?_, fun m tag code => ?_, fun m bytes => ?_⟩
  · obtain ⟨owner, hexec, _⟩ := exec_request hm hf
    rw [hexec, State.takeRequest_starting hrun]
  · exact congrArg Host.Outcome.next (State.takeRequest_starting hrun m tag _)
  · refine congrArg Host.Outcome.next ?_
    have hstarting : (if (s.takeFrame m).run = .running then Result.badFrame else .starting) = .starting := if_neg hrun
    unfold State.badFrame
    split
    · exact congrArg (fun x => (s.takeFrame m).respond m _ x []) hstarting
    · exact State.takeRequest_starting hrun m _ _

theorem faulted_iff (bytes : List Byte) : faulted bytes = true ↔ bytes.length < 5 ∨ 48 < (bytes.getD 2 0).toNat ∨
    bytes.length ≠ (bytes.getD 2 0).toNat + 5 ∨
      bytes.drop (bytes.length - 2) ≠ crc16Tail (bytes.take (bytes.length - 2)) := by
  unfold faulted maxPayload
  simp only [Bool.or_eq_true, decide_eq_true_eq, or_assoc]

/-- Settles O25. -/
theorem portAnswers : Obligations.PortAnswers := by
  refine ⟨fun s m tag answer payload => ?_, fun s m tag code bytes hrun => ⟨?_, fun hbad => ?_, fun hgood => ?_⟩⟩
  · let held (p : Port) : Port := { p with buffer := .ready ⟨tag, answer, payload⟩, partialFlag := false }
    exact ⟨s.port_modPort_same m _, s.port_modPort_same m held,
      fun k hk => ⟨s.port_modPort_other hk _, s.port_modPort_other hk held⟩, rfl, rfl, rfl⟩
  · exact congrArg Host.Outcome.next (State.takeRequest_running hrun m tag _)
  · refine congrArg Host.Outcome.next ?_
    have hanswer : (if (s.takeFrame m).run = .running then Result.badFrame else .starting) = .badFrame := if_pos hrun
    rw [State.badFrame, if_pos ((faulted_iff bytes).mpr hbad)]
    exact congrArg (fun x => (s.takeFrame m).respond m _ x []) hanswer
  · refine congrArg Host.Outcome.next ?_
    rw [State.badFrame, if_neg fun h => hgood ((faulted_iff bytes).mp h)]
    exact State.takeRequest_running hrun m _ _

end Sys2Proof.Machine
end

section
/-! Reads, small stores and the page write: requests whose owner changes one record or none (R25, R44, R64, R68, R84, R106, R146,
R147, R156, R167, R169, R182 to R184). -/

namespace Sys2Proof.Machine

variable {s t r : State}

/-! ### Requests by their owners -/

/-- R161: in operation a request is answered by its owner, in the state after the valid frame. -/
theorem exec_of_owner {i : Instr} {m : Master} {tag : Byte} (owner : State → Answer) (a : Answer) (hrun : s.run = .running)
    (hi : exec i s = .next (s.takeRequest m tag owner)) (ha : owner (s.heard m) = a) :
    exec i s = .next (a.1.respond m tag a.2.1 a.2.2) := by
  rw [hi, State.takeRequest_running hrun, ha]

theorem State.needWriter_false (s : State) (k : Answer) : s.needWriter false k = s.answer .notWriter := rfl
theorem State.needWriter_true (s : State) (k : Answer) : s.needWriter true k = k := rfl

theorem State.writes_iff (s : State) (m : Master) (c : ChanId) : s.writes m c = true ↔ (s.entry c).writer = some m :=
  decide_eq_true_iff

theorem State.writes_eq_true {m : Master} {c : ChanId} (h : ¬(s.entry c).writer ≠ some m) : s.writes m c = true :=
  (s.writes_iff m c).mpr (not_not.mp h)

theorem State.writes_eq_false {m : Master} {c : ChanId} (h : (s.entry c).writer ≠ some m) : s.writes m c = false :=
  decide_eq_false h

/-! ### Fields in range -/

theorem unitField_ofNat (u : UnitId) : unitField (BitVec.ofNat 8 u) = some u := by revert u; decide
theorem stateField_code (st : UState) : stateField (BitVec.ofNat 8 st.code) = some st := by cases st <;> rfl
theorem kindField_code (k : Kind) : kindField (BitVec.ofNat 8 k.code) = some k := by cases k <;> rfl
theorem groupField_code (g : Group) : groupField (BitVec.ofNat 8 (groupCode g)) = some g := by cases g <;> rfl
theorem masterField_code (m : Master) : masterField (BitVec.ofNat 8 (masterCode m)) = some m := by cases m <;> rfl
theorem itemField_bubble (i : Fin 8) : itemField (BitVec.ofNat 8 (i.val + 1)) = some (.bubble i) := by revert i; decide
theorem partField_well (i : Fin 8) : partField (BitVec.ofNat 8 (i.val + 2)) = some (.well i) := by revert i; decide
theorem inputField_analog (n : Fin 16) : inputField 0 (BitVec.ofNat 8 n) = some (.analog n) := by revert n; decide
theorem inputField_pulse (j : Fin 12) : inputField 1 (BitVec.ofNat 8 j) = some (.pulse j) := by revert j; decide
theorem inputField_discrete (d : Fin 12) : inputField 2 (BitVec.ofNat 8 d) = some (.discrete d) := by revert d; decide

theorem offsetField_page (a : Fin 128) : offsetField (BitVec.ofNat 16 (32 * a.val)) = some (32 * a.val) := by
  have hval : (BitVec.ofNat 16 (32 * a.val)).toNat = 32 * a.val := by
    rw [BitVec.toNat_ofNat]
    exact Nat.mod_eq_of_lt (by omega)
  simp only [offsetField, hval]
  exact if_pos (by omega)

/-! ### STATUS and READ_EVENT -/

/-- Settles O27. -/
theorem statusAndEvents : Obligations.StatusAndEvents := by
  intro s m tag hrun e
  refine ⟨⟨e.modPort m fun p => { p with lost := false }, exec_of_owner (ownStatus m) (ownStatus m e) hrun rfl rfl,
    e.port_modPort_same m _, fun k hk => e.port_modPort_other hk _, rfl⟩, fun hempty => ?_, fun x rest hqueue => ?_⟩
  · exact exec_of_owner (ownReadEvent m) (e.answer .queueEmpty) hrun rfl (by simp only [ownReadEvent, hempty, e])
  · refine ⟨e.modPort m fun p => { p with queue := rest }, ?_, e.port_modPort_same m _, fun k hk => e.port_modPort_other hk _, rfl⟩
    exact exec_of_owner (ownReadEvent m) ((e.modPort m fun p => { p with queue := rest }).answer .ok (x.bytes ++ byte1 rest.length))
      hrun rfl (by simp only [ownReadEvent, hqueue, e])

/-! ### Reads -/

/-- A read for the readers of a channel. -/
theorem exec_of_read {i : Instr} {m : Master} {tag : Byte} (owner : State → Answer) (c : ChanId) (l : List Byte)
    (hrun : s.run = .running) (hi : exec i s = .next (s.takeRequest m tag owner))
    (ha : owner (s.heard m) = (s.heard m).needReader m c ((s.heard m).answer .ok l)) :
    exec i s = .next (if ((s.heard m).entry c).readers.has m then (s.heard m).respond m tag .ok l
      else (s.heard m).respond m tag .notReader []) := by
  rw [exec_of_owner owner _ hrun hi ha]
  unfold State.needReader
  split <;> rfl

theorem Entry.bytes_eq : Entry.bytes = fun y => y.source.bytes ++ byte1 y.kind.code ++ byte2 y.value ++ word4 y.stamp := rfl

/-- Settles O29. -/
theorem readsOfChannels : Obligations.ReadsOfChannels := by
  intro s m tag c u hrun e ch x
  refine ⟨e.unitRampDone_iff u, e.drainMet_iff u, Config.openField e.draws, ?channel, ?map, ?unit⟩
  case channel =>
    refine exec_of_read (ownReadChannel m (BitVec.ofNat 8 c)) c _ hrun rfl ?_
    simp only [ownReadChannel, channelField_ofNat, State.index, State.channelBytes, Entry.bytes_eq, Channel.rampDone,
      Bool.decide_or]
    rfl
  case map =>
    refine exec_of_read (ownReadMap m (BitVec.ofNat 8 c)) c _ hrun rfl ?_
    simp only [ownReadMap, channelField_ofNat, State.index]
    rfl
  case unit =>
    refine exec_of_read (ownReadUnit m (BitVec.ofNat 8 u)) (principal u) _ hrun rfl ?_
    simp only [ownReadUnit, unitField_ofNat, State.index]
    rfl

theorem ceilingBytes_eq (v : Option Nat) : ceilingBytes v = byte2 (v.getD 65535) := by
  cases v <;> rfl

/-- R182: a page of the mirror, byte by byte. -/
theorem Memory.readBytes_eq (m : Memory) (a n : Nat) : m.readBytes a n = (List.range n).map fun b => m.read (a + b) := by
  induction n generalizing a with
  | zero => rfl
  | succ n ih =>
    rw [List.range_succ_eq_map, List.map_cons, List.map_map, Memory.readBytes, ih]
    simp [Function.comp_def, Nat.add_assoc, Nat.add_comm 1]

theorem State.whenIdle_eq (s : State) (k : Answer) : s.whenIdle k = if s.pfl.busy = none then k else s.answer .busy := by
  unfold State.whenIdle
  cases s.pfl.busy <;> rfl

/-- A profile request that reads. -/
theorem exec_of_idle {i : Instr} {m : Master} {tag : Byte} (owner : State → Answer) (l : List Byte) (hrun : s.run = .running)
    (hi : exec i s = .next (s.takeRequest m tag owner))
    (ha : owner (s.heard m) = (s.heard m).whenIdle ((s.heard m).answer .ok l)) :
    exec i s = .next (if (s.heard m).pfl.busy = none then (s.heard m).respond m tag .ok l
      else (s.heard m).respond m tag .busy []) := by
  rw [exec_of_owner owner _ hrun hi ha, State.whenIdle_eq]
  split <;> rfl

/-- Settles O30, read by read. -/
theorem readsOfRecords : Obligations.ReadsOfRecords := by
  intro s m tag n j d g i a hrun e h
  refine ⟨?analog, ?pulse, ?discrete, ?log, ?page, ?check, ?exchanger, ?silica, ?well, ?meter⟩
  case analog =>
    refine exec_of_owner (ownReadInput 0 (BitVec.ofNat 8 n)) (e.answer .ok (e.inputBytes (.analog n))) hrun rfl ?_
    simp only [ownReadInput, inputField_analog, State.index, e]
  case pulse =>
    refine exec_of_owner (ownReadInput 1 (BitVec.ofNat 8 j)) (e.answer .ok (e.inputBytes (.pulse j))) hrun rfl ?_
    simp only [ownReadInput, inputField_pulse, State.index, e]
  case discrete =>
    refine exec_of_owner (ownReadInput 2 (BitVec.ofNat 8 d)) (e.answer .ok (e.inputBytes (.discrete d))) hrun rfl ?_
    simp only [ownReadInput, inputField_discrete, State.index, e]
  case log =>
    refine exec_of_owner (ownReadLog (BitVec.ofNat 8 (groupCode g))) (e.answer .ok (e.group g).bytes) hrun rfl ?_
    simp only [ownReadLog, groupField_code, State.index, e]
  case page =>
    refine exec_of_idle (ownProfileRead (BitVec.ofNat 16 (32 * a.val))) _ hrun rfl ?_
    simp only [ownProfileRead, offsetField_page, State.index, Memory.readBytes_eq, e]
    rfl
  case check =>
    refine exec_of_idle ownProfileCheck _ hrun rfl ?_
    have hcode (k : Nat) : (stateOfItem k).code = if k = 0 then 0 else 1 := by
      unfold stateOfItem
      split <;> rfl
    simp only [ownProfileCheck, hcode, e]
  case exchanger => exact exec_of_owner (ownReadScale 0) (e.answer .ok (e.scaleBytes .exchanger)) hrun rfl rfl
  case silica =>
    have hanswer := exec_of_owner (i := .readScale m tag 1) (ownReadScale 1) (e.answer .ok (e.scaleBytes .silica)) hrun rfl rfl
    simpa only [State.answer, State.scaleBytes, Guard.bytes, ceilingBytes_eq, List.append_assoc] using hanswer
  case well =>
    have hanswer := exec_of_owner (i := .readScale m tag (BitVec.ofNat 8 (i.val + 2))) (ownReadScale _)
      (e.answer .ok (e.scaleBytes (.well i))) hrun rfl (by simp only [ownReadScale, partField_well, State.index, e])
    simpa only [State.answer, State.scaleBytes, Guard.bytes, ceilingBytes_eq, List.append_assoc] using hanswer
  case meter => exact exec_of_owner ownReadMeter (ownReadMeter e) hrun rfl rfl

/-! ### Waveforms and one-shots -/

/-- Settles O40. -/
theorem phasesAndOneShots : Obligations.PhasesAndOneShots := by
  intro s c ch only
  have honly {i : Instr} {f : Channel → Channel} {x : Channel} (hi : exec i s = .next (s.modChan c f)) (hf : f ch = x) : only i x :=
    ⟨_, hi, by rw [State.chan_modChan, if_pos rfl]; exact hf, fun d hd => by rw [State.chan_modChan, if_neg hd], rfl⟩
  refine ⟨honly (f := Channel.endHigh) rfl rfl, honly (f := Channel.boundary) rfl ?_, honly (f := Channel.endDelay) rfl rfl,
    honly (f := Channel.endPulse) rfl rfl⟩
  rfl

end Sys2Proof.Machine
end

section
/-! Stores by request, offers, locks and hand-overs, the page write and the resets (R49 to R59, R68, R146, R157, R178, R183). -/

namespace Sys2Proof.Machine

variable {s t r : State}

/-! ### The write check (R48) -/

section
variable {i : Instr} {m : Master} {tag : Byte} {c : ChanId}

/-- A request of a master that does not write the channel. -/
theorem exec_not_writer (owner : State → Answer) {k : Answer} (hrun : s.run = .running)
    (hi : exec i s = .next (s.takeRequest m tag owner)) (h : ((s.heard m).entry c).writer ≠ some m)
    (ha : owner (s.heard m) = (s.heard m).needWriter ((s.heard m).writes m c) k) :
    exec i s = .next ((s.heard m).respond m tag .notWriter []) :=
  exec_of_owner owner ((s.heard m).answer .notWriter) hrun hi (by rw [ha, State.writes_eq_false h]; rfl)

/-- A request of the channel's writer. -/
theorem exec_writer (owner : State → Answer) (k : Answer) (hrun : s.run = .running)
    (hi : exec i s = .next (s.takeRequest m tag owner)) (h : ¬((s.heard m).entry c).writer ≠ some m)
    (ha : owner (s.heard m) = (s.heard m).needWriter ((s.heard m).writes m c) k) :
    exec i s = .next (k.1.respond m tag k.2.1 k.2.2) :=
  exec_of_owner owner k hrun hi (by rw [ha, State.writes_eq_true h]; rfl)

end

/-! ### SET_NEXT and SET_LAB -/

/-- Settles O45. -/
theorem storesByRequest : Obligations.StoresByRequest := by
  intro s m tag u st i v hrun e set sil bub
  refine ⟨?setNext, ?silica, ?bubble⟩
  case setNext =>
    have howner : ownSetNext m (BitVec.ofNat 8 u) (BitVec.ofNat 8 st.code) e = e.needWriter (e.writes m (principal u))
        ((e.modUnit u fun x => { x with next := st, protAltered := false }).answer .ok) := by
      simp only [ownSetNext, unitField_ofNat, stateField_code, State.index]
    split
    case isTrue h => exact exec_not_writer _ hrun rfl h howner
    case isFalse h =>
      refine ⟨_, exec_writer _ _ hrun rfl h howner, ?_, fun w hw => ?_, rfl⟩
      · exact (e.unit_modUnit u u _).trans (if_pos rfl)
      · exact (e.unit_modUnit u w _).trans (if_neg hw)
  case silica =>
    have howner : ownSetLab m 0 v e = e.needWriter (e.writes m 10)
        ((e.setLab .silica (min 2000 v.toNat)).answer (if 2000 < v.toNat then .clamped else .ok)) := rfl
    split
    case isTrue h => exact exec_not_writer _ hrun rfl h howner
    case isFalse h => exact exec_writer _ _ hrun rfl h howner
  case bubble =>
    have howner : ownSetLab m (BitVec.ofNat 8 (i.val + 1)) v e = e.needWriter (e.writes m (wellChan i))
        ((e.setLab (.bubble i) (min 200000 v.toNat)).answer (if 200000 < v.toNat then .clamped else .ok)) := by
      simp only [ownSetLab, itemField_bubble, State.index]
      rfl
    split
    case isTrue h => exact exec_not_writer _ hrun rfl h howner
    case isFalse h =>
      have hstored (j : Fin 8) : (e.setLab (.bubble i) (min 200000 v.toNat)).swu.pBub[j] =
          if j = i then min 200000 v.toNat else e.swu.pBub[j] := set_get ..
      exact ⟨_, exec_writer _ _ hrun rfl h howner, (hstored i).trans (if_pos rfl), fun j hj => (hstored j).trans (if_neg hj), rfl⟩

/-! ### The page write -/

theorem State.allTripped_iff (s : State) : s.allTripped = true ↔
    (s.group .field).level = .trip ∧ (s.group .turbine).level = .trip ∧ (s.group .heat).level = .trip := by
  simp [State.allTripped, allGroups]

/-- Settles O60. -/
theorem profileWrites : Obligations.ProfileWrites := by
  intro s m tag k data hstores e o
  refine ⟨fun hrun => ?request, fun hidle => ?nothing, fun hbusy => ?done⟩
  case request =>
    have howner : ownProfileWrite (BitVec.ofNat 16 (32 * k.val)) data e = e.whenIdle
        (if e.allTripped then (e.startWrite (32 * k.val) data).answer .ok else e.answer .notAllTripped) := by
      simp only [ownProfileWrite, offsetField_page, State.index]
    rw [State.whenIdle_eq] at howner
    split
    case isTrue h => exact exec_of_owner _ (e.answer .busy) hrun rfl (by rw [howner, if_neg h])
    case isFalse h =>
      rw [if_pos (not_not.mp h)] at howner
      split
      case isTrue htrip =>
        exact exec_of_owner _ (e.answer .notAllTripped) hrun rfl
          (by rw [howner, if_neg fun hall => htrip (e.allTripped_iff.mp hall)])
      case isFalse htrip =>
        exact exec_of_owner _ ((e.startWrite (32 * k.val) data).answer .ok) hrun rfl
          (by rw [howner, if_pos (e.allTripped_iff.mpr (not_not.mp htrip))])
  case nothing => simp only [exec, execPageWriteEnd, hidle, Option.isSome_none, Bool.false_eq_true, if_false]
  case done =>
    have hend : exec .pageWriteEnd s = .next (s.modPfl Pfl.endWrite) := by
      simp only [exec, execPageWriteEnd]
      rw [if_pos (Option.isSome_iff_ne_none.mpr hbusy)]
    obtain ⟨hmirror, heeprom⟩ := hstores
    have hstored : (s.modPfl Pfl.endWrite).StoresOk := s.deed_pageWriteEnd.micros.keep
      (fun _ _ h hq => h.storesOk hq) ⟨hmirror, heeprom⟩
    refine ⟨_, hend, rfl, ?_, rfl, ?_, ?_, hstored, fun w hw a => ?_⟩
    case refine_4 =>
      simp only [State.modPfl, Pfl.endWrite, Pfl.commit, hw]
      exact ⟨Memory.read_writeBytes _ hmirror _ _, Memory.read_writeBytes _ heeprom _ _⟩
    all_goals
      simp only [State.modPfl, Pfl.endWrite, Pfl.commit]
      split <;> first | rfl | assumption

/-! ### Offers and locks -/

/-- A record to the parties of an entry. -/
theorem State.port_queueParties (s : State) (l : List (Option Master)) (b : EventBody) (k : Master) :
    (s.queueParties l b).port k = if some k ∈ l then (s.port k).append ⟨s.ms, b⟩ else s.port k := by
  unfold State.queueParties
  rw [State.port_queue]
  simp only [mem_parties]

theorem State.endOffer_none (c : ChanId) (f : Option Master → Master → List (Option Master)) (why : ExpiryReason)
    (h : (s.entry c).offer = none) : s.endOffer c f why = s := by
  unfold State.endOffer
  rw [h]

theorem State.endOffer_some (c : ChanId) (f : Option Master → Master → List (Option Master)) (why : ExpiryReason) {o : Offer}
    (h : (s.entry c).offer = some o) : s.endOffer c f why = (s.modEntry c fun e => { e with offer := none }).queueParties
      (f (s.entry c).writer o.offeree) (.handoverExpired c o.offeree why) := by
  unfold State.endOffer
  rw [h]

/-- What an operation on one entry leaves: the entry, every other one, and every block but the ports. -/
structure EntryDone (s r : State) (c : ChanId) (x : MapEntry) : Prop where
  entry : r.entry c = x
  others : ∀ d, d ≠ c → r.entry d = s.entry d
  blocks : { r with map := s.map, ports := s.ports } = s

theorem State.modEntry_done (s : State) (c : ChanId) (f : MapEntry → MapEntry) : EntryDone s (s.modEntry c f) c (f (s.entry c)) where
  entry := (s.entry_modEntry c c f).trans (if_pos rfl)
  others d hd := (s.entry_modEntry c d f).trans (if_neg hd)
  blocks := rfl

theorem EntryDone.queued {c : ChanId} {x : MapEntry} (h : EntryDone s r c x) (p : Master → Bool) (b : EventBody) :
    EntryDone s (r.queue p b) c x := ⟨h.entry, h.others, h.blocks⟩

theorem EntryDone.trans {c : ChanId} {x y : MapEntry} (h : EntryDone s r c x) (k : EntryDone r t c y) : EntryDone s t c y where
  entry := k.entry
  others d hd := (k.others d hd).trans (h.others d hd)
  blocks := by
    have hr := congrArg (fun z : State => { z with map := s.map, ports := s.ports }) k.blocks
    exact hr.trans h.blocks

theorem some_mem_pair {a : Option Master} {b k : Master} : some k ∈ [a, some b] ↔ a = some k ∨ k = b := by
  simp [eq_comm]

/-- Table 3-5: what the end of an offer leaves. -/
theorem State.endOffer_done (s : State) (c : ChanId) (f : Option Master → Master → List (Option Master)) (why : ExpiryReason)
    {o : Offer} (h : (s.entry c).offer = some o) : EntryDone s (s.endOffer c f why) c { s.entry c with offer := none } := by
  rw [State.endOffer_some c f why h]
  exact (s.modEntry_done c fun e => { e with offer := none }).queued _ _

/-- The end of an offer that tells both parties. -/
theorem State.endOffer_port (s : State) (c : ChanId) (why : ExpiryReason) {o : Offer} (h : (s.entry c).offer = some o)
    (k : Master) : (s.endOffer c (fun w o => [w, some o]) why).port k =
      if (s.entry c).writer = some k ∨ k = o.offeree then (s.port k).append ⟨s.ms, .handoverExpired c o.offeree why⟩
      else s.port k := by
  rw [State.endOffer_some c _ why h, State.port_queueParties]
  exact if_congr some_mem_pair rfl rfl

/-- R56: the offer that stood is replaced, and the new one set. -/
theorem State.setOffer_done (s : State) (c : ChanId) (b : Master) : EntryDone s (s.setOffer c b) c
    { s.entry c with offer := some ⟨b, s.ms + BitVec.ofNat 32 (1000 * s.offerTimeout)⟩ } := by
  have hreplaced : s.replaceOffer c b = { s with ports := (s.replaceOffer c b).ports } := by
    unfold State.replaceOffer
    split
    · rfl
    · split <;> rfl
  unfold State.setOffer
  rw [hreplaced, Nat.mul_comm 1000]
  have hports : EntryDone s { s with ports := (s.replaceOffer c b).ports } c (s.entry c) := ⟨rfl, fun _ _ => rfl, rfl⟩
  exact hports.trans ((State.modEntry_done _ c fun e =>
    { e with offer := some ⟨b, s.ms + BitVec.ofNat 32 (s.offerTimeout * 1000)⟩ }).queued _ _)

theorem State.replaceOffer_port (s : State) {c : ChanId} {m : Master} (hwriter : (s.entry c).writer = some m) (b k : Master) :
    (s.replaceOffer c b).port k = match (s.entry c).offer with
      | none => s.port k
      | some q => if q.offeree ≠ b ∧ (k = m ∨ k = q.offeree) then
          (s.port k).append ⟨s.ms, .handoverExpired c q.offeree .replaced⟩ else s.port k := by
  unfold State.replaceOffer
  cases (s.entry c).offer with
  | none => rfl
  | some q =>
    by_cases hsame : q.offeree = b
    · simp [hsame]
    · simp only [hsame, if_false, ne_eq, not_false_eq_true, true_and, State.port_queueParties, hwriter]
      exact if_congr (some_mem_pair.trans (by rw [Option.some.injEq, eq_comm])) rfl rfl

theorem State.setOffer_port (s : State) {c : ChanId} {m : Master} (hwriter : (s.entry c).writer = some m) (b k : Master) :
    (s.setOffer c b).port k = if k = m ∨ k = b then
      ((s.replaceOffer c b).port k).append ⟨s.ms, .handoverOffered c b s.offerTimeout⟩ else (s.replaceOffer c b).port k := by
  have hkept : (s.replaceOffer c b).entry c = s.entry c ∧ (s.replaceOffer c b).ms = s.ms ∧
      (s.replaceOffer c b).offerTimeout = s.offerTimeout := by
    unfold State.replaceOffer
    split
    · exact ⟨rfl, rfl, rfl⟩
    · split <;> exact ⟨rfl, rfl, rfl⟩
  obtain ⟨hentry, hms, htime⟩ := hkept
  unfold State.setOffer
  rw [State.port_queueParties]
  refine (if_congr (some_mem_pair (a := ((s.replaceOffer c b).entry c).writer) |>.trans ?_) ?_ rfl)
  · rw [hentry, hwriter, Option.some.injEq, eq_comm]
  · show ((s.replaceOffer c b).port k).append ⟨(s.replaceOffer c b).ms, .handoverOffered c b (s.replaceOffer c b).offerTimeout⟩ = _
    rw [hms, htime]

/-- Settles O43. -/
theorem offersAndLocks : Obligations.OffersAndLocks := by
  refine ⟨fun s c => ⟨fun h => ?nothing, fun o ho => ?expires⟩, fun s m tag c b hrun => ?requests⟩
  case nothing => exact congrArg Host.Outcome.next (State.endOffer_none c _ _ h)
  case expires =>
    have hdone := s.endOffer_done c (fun w o => [w, some o]) .timeout ho
    exact ⟨_, rfl, hdone.entry, hdone.others, hdone.blocks, s.endOffer_port c .timeout ho⟩
  case requests =>
    intro e x off lck
    have hoffer : ownOffer m (BitVec.ofNat 8 c) (BitVec.ofNat 8 (masterCode b)) e = e.needWriter (e.writes m c)
        (if x.locked then e.answer .locked else if b = m then e.answer .badIndex
          else if x.readers.has b = false then e.answer .notReader else (e.setOffer c b).answer .ok) := by
      simp only [ownOffer, channelField_ofNat, masterField_code, State.index]
      rfl
    have hlock : ownLock m (BitVec.ofNat 8 c) e = e.needWriter (e.writes m c) (if x.locked then e.answer .ok else
        ((e.modEntry c fun y => { y with locked := true }).endOffer c (fun w o => [w, some o]) .locked).answer .ok) := by
      simp only [ownLock, channelField_ofNat, State.index]
      rfl
    by_cases hwriter : x.writer ≠ some m
    · rw [if_pos hwriter, if_pos hwriter]
      exact ⟨exec_not_writer _ hrun rfl hwriter hoffer, exec_not_writer _ hrun rfl hwriter hlock⟩
    have hto := exec_writer _ _ hrun (i := .offer m tag (BitVec.ofNat 8 c) (BitVec.ofNat 8 (masterCode b))) rfl hwriter hoffer
    have htl := exec_writer _ _ hrun (i := .lock m tag (BitVec.ofNat 8 c)) rfl hwriter hlock
    rw [if_neg hwriter, if_neg hwriter]
    have hmine : x.writer = some m := not_not.mp hwriter
    constructor
    · by_cases hlocked : x.locked = true
      · rw [if_pos hlocked] at hto ⊢
        exact hto
      by_cases hself : b = m
      · rw [if_neg hlocked, if_pos hself] at hto ⊢
        exact hto
      by_cases hreader : x.readers.has b = false
      · rw [if_neg hlocked, if_neg hself, if_pos hreader] at hto ⊢
        exact hto
      rw [if_neg hlocked, if_neg hself, if_neg hreader] at hto ⊢
      have hdone := e.setOffer_done c b
      refine ⟨_, hto, hdone.entry, hdone.others, hdone.blocks, fun k => ?_⟩
      exact (e.setOffer_port hmine b k).trans (by rw [e.replaceOffer_port hmine b k] <;> rfl)
    · by_cases hlocked : x.locked = true
      · rw [if_pos hlocked] at htl ⊢
        exact htl
      rw [if_neg hlocked] at htl ⊢
      have hset := e.modEntry_done c fun y => { y with locked := true }
      refine ⟨_, htl, ?_⟩
      cases ho : x.offer with
      | none =>
        have hnone : ((e.modEntry c fun y => { y with locked := true }).entry c).offer = none := by rw [hset.entry]; exact ho
        rw [State.endOffer_none c _ _ hnone]
        exact ⟨hset.entry.trans (by rw [← ho]), hset.others, hset.blocks, fun _ => rfl⟩
      | some q =>
        have hsome : ((e.modEntry c fun y => { y with locked := true }).entry c).offer = some q := by rw [hset.entry]; exact ho
        have hdone := hset.trans (State.endOffer_done _ c (fun w o => [w, some o]) .locked hsome)
        refine ⟨hdone.entry.trans (by rw [hset.entry]), hdone.others, hdone.blocks, fun k => ?_⟩
        refine (State.endOffer_port _ c .locked hsome k).trans (if_congr (or_congr_left ?_) rfl rfl)
        rw [hset.entry]
        rw [show ({ e.entry c with locked := true } : MapEntry).writer = some m from hmine, Option.some.injEq, eq_comm]

/-! ### Release and acceptance -/

/-- Settles O42. -/
theorem releaseAndAccept : Obligations.ReleaseAndAccept := by
  intro s m tag c hrun e rel acc
  have hrel : ownReleaseCh m (BitVec.ofNat 8 c) e = e.needWriter (e.writes m c)
      (if (e.entry c).locked then e.answer .locked else (e.changeWriter c none).answer .ok) := by
    simp only [ownReleaseCh, channelField_ofNat, State.index]
  have hacc : ownAccept m (BitVec.ofNat 8 c) e = match (e.entry c).offer with
      | none => e.answer .notOffered
      | some o => if o.offeree = m then (e.changeWriter c (some m)).answer .ok else e.answer .notOffered := by
    simp only [ownAccept, channelField_ofNat, State.index] <;> rfl
  constructor
  · split_ifs with hwriter hlocked
    · exact exec_not_writer _ hrun rfl hwriter hrel
    · rw [if_pos hlocked] at hrel
      exact exec_writer _ _ hrun rfl hwriter hrel
    · rw [if_neg hlocked] at hrel
      exact ⟨_, exec_writer _ _ hrun rfl hwriter hrel, e.changeWriter_changed c none⟩
  · cases ho : (e.entry c).offer with
    | none =>
      rw [ho] at hacc
      exact exec_of_owner _ _ hrun rfl hacc
    | some o =>
      rw [ho] at hacc
      dsimp only at hacc ⊢
      split
      case isTrue hme =>
        rw [if_pos hme] at hacc
        exact ⟨_, exec_of_owner _ _ hrun rfl hacc, e.changeWriter_changed c (some m)⟩
      case isFalse hother =>
        rw [if_neg hother] at hacc
        exact exec_of_owner _ _ hrun rfl hacc

end Sys2Proof.Machine
end

section
/-! Records told (R165, R166): what a reaction appends to the queues stays told; the ends of GOs over a run of reactions (R78);
ACK (R102, R103). -/

namespace Sys2Proof.Machine

variable {s t r e : State}

/-! ### Queues that only grow -/

/-- Every queue has at most been appended to, and a LOST flag stays. -/
def Grows (s t : State) : Prop :=
  ∀ m, (s.port m).queue <+: (t.port m).queue ∧ ((s.port m).lost = true → (t.port m).lost = true)

theorem grows_of_ports (h : t.ports = s.ports) : Grows s t := fun m => by
  have hport : t.port m = s.port m := by simp only [State.port, h]
  rw [hport]
  exact ⟨List.prefix_refl _, id⟩

theorem Grows.refl (s : State) : Grows s s := grows_of_ports rfl

theorem Grows.trans (h : Grows s t) (k : Grows t r) : Grows s r := fun m =>
  ⟨(h m).1.trans (k m).1, fun hlost => (k m).2 ((h m).2 hlost)⟩

theorem Grows.told (h : Grows s t) {m : Master} {x : Event} (hx : (s.port m).Told x) : (t.port m).Told x :=
  hx.imp (fun hmem => (h m).1.subset hmem) (h m).2

theorem Grows.queue (h : Grows s t) (m : Master) : (s.port m).queue <+: (t.port m).queue := (h m).1

theorem Port.append_lost {p : Port} (x : Event) (h : p.lost = true) : (p.append x).lost = true := by
  unfold Port.append
  split
  · exact h
  · rfl

theorem State.queue_grows (s : State) (who : Master → Bool) (b : EventBody) : Grows s (s.queue who b) := fun m => by
  rw [State.port_queue]
  split
  · exact ⟨Port.append_queue_extends _ _, Port.append_lost _⟩
  · exact ⟨List.prefix_refl _, id⟩

theorem Grows.queued (h : Grows s t) (who : Master → Bool) (b : EventBody) : Grows s (t.queue who b) :=
  h.trans (t.queue_grows who b)

theorem Grows.each {α : Type} {l : List α} {f : α → State → State} (h : ∀ x ∈ l, ∀ s, Grows s (f x s)) (s : State) :
    Grows s (s.each l f) :=
  State.each_induct (P := Grows s) l f (fun x hx t ht => ht.trans (h x hx t)) s (.refl s)

theorem Raw.grows (h : Raw s t) : Grows s t := by
  cases h with
  | queue who b => exact s.queue_grows who b
  | _ => exact grows_of_ports rfl

theorem Raws.grows (h : Raws s t) : Grows s t := by
  induction h with
  | refl => exact .refl s
  | tail _ hraw ih => exact ih.trans hraw.grows

theorem Reacts.grows (h : Reacts s t) : Grows s t := h.raws.grows

/-- Every item of a run tells its record. -/
theorem State.each_told {α : Type} {l : List α} {f : α → State → State} {x : α} (hx : x ∈ l) {ev : Event} {m : Master}
    (P : State → Prop) (hP : ∀ y q, P q → P (f y q)) (hgrow : ∀ y q, Grows q (f y q))
    (htell : ∀ q, P q → ((f x q).port m).Told ev) (s : State) (hs : P s) : ((s.each l f).port m).Told ev := by
  induction l generalizing s with
  | nil => cases hx
  | cons y l ih =>
    rw [State.each_cons]
    rcases List.mem_cons.mp hx with rfl | hx
    · exact (Grows.each (fun z _ q => hgrow z q) (f x s)).told (htell s hs)
    · exact ih hx _ (hP y s hs)

/-! ### Runs that keep the busy flags right -/

/-- R78: from `e` to `r` the time and the counts of started units stay, queues only grow, and the end of a GO is told. -/
structure Goes (e r : State) : Prop where
  ms : r.ms = e.ms
  started : ∀ g, (r.group g).started = (e.group g).started
  grows : Grows e r
  go : GoEnds e r

theorem Goes.trans (h : Goes e t) (k : Goes t r) : Goes e r where
  ms := k.ms.trans h.ms
  started g := (k.started g).trans (h.started g)
  grows := h.grows.trans k.grows
  go hbusy := by
    obtain ⟨hmid, htold⟩ := h.go hbusy
    obtain ⟨hlast, htold'⟩ := k.go hmid
    refine ⟨hlast, fun g hg hr m => ?_⟩
    cases ht : (t.group g).busy with
    | false => exact k.grows.told (htold g hg ht m)
    | true => rw [← h.ms, ← h.started g]; exact htold' g ht hr m

theorem goes_of_busy (hms : t.ms = s.ms) (hunit : ∀ u, (t.unit u).phase = (s.unit u).phase)
    (hgroup : ∀ g, (t.group g).busy = (s.group g).busy ∧ (t.group g).started = (s.group g).started) (hgrow : Grows s t) :
    Goes s t where
  ms := hms
  started g := (hgroup g).2
  grows := hgrow
  go hbusy := by
    refine ⟨fun g => ?_, fun g hg hr => ?_⟩
    · rw [(hgroup g).1]
      simp only [hunit]
      exact hbusy g
    · rw [(hgroup g).1, hg] at hr
      cases hr

theorem Goes.refl (s : State) : Goes s s := goes_of_busy rfl (fun _ => rfl) (fun _ => ⟨rfl, rfl⟩) (.refl s)

theorem goes_of_eq (hms : t.ms = s.ms) (hunits : t.units = s.units) (hgroups : t.groups = s.groups) (hgrow : Grows s t) :
    Goes s t :=
  goes_of_busy hms (fun u => by simp only [State.unit, hunits]) (fun g => by simp only [State.group, hgroups, and_self]) hgrow

theorem Goes.queued (h : Goes s t) (who : Master → Bool) (b : EventBody) : Goes s (t.queue who b) :=
  h.trans (goes_of_eq rfl rfl rfl (t.queue_grows who b))

theorem Goes.each {α : Type} {l : List α} {f : α → State → State} (h : ∀ x ∈ l, ∀ s, Goes s (f x s)) (s : State) :
    Goes s (s.each l f) :=
  State.each_induct (P := Goes s) l f (fun x hx t ht => ht.trans (h x hx t)) s (.refl s)

theorem State.modChan_goes (s : State) (c : ChanId) (f : Channel → Channel) : Goes s (s.modChan c f) :=
  goes_of_eq rfl rfl rfl (grows_of_ports rfl)

theorem State.refold_goes (s : State) (c : ChanId) : Goes s (s.refold c) := by
  rw [State.refold_eq]
  exact s.modChan_goes c _

theorem State.testUnit_goes (s : State) (u : UnitId) : Goes s (s.testUnit u) where
  ms := (s.testUnit_reacts u).same.ms
  started g := by rw [(s.testUnit_within u).group g]
  grows := (s.testUnit_reacts u).grows
  go := s.testUnit_go u

theorem State.modGroup_goes (s : State) (g : Group) (f : GroupRec → GroupRec)
    (h : (f (s.group g)).busy = (s.group g).busy ∧ (f (s.group g)).started = (s.group g).started) : Goes s (s.modGroup g f) := by
  refine goes_of_busy rfl (fun _ => rfl) (fun k => ?_) (grows_of_ports rfl)
  rw [State.group_modGroup]
  split
  case isTrue hk => rwa [hk]
  case isFalse => exact ⟨rfl, rfl⟩

theorem State.setLevel_goes (s : State) (g : Group) (l : Level) : Goes s (s.setLevel g l) := by
  unfold State.setLevel State.queueAll
  exact (s.modGroup_goes g (fun x => { x with level := l }) ⟨rfl, rfl⟩).queued _ _

theorem State.relevel_goes (s : State) (g : Group) : Goes s (s.relevel g) := by
  unfold State.relevel
  dsimp only
  split
  · exact .refl s
  · exact s.setLevel_goes g _

theorem State.filter_goes (s : State) (c : ChanId) (p : Entry → Bool) :
    Goes s (((s.modChan c fun ch => { ch with stack := ch.stack.filter p }).refold c).testUnit (unitOf c)) :=
  ((s.modChan_goes c _).trans (State.refold_goes _ c)).trans (State.testUnit_goes _ _)

theorem State.remove_goes (s : State) (c : ChanId) (x : Source) : Goes s (s.remove c x) := by
  unfold State.remove
  split
  · exact s.filter_goes c _
  · exact .refl s

theorem State.deactivate_goes (s : State) (g : Group) (c : Cause) : Goes s (s.deactivate g c) := by
  have hrecord : Goes s (s.modGroup g fun x => x.deactivate c s.ms) := by
    refine s.modGroup_goes g _ ?_
    unfold GroupRec.deactivate
    split <;> exact ⟨rfl, rfl⟩
  exact (hrecord.trans (Goes.each (fun a _ q => q.remove_goes a.channel _) _)).trans (State.relevel_goes _ g)

theorem State.recordWith_goes (s : State) (g : Group) (c : Cause) (cls : CauseClass) (mom : Bool) {x : GroupRec × Recorded}
    (h : x.1.busy = (s.group g).busy ∧ x.1.started = (s.group g).started) : Goes s (s.recordWith g c cls mom x) := by
  have hset := s.modGroup_goes g (fun _ => x.1) h
  unfold State.recordWith
  dsimp only
  split
  · exact hset
  · exact hset.queued _ _
  · exact hset.queued _ _

theorem GroupRec.arrive_flags (x : GroupRec) (c : Cause) (cls : CauseClass) (now : Word) :
    (x.arrive c cls now).1.busy = x.busy ∧ (x.arrive c cls now).1.started = x.started := by
  unfold GroupRec.arrive
  split_ifs <;> exact ⟨rfl, rfl⟩

theorem GroupRec.arriveMomentary_flags (x : GroupRec) (c : Cause) (cls : CauseClass) (now : Word) :
    (x.arriveMomentary c cls now).1.busy = x.busy ∧ (x.arriveMomentary c cls now).1.started = x.started := by
  unfold GroupRec.arriveMomentary
  split_ifs <;> exact ⟨rfl, rfl⟩

theorem State.record_goes (s : State) (g : Group) (c : Cause) (cls : CauseClass) : Goes s (s.record g c cls) :=
  s.recordWith_goes g c cls false (GroupRec.arrive_flags ..)

theorem State.momentary_goes (s : State) (g : Group) (c : Cause) : Goes s (s.momentary g c) :=
  (s.recordWith_goes g c .alarm true (GroupRec.arriveMomentary_flags ..)).trans (State.relevel_goes _ g)

theorem State.setGuard_goes (s : State) (k : GuardId) (x : Guard) : Goes s (s.setGuard k x) := by
  cases k <;> exact goes_of_eq rfl rfl rfl (grows_of_ports rfl)

theorem State.tellGuard_goes (s : State) (k : GuardId) (old : GuardState) (why : GuardReason) : Goes s (s.tellGuard k old why) := by
  unfold State.tellGuard
  dsimp only
  split
  · exact .refl s
  · exact (Goes.refl s).queued _ _

theorem State.discarded_goes (s : State) (c : ChanId) (x : Entry) : Goes s (s.discarded c x) := by
  unfold State.discarded
  split
  · dsimp only
    split
    case h_1 k _ => exact ((s.setGuard_goes k _).trans (State.tellGuard_goes _ k _ _)).trans (State.momentary_goes _ _ _)
    case h_2 => exact s.momentary_goes _ _
  · exact (Goes.refl s).queued _ _

theorem State.pushRaw_goes (s : State) (c : ChanId) (x : Entry) : Goes s (s.pushRaw c x) := by
  unfold State.pushRaw
  dsimp only
  split
  · exact (s.discarded_goes c _).trans (State.modChan_goes _ c _)
  · exact s.modChan_goes c _

theorem State.push_goes (s : State) (c : ChanId) (x : Entry) : Goes s (s.push c x) :=
  ((s.pushRaw_goes c x).trans (State.refold_goes _ c)).trans (State.testUnit_goes _ _)

theorem State.applyActions_goes (s : State) (g : Group) (c : Cause) : Goes s (s.applyActions g c) :=
  Goes.each (fun a _ q => q.push_goes a.channel _) s

theorem State.arriveAlarm_goes (s : State) (g : Group) (c : Cause) : Goes s (s.arriveAlarm g c) :=
  ((s.record_goes g c .alarm).trans (State.applyActions_goes _ g c)).trans (State.relevel_goes _ g)

/-! ### ACK -/

/-- A master that writes a channel of a group (R50). -/
theorem State.writesAny_iff (s : State) (m : Master) (l : List ChanId) :
    s.writesAny m l = true ↔ ∃ c ∈ l, (s.entry c).writer = some m := by
  simp [State.writesAny, State.writes]

theorem exec_not_group_writer {i : Instr} {m : Master} {tag : Byte} {g : Group} (owner : State → Answer) {k : Answer}
    (hrun : s.run = .running) (hi : exec i s = .next (s.takeRequest m tag owner))
    (h : ∀ c ∈ groupChannels g, ((s.heard m).entry c).writer ≠ some m)
    (ha : owner (s.heard m) = (s.heard m).needWriter ((s.heard m).writesAny m (groupChannels g)) k) :
    exec i s = .next ((s.heard m).respond m tag .notWriter []) := by
  have hnot : (s.heard m).writesAny m (groupChannels g) = false := by
    rw [← Bool.not_eq_true, State.writesAny_iff]
    rintro ⟨c, hc, hw⟩
    exact h c hc hw
  exact exec_of_owner owner ((s.heard m).answer .notWriter) hrun hi (by rw [ha, hnot]; rfl)

theorem exec_group_writer {i : Instr} {m : Master} {tag : Byte} {g : Group} (owner : State → Answer) {q : State} {x : Result}
    (hrun : s.run = .running) (hi : exec i s = .next (s.takeRequest m tag owner))
    (h : ¬∀ c ∈ groupChannels g, ((s.heard m).entry c).writer ≠ some m)
    (ha : owner (s.heard m) = (s.heard m).needWriter ((s.heard m).writesAny m (groupChannels g)) (q.answer x)) :
    exec i s = .next (q.respond m tag x []) := by
  have hwrites : (s.heard m).writesAny m (groupChannels g) = true := by
    rw [State.writesAny_iff]
    simpa using h
  exact exec_of_owner owner (q.answer x) hrun hi (by rw [ha, hwrites]; rfl)

theorem State.relevel_frame (s : State) (g : Group) : { s.relevel g with groups := s.groups, ports := s.ports } = s := by
  unfold State.relevel State.setLevel State.queueAll
  dsimp only
  split <;> rfl

theorem logs_frame_trans (h : { t with groups := s.groups, ports := s.ports } = s)
    (k : { r with groups := t.groups, ports := t.ports } = t) : { r with groups := s.groups, ports := s.ports } = s :=
  (congrArg (fun q : State => { q with groups := s.groups, ports := s.ports }) k).trans h

/-- R92, R103: after ACK the level asked for is ALARM exactly where active records stay or codes of the set had been waiting. -/
theorem GroupRec.acked_quietLevel (x : GroupRec) (now : Word) :
    (x.acked now).quietLevel = if x.acknowledge.log = [] ∧ x.unrecorded = [] then .normal else .alarm := by
  have hnormal : (x.acked now).quietLevel = .alarm ↔ ¬(x.acknowledge.log = [] ∧ x.unrecorded = []) := by
    rw [GroupRec.quietLevel_alarm]
    have hactive : ∀ r ∈ (x.acked now).log, r.active = true := by
      intro r hr
      rcases List.mem_append.mp hr with hr | hr
      · obtain ⟨z, hz, rfl⟩ := List.mem_map.mp hr
        exact (List.mem_filter.mp hz).2
      · obtain ⟨y, _, rfl⟩ := List.mem_map.mp hr
        rfl
    constructor
    · rintro hasks ⟨hlog, hset⟩
      have hempty : (x.acked now).log = [] ∧ (x.acked now).unrecorded = [] ∧ (x.acked now).logFull = false := by
        simp [GroupRec.acked, hlog, hset]
      rcases hasks with ⟨r, hr, _⟩ | hne | hfull
      · rw [hempty.1] at hr
        cases hr
      · exact hne hempty.2.1
      · rw [hempty.2.2] at hfull
        cases hfull
    · intro hne
      by_cases hlog : (x.acked now).log = []
      · right; left
        obtain ⟨hstay, htake⟩ := List.append_eq_nil_iff.mp hlog
        rw [hstay] at htake
        have hset : x.unrecorded = [] := by simpa [logSize] using htake
        exact absurd ⟨hstay, hset⟩ hne
      · obtain ⟨r, hr⟩ := List.exists_mem_of_ne_nil _ hlog
        exact .inl ⟨r, hr, .inl (hactive r hr)⟩
  split
  case isTrue hempty =>
    have hnot := mt hnormal.mp (not_not.mpr hempty)
    unfold GroupRec.quietLevel at hnot ⊢
    split at hnot
    · exact absurd rfl hnot
    · next h => rw [if_neg h]
  case isFalse hne => exact hnormal.mpr hne

theorem State.giveRecord_grows (s : State) (g : Group) (y : Unrecorded) : Grows s (s.giveRecord g y) := by
  unfold State.giveRecord State.queueAll
  exact (grows_of_ports rfl : Grows s (s.modGroup g _)).queued _ _

/-- R103: each code that is given a record is told to every port. -/
theorem State.giveRecords_told (s : State) (g : Group) (m : Master) {y : Unrecorded}
    (hy : y ∈ (s.group g).unrecorded.take (logSize - (s.group g).log.length)) :
    ((s.giveRecords g).port m).Told ⟨s.ms, .causeNew g y.cause y.cls false true⟩ := by
  have htold : ((s.each ((s.group g).unrecorded.take (logSize - (s.group g).log.length)) fun z q => q.giveRecord g z).port
      m).Told ⟨s.ms, .causeNew g y.cause y.cls false true⟩ := by
    refine State.each_told (f := fun z q => q.giveRecord g z) hy (fun q => q.ms = s.ms) (fun z q hq => hq) (fun z q => q.giveRecord_grows g z) (fun q hq => ?_) s rfl
    rw [← hq]
    exact State.queue_told _ (fun _ => true) _ m rfl
  exact htold

theorem State.giveRecords_grows (s : State) (g : Group) : Grows s (s.giveRecords g) := by
  unfold State.giveRecords
  exact (Grows.each (fun y _ q => q.giveRecord_grows g y) s).trans (grows_of_ports rfl)

theorem State.acknowledge_eq (s : State) (g : Group) :
    s.acknowledge g = ((s.modGroup g GroupRec.acknowledge).giveRecords g).relevel g := rfl

theorem State.acknowledge_frame (s : State) (g : Group) : { s.acknowledge g with groups := s.groups, ports := s.ports } = s :=
  logs_frame_trans (s.acknowledged_frame g) (State.relevel_frame _ g)

theorem State.acknowledge_grows (s : State) (g : Group) : Grows s (s.acknowledge g) :=
  ((grows_of_ports rfl : Grows s (s.modGroup g GroupRec.acknowledge)).trans (State.giveRecords_grows _ g)).trans
    (State.relevel_goes _ g).grows

theorem State.acknowledge_group_other (s : State) {g h : Group} (hne : h ≠ g) : (s.acknowledge g).group h = s.group h := by
  rw [State.acknowledge_eq, State.relevel_group, if_neg hne, s.acknowledged_group_other hne]

theorem State.acknowledge_group (s : State) (g : Group) (hlogs : s.LogsOk) : (s.acknowledge g).group g =
    { (s.group g).acked s.ms with
      level := if (s.group g).level = .trip then .trip
        else if (s.group g).acknowledge.log = [] ∧ (s.group g).unrecorded = [] then .normal else .alarm } := by
  rw [State.acknowledge_eq, State.relevel_group, if_pos rfl, s.acknowledged_group g (hlogs g).set_nodup,
    GroupRec.acked_quietLevel]
  rfl

theorem State.acknowledge_told (s : State) (g : Group) (m : Master) {y : Unrecorded}
    (hy : y ∈ (s.group g).unrecorded.take (logSize - (s.group g).acknowledge.log.length)) :
    ((s.acknowledge g).port m).Told ⟨s.ms, .causeNew g y.cause y.cls false true⟩ := by
  refine (State.relevel_goes _ g).grows.told (State.giveRecords_told (s.modGroup g GroupRec.acknowledge) g m ?_)
  rw [State.group_modGroup, if_pos rfl]
  exact hy

/-- Settles O51. -/
theorem ackClearsLog : Obligations.AckClearsLog := by
  intro s m tag g hrun e o x stay room
  have howner : ownAck m (BitVec.ofNat 8 (groupCode g)) e =
      e.needWriter (e.writesAny m (groupChannels g)) ((e.acknowledge g).answer .ok) := by
    simp only [ownAck, groupField_code, State.index]
  split
  case isTrue h => exact exec_not_group_writer _ hrun rfl h howner
  case isFalse h =>
    intro hlogs
    exact ⟨e.acknowledge g, exec_group_writer _ hrun rfl h howner, e.acknowledge_frame g,
      fun k hk => e.acknowledge_group_other hk, e.acknowledge_group g hlogs, fun k =>
      ⟨(e.acknowledge_grows g).queue k, fun y hy => e.acknowledge_told g k hy⟩⟩

end Sys2Proof.Machine
end

section
/-! Resets (R157, R178, R183), the interval of the meter (R150 to R155), and the stack, fold and frequency pair of a channel
(R3, R4, R16, R17, R20). -/

namespace Sys2Proof.Machine

/-! ### Resets -/

/-- R183: each byte of a page write that a power-on reset cuts is the old one or the new one. -/
theorem read_reachedBytes (d : Nat) (l : List Byte) : ∀ {m : Memory} (_ : m.wf = true) (a y : Nat),
    (reachedBytes d m a l).read y = m.read y ∨
      (a ≤ y ∧ y < a + l.length ∧ (reachedBytes d m a l).read y = l.getD (y - a) 0) := by
  induction l with
  | nil => exact fun _ a y => .inl rfl
  | cons b l ih =>
    intro m hm a y
    have hwf : (if Config.pageByteReached d a then m.write a b else m).wf = true := by
      split
      · exact Memory.wf_write hm a b
      · exact hm
    have hfirst : (if Config.pageByteReached d a then m.write a b else m).read y = m.read y ∨
        (y = a ∧ (if Config.pageByteReached d a then m.write a b else m).read y = b) := by
      split
      · rw [Memory.read_write hm]
        by_cases hy : y = a
        · exact .inr ⟨hy, if_pos hy⟩
        · exact .inl (if_neg hy)
      · exact .inl rfl
    rw [reachedBytes, List.length_cons]
    rcases ih hwf (a + 1) y with hrest | ⟨hle, hlt, hrest⟩
    · rw [hrest]
      rcases hfirst with hsame | ⟨hy, hnew⟩
      · exact .inl hsame
      · subst hy
        exact .inr ⟨le_rfl, by omega, by rw [hnew]; simp⟩
    · refine .inr ⟨by omega, by omega, hrest.trans ?_⟩
      rw [show y - a = y - (a + 1) + 1 by omega, List.getD_cons_succ]

/-- Settles O6. -/
theorem resetsBegin : Obligations.ResetsBegin := by
  intro s ⟨_, heeprom⟩
  refine ⟨⟨s.pfl.cut s.draws, rfl, fun hnone => ?idle, fun w hw a => ?cut⟩, rfl, rfl⟩
  case idle => rw [Pfl.cut, hnone]
  case cut =>
    rw [Pfl.cut, hw]
    exact read_reachedBytes s.draws w.data heeprom w.offset a

/-! ### The meter -/

theorem prod64_of_lt {x : Nat} (h : x < 2 ^ 63) : prod64 x = x := if_pos h

theorem Sample.pulseUsable_iff (x : Sample) : x.pulseUsable = true ↔ x.quality = .good ∨ x.quality = .noSignal := by
  simp [Sample.pulseUsable]

theorem Sample.usable_iff (x : Sample) : x.usable = true ↔ x.quality = .good ∨ x.quality = .limited := by
  simp [Sample.usable]

theorem Sample.rate_eq (x : Sample) : x.rate = if x.quality = .noSignal then 0 else x.value.toNat := rfl

/-- R150 to R155: the three outcomes of an interval. -/
theorem Hmt.interval_unmetered (h : Hmt) (w : Snapshot) (dt : Nat)
    (hu : ¬((w.pi[piDistrict]).pulseUsable && (w.ai[aiSupply]).usable && (w.ai[aiReturn]).usable) = true) :
    h.interval w dt = { ({ h with lastTime := w.time } : Hmt).addUnmetered dt with outcome := .unmetered, power := 0 } :=
  if_pos (by rwa [Bool.not_eq_true', ← Bool.not_eq_true])

theorem Hmt.interval_reverse (h : Hmt) (w : Snapshot) (dt : Nat)
    (hu : ((w.pi[piDistrict]).pulseUsable && (w.ai[aiSupply]).usable && (w.ai[aiReturn]).usable) = true)
    (hlt : (w.ai[aiSupply]).value < (w.ai[aiReturn]).value) :
    h.interval w dt = { h with lastTime := w.time, outcome := .reverse, reverse := true, power := 0 } := by
  unfold Hmt.interval
  dsimp only
  rw [if_neg (by rw [hu]; decide), if_pos hlt]

theorem Hmt.interval_metered (h : Hmt) (w : Snapshot) (dt : Nat)
    (hu : ((w.pi[piDistrict]).pulseUsable && (w.ai[aiSupply]).usable && (w.ai[aiReturn]).usable) = true)
    (hle : ¬(w.ai[aiSupply]).value < (w.ai[aiReturn]).value) :
    let flow := (w.pi[piDistrict]).rate * h.cpW * ((w.ai[aiSupply]).value - (w.ai[aiReturn]).value).toNat
    h.interval w dt = { ({ h with lastTime := w.time } : Hmt).integrate (prod64 (flow * dt)) with
      outcome := .metered, power := prod64 flow / 10000 } := by
  unfold Hmt.interval
  dsimp only
  rw [if_neg (by rw [hu]; decide), if_neg hle]

/-- R154: the length joins the unmetered time. -/
theorem Hmt.addUnmetered_spec (h : Hmt) {dt : Nat} (hdt : dt ≤ 1000) (hms : h.unmeteredMs < 1000) :
    (h.addUnmetered dt).unmeteredMs = (h.unmeteredMs + dt) % 1000 ∧
    (h.addUnmetered dt).unmeteredS =
      if 1000 ≤ h.unmeteredMs + dt then min 4294967295 (h.unmeteredS + 1) else h.unmeteredS := by
  unfold Hmt.addUnmetered
  dsimp only
  split
  case isTrue hcarry =>
    refine ⟨?_, rfl⟩
    show h.unmeteredMs + dt - 1000 = _
    have hcarry : 1000 ≤ h.unmeteredMs + dt := hcarry
    omega
  case isFalse hstay => exact ⟨(Nat.mod_eq_of_lt (Nat.lt_of_not_le hstay)).symm, rfl⟩

theorem Hmt.addUnmetered_kept (h : Hmt) (dt : Nat) : (h.addUnmetered dt).kwh = h.kwh ∧
    (h.addUnmetered dt).residue = h.residue ∧ (h.addUnmetered dt).reverse = h.reverse ∧
    (h.addUnmetered dt).lastTime = h.lastTime ∧ (h.addUnmetered dt).cpW = h.cpW := by
  unfold Hmt.addUnmetered
  dsimp only
  split <;> exact ⟨rfl, rfl, rfl, rfl, rfl⟩

/-- R152: the residue after the carry is what the sum leaves of a kilowatt-hour. -/
theorem Hmt.integrate_residue (h : Hmt) (x : Nat) : (h.integrate x).residue = (h.residue + x) % 36000000000000 := by
  show h.residue + x - (h.residue + x) / kwhUnits * kwhUnits = _
  rw [Nat.mod_eq_sub_mul_div, Nat.mul_comm]
  rfl

/-- Settles O59. -/
theorem meterInterval : Obligations.MeterInterval := by
  intro h w dt f ws wr usable flow sum r
  have husable : usable ↔ ((w.pi[piDistrict]).pulseUsable && (w.ai[aiSupply]).usable && (w.ai[aiReturn]).usable) = true := by
    simp only [Bool.and_eq_true, Sample.pulseUsable_iff, Sample.usable_iff, and_assoc]
    exact Iff.rfl
  by_cases hu : usable
  · by_cases hlt : ws.value < wr.value
    · have hr : r = _ := h.interval_reverse w dt (husable.mp hu) hlt
      refine ⟨by rw [hr], by rw [hr], fun hnot => absurd hu hnot, fun _ => by rw [hr]; exact ⟨rfl, rfl⟩,
        fun _ _ => by rw [hr]; exact ⟨rfl, rfl, rfl, rfl, rfl⟩, fun _ hle => absurd hlt (Int.not_lt.mpr hle)⟩
    · have hr : r = _ := h.interval_metered w dt (husable.mp hu) hlt
      have hsum (x : Nat) : (({ h with lastTime := w.time } : Hmt).integrate x).residue = (h.residue + x) % 36000000000000 :=
        Hmt.integrate_residue _ x
      refine ⟨by rw [hr]; rfl, by rw [hr]; rfl, fun hnot => absurd hu hnot, fun _ => by rw [hr]; exact ⟨rfl, rfl⟩,
        fun _ hless => absurd hless hlt, fun _ _ => ?_⟩
      rw [hr]
      refine ⟨rfl, rfl, ?_, fun hflow => ?_, fun henergy => ⟨?_, ?_⟩⟩
      · exact (hsum _).trans_lt (Nat.mod_lt _ (by decide))
      · exact congrArg (· / 10000) (prod64_of_lt hflow)
      · refine (hsum _).trans ?_
        exact congrArg (fun x => (h.residue + x) % 36000000000000) (prod64_of_lt henergy)
      · exact congrArg (fun x => min 4294967295 (h.kwh + (h.residue + x) / 36000000000000)) (prod64_of_lt henergy)
  · have hr : r = _ := h.interval_unmetered w dt (mt husable.mpr hu)
    obtain ⟨hkwh, hres, hrev, htime, hcp⟩ := ({ h with lastTime := w.time } : Hmt).addUnmetered_kept dt
    refine ⟨by rw [hr]; exact htime, by rw [hr]; exact hcp, fun _ => ?_, fun hyes => absurd hyes hu,
      fun hyes => absurd hyes hu, fun hyes => absurd hyes hu⟩
    rw [hr]
    exact ⟨rfl, rfl, hkwh, hres, hrev, fun hdt hms => ({ h with lastTime := w.time } : Hmt).addUnmetered_spec hdt hms⟩

/-! ### Pushes -/

theorem insertEntry_trip {x : Entry} (l : List Entry) (h : x.source = .trip) : insertEntry x l = l ++ [x] := if_pos h

theorem insertEntry_top {x : Entry} {l : List Entry} (h : x.source ≠ .trip) (hl : ∀ y ∈ l, y.source ≠ .trip) :
    insertEntry x l = l ++ [x] :=
  (if_neg h).trans (insertBelowTrip_none x l hl)

theorem insertEntry_beneath {x y : Entry} {l : List Entry} (h : x.source ≠ .trip) (hl : ∀ z ∈ l, z.source ≠ .trip)
    (hy : y.source = .trip) : insertEntry x (l ++ [y]) = l ++ [x, y] :=
  (if_neg h).trans (insertBelowTrip_trip x y l hl hy)

theorem pushEntry_present {x : Entry} {l : List Entry} (h : hasSource x.source l = true) :
    pushEntry x l = replaceEntry x l ∧ discardedBy x l = none := by
  unfold pushEntry discardedBy
  exact ⟨if_pos h, if_pos h⟩

/-- R16 cases 2 and 3: a new identity goes onto what remains of the stack in its form. -/
theorem pushEntry_absent {x : Entry} {l : List Entry} (h : hasSource x.source l = false) (hlen : l.length ≤ 4) :
    pushEntry x l = insertEntry x (if l.length = 4 then l.tail else l) ∧
      discardedBy x l = if l.length = 4 then l.head? else none := by
  have hfull : stackSize ≤ l.length ↔ l.length = 4 := ⟨fun hle => le_antisymm hlen hle, fun heq => heq.ge⟩
  unfold pushEntry discardedBy
  have hnot : ¬hasSource x.source l = true := by rw [h]; decide
  rw [if_neg hnot, if_neg hnot]
  refine ⟨?_, if_congr hfull rfl rfl⟩
  by_cases hl : l.length = 4
  · rw [if_pos (hfull.mpr hl), if_pos hl]
  · rw [if_neg (mt hfull.mp hl), if_neg hl]

/-- R17: the bottom of a full stack in its form is no TRIP entry. -/
theorem StackOk.bottom_ne_trip {l : List Entry} (h : StackOk l) (hl : l.length = 4) {y : Entry} (hy : l.head? = some y) :
    y.source ≠ .trip := by
  obtain ⟨_, _, hbelow, _⟩ := h
  obtain ⟨z, rest, rfl⟩ : ∃ z rest, l = y :: z :: rest := by
    match l, hl, hy with
    | a :: b :: rest, _, hy => exact ⟨b, rest, by rw [← Option.some.inj hy]⟩
  exact hbelow y (by simp)

/-- Settles O35. -/
theorem pushKeepsOrder : Obligations.PushKeepsOrder := by
  intro l x hl hkind
  refine ⟨hl.push hkind, fun y hy hsame => ?present, fun hnew => ?absent⟩
  case present =>
    have hhas : hasSource x.source l = true := (hasSource_iff _ _).mpr (List.mem_map.mpr ⟨y, hy, hsame⟩)
    obtain ⟨hpush, hdiscard⟩ := pushEntry_present hhas
    refine ⟨by simp [hpush, replaceEntry], hdiscard, fun i z hz => ?_⟩
    simp [hpush, replaceEntry, hz]
  case absent =>
    intro rest
    obtain ⟨hpush, hdiscard⟩ := pushEntry_absent ((hasSource_false _ _).mpr hnew) hl.1
    have hrest : StackOk rest := by
      show StackOk (if l.length = 4 then l.tail else l)
      split
      · exact hl.tail
      · exact hl
    refine ⟨hdiscard, fun y hy => ?_, fun htrip => ?_, fun htrip hnone => ?_, fun b t htrip hb ht => ?_⟩
    · rw [hdiscard] at hy
      split at hy
      · next hfull => exact hl.bottom_ne_trip hfull hy
      · cases hy
    · exact hpush.trans (insertEntry_trip rest htrip)
    · exact hpush.trans (insertEntry_top htrip hnone)
    · obtain ⟨_, _, hbelow, _⟩ := hb ▸ hrest
      rw [List.dropLast_concat] at hbelow
      exact hpush.trans ((congrArg (insertEntry x) hb).trans (insertEntry_beneath htrip hbelow ht))

/-! ### The fold -/

theorem UnitRec.foldsFromBase_iff (u : UnitRec) : u.foldsFromBase = true ↔
    (u.phase = .none ∧ (u.state = .running ∨ u.state = .paused)) ∨ u.phase = .starting := by
  unfold UnitRec.foldsFromBase
  cases hp : u.phase <;> simp

theorem foldStack_concat (b : Bool) (v : Nat) (l : List Entry) (x : Entry) : foldStack b v (l ++ [x]) =
    if b || decide (x.source = .trip) then x.apply (foldStack b v l) else foldStack b v l := by
  simp [foldStack, List.foldl_append]

/-- Settles O36. -/
theorem foldInOrder : Obligations.FoldInOrder := by
  intro ch u l x hstack fromBase below
  have hfold : ch.fold fromBase = if fromBase || decide (x.source = .trip) then x.apply below else below := by
    show foldStack fromBase _ ch.stack = _
    rw [hstack, foldStack_concat]
    rfl
  refine ⟨u.foldsFromBase_iff, rfl, fun hsafe hx => ?_, fun happly => ?_, fun htrip hvalue => ?_⟩
  · rw [hfold, if_neg (by simp [hsafe, hx])]
  · rw [hfold, if_pos (by simpa using happly)]
    rfl
  · rw [hfold, if_pos (by simp [htrip])]
    simp only [Entry.apply, hvalue]

/-! ### The pair of a FREQUENCY channel -/

/-- R3: the quotient rounded half up is the nearest whole number. -/
theorem roundHalfUp_bounds {a b : Nat} (hb : 0 < b) :
    (2 * (roundHalfUp a b : Int) - 1) * b ≤ 2 * a ∧ 2 * (a : Int) < (2 * (roundHalfUp a b : Int) + 1) * b := by
  have hle : roundHalfUp a b * (2 * b) ≤ 2 * a + b := Nat.div_mul_le_self _ _
  have hlt : 2 * a + b < (roundHalfUp a b + 1) * (2 * b) := Nat.lt_mul_of_div_lt (Nat.lt_succ_self _) (by omega)
  zify at hle hlt
  constructor <;> nlinarith

theorem pairOf_of_frequency {p : ChanParams} (h : p.mode = .frequency) (v : Nat) :
    p.pairOf v = freqPair p v ∧ p.lowLimitOf v = freqClamped p v := by
  simp only [ChanParams.pairOf, ChanParams.lowLimitOf, h, and_self]

/-- Settles O37. -/
theorem frequencyPair : Obligations.FrequencyPair := by
  intro p v
  refine ⟨fun hmode => ?frequency, fun hmode => ?other, fun hmode => ?oneshot⟩
  case frequency =>
    refine ⟨(pairOf_of_frequency hmode 0).1, (pairOf_of_frequency hmode 0).2, fun hpos => ⟨freqPeriod p v, ?_⟩⟩
    have hv : v ≠ 0 := by rintro rfl; simp at hpos
    have hdivisor : 0 < freqDivisor p v := Nat.mul_pos hpos (Nat.two_pow_pos _)
    obtain ⟨hlow, hhigh⟩ := roundHalfUp_bounds (a := 10 ^ 10) hdivisor
    have hcast : ((freqDivisor p v : Nat) : Int) = v * p.ffs * 2 ^ p.presc := by simp [freqDivisor]
    rw [hcast] at hlow hhigh
    obtain ⟨hpair, hclamp⟩ := pairOf_of_frequency hmode v
    refine ⟨hlow, hhigh, _, _, hpair.trans (if_neg hv), ?_, ?_, ?_, ?_⟩
    · omega
    · omega
    · omega
    · rw [hclamp]
      simp [freqClamped, hv]
  case other =>
    unfold ChanParams.lowLimitOf
    cases hm : p.mode with
    | frequency => exact absurd hm hmode
    | _ => rfl
  case oneshot => simp only [ChanParams.pairOf, hmode]

end Sys2Proof.Machine
end

section
/-! What a recomputed fold leaves of a channel (R12, R21), and SET_POINT and UNFORCE (R22, R24). -/

namespace Sys2Proof.Machine

variable {s t r e b : State} {u : UnitId}

/-! ### Channels that stay -/

/-- R12, R21: a target that is the fold already changes nothing, but where a ramp is cut short at rest. -/
theorem Channel.retarget_self (ch : Channel) (a : Bool) (h : a = true → ch.params.mode ≠ .oneshot → ch.applied = ch.target) :
    ch.retarget a ch.target = ch := by
  unfold Channel.retarget
  split
  · exact if_pos rfl
  · next hm =>
    split
    · next ha => exact if_pos (h ha hm).symm
    · rfl

theorem State.refold_keep (s : State) (c d : ChanId) (h : s.Folded c)
    (hr : (s.unit (unitOf c)).atRest = true → (s.chan c).params.mode ≠ .oneshot → (s.chan c).applied = (s.chan c).target) :
    (s.refold d).chan c = s.chan c := by
  rw [State.refold_eq, State.chan_modChan]
  split
  · next hcd =>
    subst hcd
    rw [← show (s.chan c).target = (s.chan c).fold (s.unit (unitOf c)).foldsFromBase from h]
    exact Channel.retarget_self _ _ hr
  · rfl

/-- R67: a unit enters a state with the fold of its channels as it was. -/
theorem State.stepTo_keep (s : State) (c : ChanId) (st : UState) (why : StateReason) (h : s.Folded c)
    (hf : ({ s.unit (unitOf c) with state := st, phase := .none } : UnitRec).foldsFromBase =
      (s.unit (unitOf c)).foldsFromBase)
    (hr : st = .standby ∨ st = .isolated → (s.chan c).params.mode ≠ .oneshot → (s.chan c).applied = (s.chan c).target) :
    (s.stepTo (unitOf c) st why).chan c = s.chan c := by
  have hrest : ({ s.unit (unitOf c) with state := st, phase := .none } : UnitRec).atRest = true →
      st = .standby ∨ st = .isolated := by simp [UnitRec.atRest]
  have key := State.each_induct
    (P := fun t => t.chan c = s.chan c ∧ t.unit (unitOf c) = { s.unit (unitOf c) with state := st, phase := .none })
    (unitChannels (unitOf c)) (fun c s => s.refold c)
    (fun d _ t ⟨hchan, hunit⟩ => by
      refine ⟨(t.refold_keep c d ?_ fun ha hm => ?_).trans hchan, ?_⟩
      · unfold State.Folded
        rw [hchan, hunit, hf]
        exact h
      · rw [hunit] at ha
        rw [hchan] at hm ⊢
        exact hr (hrest ha) hm
      · rw [State.refold_eq, State.modChan_unit]
        exact hunit)
    (s.modUnit (unitOf c) fun x => { x with state := st, phase := .none })
    ⟨rfl, by rw [State.unit_modUnit, if_pos rfl]⟩
  unfold State.stepTo State.queueUnitState State.queueUnit State.queueReaders
  rw [State.queue_chan]
  exact key.1

/-! ### Steps of a unit -/

theorem State.refoldUnit_map (s : State) (u : UnitId) : (s.refoldUnit u).map = s.map :=
  s.refoldUnit_frame (fun q => q.map) (fun _ _ _ => rfl) u

theorem State.stepTo_grows (s : State) (u : UnitId) (st : UState) (why : StateReason) : Grows s (s.stepTo u st why) := by
  unfold State.stepTo State.queueUnitState State.queueUnit State.queueReaders
  exact (grows_of_ports (State.refoldUnit_ports (s.modUnit u _) u) : Grows s _).queued _ _

theorem State.stepTo_map (s : State) (u : UnitId) (st : UState) (why : StateReason) : (s.stepTo u st why).map = s.map := by
  unfold State.stepTo State.queueUnitState State.queueUnit State.queueReaders
  exact State.refoldUnit_map (s.modUnit u _) u

/-- R71, R83: a step is told to the readers of the principal channel. -/
theorem State.stepTo_told (s : State) (u : UnitId) (st : UState) (why : StateReason) {m : Master}
    (hm : (s.entry (principal u)).readers.has m = true) : ((s.stepTo u st why).port m).Told ⟨s.ms, .unitState u st why⟩ := by
  let t := (s.modUnit u fun x => { x with state := st, phase := .none }).refoldUnit u
  have hentry : t.entry (principal u) = s.entry (principal u) := by
    simp only [State.entry, show t.map = s.map from State.refoldUnit_map (s.modUnit u _) u]
  have hms : t.ms = s.ms := State.refoldUnit_frame (s.modUnit u _) (fun q => q.ms) (fun _ _ _ => rfl) u
  have htold := t.queue_told (fun m => (t.entry (principal u)).readers.has m) (.unitState u st why) m (by rw [hentry]; exact hm)
  rw [hms] at htold
  exact htold

theorem State.clearPath_grows (s : State) (u : UnitId) : Grows s (s.clearPath u) := by
  unfold State.clearPath State.pathEnd State.queueAll
  split
  · exact (grows_of_ports rfl : Grows s ((s.modUnit u _).modGroup _ _)).queued _ _
  · exact grows_of_ports rfl

theorem State.clearPath_unit (s : State) (u v : UnitId) : (s.clearPath u).unit v =
    if v = u then { s.unit u with dest := none, timer := none } else s.unit v := by
  unfold State.clearPath
  rw [State.pathEnd_unit, State.unit_modUnit]

/-! ### The ends of phases -/

/-- R73: where a unit stands that ends STARTING. -/
theorem State.endStarting_unit (s : State) (u : UnitId) : (s.endStarting u).unit u = { s.unit u with
    state := if (s.unit u).dest = some .paused then .paused else .running, phase := .none, dest := none, timer := none } := by
  unfold State.endStarting
  dsimp only
  rw [State.clearPath_unit, if_pos rfl]
  split <;> simp only [State.stepTo_unit, if_pos]

theorem State.endStarting_told (s : State) (u : UnitId) {m : Master} (hm : (s.entry (principal u)).readers.has m = true) :
    ((s.endStarting u).port m).Told ⟨s.ms, .unitState u .running .go⟩ ∧
      ((s.unit u).dest = some .paused → ((s.endStarting u).port m).Told ⟨s.ms, .unitState u .paused .go⟩) := by
  have hrun := s.stepTo_told u .running .go hm
  unfold State.endStarting
  dsimp only
  split
  · have hpause := (s.stepTo u .running .go).stepTo_told u .paused .go (m := m)
      (by rw [State.entry, State.stepTo_map]; exact hm)
    rw [State.stepTo_ms] at hpause
    exact ⟨((State.stepTo_grows _ u _ _).trans (State.clearPath_grows _ u)).told hrun,
      fun _ => (State.clearPath_grows _ u).told hpause⟩
  · next hdest => exact ⟨(State.clearPath_grows _ u).told hrun, fun hyes => absurd hyes hdest⟩

theorem State.endStarting_keep (s : State) (c : ChanId) (h : s.Folded c) (hp : (s.unit (unitOf c)).phase = .starting) :
    (s.endStarting (unitOf c)).chan c = s.chan c := by
  have hrun := s.stepTo_keep c .running .go h (by simp only [UnitRec.foldsFromBase, hp]; rfl) nofun
  have hpause := State.stepTo_keep (s.stepTo (unitOf c) .running .go) c .paused .go (s.stepTo_folded c _ _)
    (by rw [State.stepTo_unit, if_pos rfl]; rfl) nofun
  unfold State.endStarting
  dsimp only
  rw [State.clearPath_chan]
  split
  · exact hpause.trans hrun
  · exact hrun

/-- R76: where a unit stands whose drain ends. -/
theorem State.endDrain_unit (s : State) (u : UnitId) (why : StateReason) : (s.endDrain u why id).unit u = { s.unit u with
    state := if (s.unit u).phase = .isolating then .isolated else .standby
    phase := .none, dest := none, timer := none } := by
  unfold State.endDrain
  dsimp only [id]
  rw [State.clearPath_unit, if_pos rfl]
  split <;> simp only [State.stepTo_unit, if_pos, State.unit_modUnit]

theorem State.endDrain_told (s : State) (u : UnitId) (why : StateReason) {m : Master}
    (hm : (s.entry (principal u)).readers.has m = true) :
    ((s.endDrain u why id).port m).Told ⟨s.ms, .unitState u .standby why⟩ ∧
      ((s.unit u).phase = .isolating → ((s.endDrain u why id).port m).Told ⟨s.ms, .unitState u .isolated .go⟩) := by
  have hstand := (s.modUnit u fun x => { x with timer := none }).stepTo_told u .standby why hm
  unfold State.endDrain
  dsimp only [id]
  split
  · have hisolated := ((s.modUnit u fun x => { x with timer := none }).stepTo u .standby why).stepTo_told u .isolated .go (m := m)
      (by rw [State.entry, State.stepTo_map]; exact hm)
    rw [State.stepTo_ms] at hisolated
    exact ⟨((State.stepTo_grows _ u _ _).trans (State.clearPath_grows _ u)).told hstand,
      fun _ => (State.clearPath_grows _ u).told hisolated⟩
  · next hphase => exact ⟨(State.clearPath_grows _ u).told hstand, fun hyes => absurd hyes hphase⟩

theorem State.endDrain_ended (s : State) (u : UnitId) : DrainEnded s (s.endDrain u .drainEnd id) u :=
  ⟨s.endDrain_unit u _, fun _ hm => s.endDrain_told u _ hm⟩

/-- The end of a drain finds each target at its safe fold; with the ramps done, nothing moves. -/
theorem State.endDrain_keep (s : State) (c : ChanId) (why : StateReason) (h : s.Folded c)
    (hphase : (s.unit (unitOf c)).foldsFromBase = false)
    (hramp : (s.chan c).params.mode ≠ .oneshot → (s.chan c).applied = (s.chan c).target) :
    (s.endDrain (unitOf c) why id).chan c = s.chan c := by
  have hunit : (s.modUnit (unitOf c) fun x => { x with timer := none }).unit (unitOf c) =
      { s.unit (unitOf c) with timer := none } := by rw [State.unit_modUnit, if_pos rfl]
  have hfirst : ((s.modUnit (unitOf c) fun x => { x with timer := none }).stepTo (unitOf c) .standby why).chan c = s.chan c := by
    refine State.stepTo_keep (s.modUnit (unitOf c) fun x => { x with timer := none }) c .standby why ?_ ?_ fun _ => hramp
    · unfold State.Folded
      rw [hunit]
      exact h
    · rw [hunit]
      exact hphase.symm
  unfold State.endDrain
  dsimp only [id]
  rw [State.clearPath_chan]
  split
  · refine (State.stepTo_keep _ c .isolated .go (State.stepTo_folded _ c _ _) ?_ fun _ hm => ?_).trans hfirst
    · rw [State.stepTo_unit, if_pos rfl]
      rfl
    · rw [hfirst] at hm ⊢
      exact hramp hm
  · exact hfirst

/-! ### The test of a unit, by its phase -/

theorem State.testUnit_starting (hp : (s.unit u).phase = .starting) :
    s.testUnit u = if s.unitRampDone u then s.endStarting u else s := by
  unfold State.testUnit
  rw [hp]

theorem State.testUnit_drain (hp : (s.unit u).phase = .draining ∨ (s.unit u).phase = .isolating) :
    s.testUnit u = if (s.unit u).timer.isSome && s.drainMet u then s.endDrain u .drainEnd id else s := by
  unfold State.testUnit
  rcases hp with hp | hp <;> rw [hp]

/-- R73, R76: a channel whose target is its fold stays in the test of its unit. -/
theorem State.testUnit_keep (s : State) (c : ChanId) (h : s.Folded c) : (s.testUnit (unitOf c)).chan c = s.chan c := by
  have hdrain (hp : (s.unit (unitOf c)).phase = .draining ∨ (s.unit (unitOf c)).phase = .isolating) :
      (s.testUnit (unitOf c)).chan c = s.chan c := by
    rw [State.testUnit_drain hp]
    split
    · next hmet =>
      rw [Bool.and_eq_true] at hmet
      obtain ⟨hramps, _⟩ := (s.drainMet_iff _).mp hmet.2
      refine s.endDrain_keep c _ h ?_ (hramps c rfl)
      unfold UnitRec.foldsFromBase
      rcases hp with hp | hp <;> rw [hp]
    · rfl
  cases hp : (s.unit (unitOf c)).phase with
  | none => rw [State.testUnit_none s _ hp]
  | starting =>
    rw [State.testUnit_starting hp]
    split
    · exact s.endStarting_keep c h hp
    · rfl
  | draining => exact hdrain (.inl hp)
  | isolating => exact hdrain (.inr hp)

/-- The test of a unit whose targets are their folds moves no channel. -/
theorem State.testUnit_chan (s : State) (u : UnitId) (h : ∀ c, unitOf c = u → s.Folded c) (c : ChanId) :
    (s.testUnit u).chan c = s.chan c := by
  by_cases hc : unitOf c = u
  · rw [← hc]
    exact s.testUnit_keep c (h c hc)
  · exact (s.testUnit_within u).chan c hc

/-! ### Several folds of a unit -/

theorem State.refolds_chan (s : State) (l : List ChanId) {c : ChanId} (hc : c ∉ l) :
    (s.each l fun d q => q.refold d).chan c = s.chan c := by
  refine State.each_induct (P := fun q => q.chan c = s.chan c) l _ (fun d hd q hq => ?_) s rfl
  rw [State.refold_eq, State.chan_modChan, if_neg (by rintro rfl; exact hc hd)]
  exact hq

theorem State.refolds_unit (s : State) (l : List ChanId) (v : UnitId) :
    (s.each l fun d q => q.refold d).unit v = s.unit v :=
  State.each_frame (fun q => q.unit v) l _ (fun d q => by rw [State.refold_eq, State.modChan_unit]) s

theorem State.refolds_folded (s : State) (l : List ChanId) {c : ChanId} (hc : c ∈ l ∨ s.Folded c) :
    (s.each l fun d q => q.refold d).Folded c := by
  induction l generalizing s with
  | nil => simpa using hc
  | cons d l ih =>
    rw [State.each_cons]
    refine ih _ ?_
    rcases hc with hc | hc
    · rcases List.mem_cons.mp hc with rfl | hc
      · exact .inr (s.refold_folded _)
      · exact .inl hc
    · exact .inr (s.refold_keepsFolded d c hc)

/-- A channel folds once: the folds of the others, and of itself again, leave it. -/
theorem State.refolds_self (s : State) (l : List ChanId) {c : ChanId} (hc : c ∈ l) (hnodup : l.Nodup) :
    (s.each l fun d q => q.refold d).chan c =
      (s.chan c).retarget (s.unit (unitOf c)).atRest ((s.chan c).fold (s.unit (unitOf c)).foldsFromBase) := by
  induction l generalizing s with
  | nil => cases hc
  | cons d l ih =>
    obtain ⟨hnot, hnodup⟩ := List.nodup_cons.mp hnodup
    rw [State.each_cons]
    by_cases hd : c = d
    · subst hd
      rw [State.refolds_chan _ l hnot, State.refold_eq, State.chan_modChan, if_pos rfl]
    · have hmem : c ∈ l := (List.mem_cons.mp hc).resolve_left hd
      rw [ih _ hmem hnodup, State.refold_eq, State.chan_modChan, if_neg hd, State.modChan_unit]

/-- R21, R73, R75: the folds of some channels of a unit are recomputed, and the unit tested. -/
theorem State.refolds_settled (s : State) (u : UnitId) (l : List ChanId) (hl : ∀ c ∈ l, unitOf c = u) (hnodup : l.Nodup) :
    Settled s ((s.each l fun d q => q.refold d).testUnit u) (· ∈ l) := by
  have hfold (c : ChanId) (hc : c ∈ l) : (s.each l fun d q => q.refold d).Folded c := s.refolds_folded l (.inl hc)
  have hcalm : Calm s (s.each l fun d q => q.refold d) (· ∈ l) :=
    State.each_induct (P := fun q => Calm s q (· ∈ l)) l _ (fun c hc q hq => hq.trans (by
      rw [State.refold_eq]
      exact q.modChan_calm c _ hc)) s (.refl s _)
  have hgoes : Goes s (s.each l fun d q => q.refold d) := Goes.each (fun c _ q => q.refold_goes c) s
  refine (hcalm.trans (State.testUnit_calm _ u _)).settled (fun c hc => ?_) (fun c hc hm => ?_)
    (hgoes.trans (State.testUnit_goes _ u)).go
  · rw [← hl c hc]
    exact State.testUnit_folded _ c (hfold c hc)
  · rw [← hl c hc, State.testUnit_keep _ c (hfold c hc), s.refolds_self l hc hnodup]
    exact Channel.retarget_takes _ _ _ hm

end Sys2Proof.Machine
end

section
/-! SET_POINT and UNFORCE (R19, R22, R24, R110, R112). -/

namespace Sys2Proof.Machine

variable {s t r e b : State} {u : UnitId}

/-! ### SET_POINT -/

theorem State.modChan_comm (s : State) {c d : ChanId} (h : c ≠ d) (f g : Channel → Channel) :
    (s.modChan c f).modChan d g = (s.modChan d g).modChan c f := by
  have hd : (s.modChan c f).chan d = s.chan d := by rw [State.chan_modChan, if_neg h.symm]
  have hc : (s.modChan d g).chan c = s.chan c := by rw [State.chan_modChan, if_neg h]
  show ({ s with ch := (s.ch.set c (f (s.chan c))).set d (g ((s.modChan c f).chan d)) } : State) =
    { s with ch := (s.ch.set d (g (s.chan d))).set c (f ((s.modChan d g).chan c)) }
  rw [hc, hd, Vector.set_comm _ _ (fun heq => h (Fin.ext heq))]

theorem State.refold_modChan_comm (s : State) {c d : ChanId} (h : c ≠ d) (g : Channel → Channel) :
    (s.refold c).modChan d g = (s.modChan d g).refold c := by
  rw [State.refold_eq, State.refold_eq, s.modChan_comm h]
  rfl

/-- R110: the demand sets both bases, and both folds are recomputed. -/
theorem State.setDemand_eq (s : State) (d : Nat) : s.setDemand d =
    ((({ s with tsm := { s.tsm with demand := d } }.modChan 8 fun ch => { ch with base := s.tsm.params.gv1 d }).modChan 9
      fun ch => { ch with base := s.tsm.params.gv2 d }).each [8, 9] fun c q => q.refold c) := by
  show (((_ : State).refold 8).modChan 9 _).refold 9 = _
  rw [State.refold_modChan_comm _ (by decide)]
  rfl

/-- R12, R22: a new base moves no applied value that ramps: it ramps to the target, and at rest the base is not read. -/
theorem Channel.retarget_applied_keep (ch : Channel) (a : Bool) (v : Nat) (hm : ch.params.mode ≠ .oneshot)
    (h : a = true → v = ch.applied) : (ch.retarget a v).applied = ch.applied := by
  unfold Channel.retarget
  rw [if_neg hm]
  split
  · next ha => exact ((Channel.setApplied_spec _ v).2.2.2.2.1).trans (h ha)
  · rfl

theorem UnitRec.folds_safe_at_rest {x : UnitRec} (h : x.atRest = true) : x.foldsFromBase = false := by
  unfold UnitRec.atRest at h
  unfold UnitRec.foldsFromBase
  simp only [Bool.and_eq_true, Bool.or_eq_true, decide_eq_true_eq] at h
  obtain ⟨hp, hs | hs⟩ := h <;> rw [hp, hs] <;> rfl

/-- What a set point leaves of the applied values: `b` is the state with the new bases of the channels in `l`. -/
theorem State.rebased_applied (hf : e.ChannelsFollow) (l : List ChanId) (hnodup : l.Nodup)
    (hb : ∀ c, ∃ v, b.chan c = { e.chan c with base := v }) (hkeep : ∀ c, c ∉ l → b.chan c = e.chan c)
    (hu : ∀ v, b.unit v = e.unit v) (x : ChanId) (hm : (e.chan x).params.mode ≠ .oneshot) :
    (((b.each l fun c q => q.refold c).testUnit u).chan x).applied = (e.chan x).applied := by
  have hfolded (c : ChanId) : (b.each l fun c q => q.refold c).Folded c := by
    refine b.refolds_folded l ?_
    by_cases hc : c ∈ l
    · exact .inl hc
    · right
      unfold State.Folded
      rw [hkeep c hc, hu]
      exact (hf c).1
  rw [State.testUnit_chan _ u fun c _ => hfolded c]
  by_cases hx : x ∈ l
  · obtain ⟨v, hv⟩ := hb x
    rw [b.refolds_self l hx hnodup, hu, hv]
    refine Channel.retarget_applied_keep _ _ _ hm fun hrest => ?_
    obtain ⟨htarget, _, happlied, _⟩ := hf x
    rw [UnitRec.folds_safe_at_rest hrest] at htarget ⊢
    exact htarget.symm.trans (happlied hrest).symm
  · rw [b.refolds_chan l hx, hkeep x hx]

theorem State.refolds_same (s : State) (l : List ChanId) (u : UnitId) :
    Same s ((s.each l fun c q => q.refold c).testUnit u) :=
  (Raws.each l _ (fun c q => q.refold_raws c) s).same.trans (State.testUnit_reacts _ u).same

theorem State.refolds_stack (s : State) (l : List ChanId) (u : UnitId) (c : ChanId) :
    (((s.each l fun c q => q.refold c).testUnit u).chan c).stack = (s.chan c).stack :=
  ((State.testUnit_within _ u).stack c).trans
    (State.each_frame (fun q => (q.chan c).stack) l _ (fun d q => q.refold_stack d c) s)

/-- Settles O31. -/
theorem setPointStores : Obligations.SetPointStores := by
  intro s m tag c v hrun e o d p both
  have howner : ownSetPoint m (BitVec.ofNat 8 c) v e = e.needWriter (e.writes m c)
      (if c = 9 ∧ p.sequenced then e.answer .slaved else if (e.unit (unitOf c)).isIsolated then e.answer .unitIsolated
        else (e.storePoint c d).answer (if 1000 < v.toNat then .clamped else .ok)) := by
    simp only [ownSetPoint, channelField_ofNat, State.index]
    rfl
  have hisolated : (e.unit (unitOf c)).isIsolated = true ↔
      (e.unit (unitOf c)).state = .isolated ∧ (e.unit (unitOf c)).phase = .none := by
    simp only [UnitRec.isIsolated, Bool.and_eq_true, decide_eq_true_eq, and_comm]
  split
  case isTrue h => exact exec_not_writer _ hrun rfl h howner
  case isFalse hwriter =>
  split
  case isTrue h =>
    rw [if_pos h.symm] at howner
    exact exec_writer _ _ hrun rfl hwriter howner
  case isFalse hslaved =>
  rw [if_neg fun h => hslaved h.symm] at howner
  split
  case isTrue h =>
    rw [if_pos (hisolated.mpr h)] at howner
    exact exec_writer _ _ hrun rfl hwriter howner
  case isFalse hfree =>
  rw [if_neg (mt hisolated.mp hfree)] at howner
  have hdone := exec_writer _ _ hrun (i := .setPoint m tag (BitVec.ofNat 8 c) v) rfl hwriter howner
  by_cases hboth : both
  · obtain ⟨hseq, rfl⟩ := hboth
    let b := ({ e with tsm := { e.tsm with demand := d } }.modChan 8 fun ch => { ch with base := p.gv1 d }).modChan 9
      fun ch => { ch with base := p.gv2 d }
    have hr : e.storePoint 8 d = (b.each [8, 9] fun c q => q.refold c).testUnit (unitOf 8) := by
      unfold State.storePoint
      rw [if_pos ⟨rfl, hseq⟩, State.setDemand_eq]
    rw [hr] at hdone
    have hchan (x : ChanId) : b.chan x = if x = 9 then { e.chan 9 with base := p.gv2 d }
        else if x = 8 then { e.chan 8 with base := p.gv1 d } else e.chan x := by
      simp only [b, State.chan_modChan]
      rfl
    have hunits : ∀ c ∈ ([8, 9] : List ChanId), unitOf c = unitOf 8 := by decide
    refine ⟨b, _, hdone, fun _ => rfl, fun hnot => absurd ⟨hseq, rfl⟩ hnot, b.refolds_same [8, 9] _, ?_, fun x => ?_,
      fun hf => State.rebased_applied hf [8, 9] (by decide) (fun x => ?_) (fun x hx => ?_) fun _ => rfl⟩
    · have htouched : (fun x : ChanId => x = 8 ∨ both ∧ x = 9) = (· ∈ [8, 9]) := by
        funext x
        simp [both, hseq]
      rw [htouched]
      exact b.refolds_settled (unitOf 8) [8, 9] hunits (by decide)
    · refine (b.refolds_stack [8, 9] _ x).trans ?_
      rw [hchan]
      split_ifs with h9 h8
      · rw [h9]
      · rw [h8]
      · rfl
    · rw [hchan]
      split_ifs with h9 h8
      · exact ⟨_, by rw [h9]⟩
      · exact ⟨_, by rw [h8]⟩
      · exact ⟨(e.chan x).base, rfl⟩
    · simp only [List.mem_cons, List.not_mem_nil, or_false, not_or] at hx
      rw [hchan, if_neg hx.2, if_neg hx.1]
  · let b := e.modChan c fun ch => { ch with base := d }
    have hr : e.storePoint c d = (b.each [c] fun c q => q.refold c).testUnit (unitOf c) := by
      unfold State.storePoint
      rw [if_neg fun h => hboth h.symm]
      rfl
    rw [hr] at hdone
    have hchan (x : ChanId) : b.chan x = if x = c then { e.chan c with base := d } else e.chan x := e.chan_modChan c x _
    have hunits : ∀ x ∈ [c], unitOf x = unitOf c := by simp
    refine ⟨b, _, hdone, fun hyes => absurd hyes hboth, fun _ => rfl, b.refolds_same [c] _, ?_, fun x => ?_,
      fun hf => State.rebased_applied hf [c] (by simp) (fun x => ?_) (fun x hx => ?_) fun _ => rfl⟩
    · have htouched : (fun x : ChanId => x = c ∨ both ∧ x = 9) = (· ∈ [c]) := by
        funext x
        simp [hboth]
      rw [htouched]
      exact b.refolds_settled (unitOf c) [c] hunits (by simp)
    · refine (b.refolds_stack [c] _ x).trans ?_
      rw [hchan]
      split_ifs with hx
      · rw [hx]
      · rfl
    · rw [hchan]
      split_ifs with hx
      · exact ⟨_, by rw [hx]⟩
      · exact ⟨(e.chan x).base, rfl⟩
    · rw [hchan, if_neg (by simpa using hx)]

/-! ### UNFORCE -/

/-- Settles O34. -/
theorem unforceRemoves : Obligations.UnforceRemoves := by
  intro s m tag c hrun e o
  have howner : ownUnforce m (BitVec.ofNat 8 c) e = e.needWriter (e.writes m c) ((e.remove c .force).answer .ok) := by
    simp only [ownUnforce, channelField_ofNat, State.index]
  split
  case isTrue h => exact exec_not_writer _ hrun rfl h howner
  case isFalse hwriter =>
  have hdone := exec_writer _ _ hrun (i := .unforce m tag (BitVec.ofNat 8 c)) rfl hwriter howner
  split
  case isTrue h =>
    rw [e.remove_none c .force ((hasSource_false _ _).mpr h)] at hdone
    exact hdone
  case isFalse h =>
    have hforce : hasSource .force (e.chan c).stack = true := by
      rw [← Bool.not_eq_false, hasSource_false]
      exact h
    obtain ⟨hsettled, hstack⟩ := e.remove_settled c .force hforce
    refine ⟨_, hdone, (e.remove_reacts c .force nofun nofun).same, hsettled, hstack, fun hm hp hpaused => ?_⟩
    show ((e.remove c .force).chan c).applied = _
    unfold State.remove
    rw [if_pos hforce, State.testUnit_none _ _ (by rw [State.refold_eq]; exact hp), State.refold_eq, State.chan_modChan,
      if_pos rfl, State.chan_modChan, if_pos rfl]
    refine Channel.retarget_applied_keep _ _ _ hm fun hrest => ?_
    simp [UnitRec.atRest, hpaused] at hrest

end Sys2Proof.Machine
end

section
/-! Arrivals of momentary causes (R89, R92, R105), and FORCE with the entry it discards (R17, R18, R23, R144). -/

namespace Sys2Proof.Machine

variable {s t r e : State} {g h : Group} {c : Cause}

/-! ### The CAUSE_NEW of an arrival -/

theorem GroupRec.hasUnrecorded_iff (x : GroupRec) (c : Cause) : x.hasUnrecorded c = true ↔ ∃ y ∈ x.unrecorded, y.cause = c := by
  simp [GroupRec.hasUnrecorded]

/-- R105: what an arrival queues as CAUSE_NEW. -/
def Recorded.asNew : Recorded → Option Bool
  | .none => Option.none
  | .appended => some true
  | .unrecorded => some false

theorem GroupRec.arrive_newRecord (x : GroupRec) (c : Cause) (cls : CauseClass) (now : Word) (hm : c.isMomentary = false) :
    (x.arrive c cls now).2.asNew = x.newRecord c := by
  unfold GroupRec.arrive GroupRec.newRecord
  by_cases hin : ∃ r ∈ x.log, r.cause = c
  · rw [if_pos ((x.has_iff c).mpr hin), if_pos hin]
    rfl
  · rw [if_neg (mt (x.has_iff c).mp hin), if_neg hin]
    by_cases hroom : x.log.length < 8
    · rw [if_pos hroom, if_pos (show x.log.length < logSize from hroom)]
      rfl
    · rw [if_neg hroom, if_neg (show ¬x.log.length < logSize from hroom)]
      by_cases hset : ∃ y ∈ x.unrecorded, y.cause = c
      · simp only [if_pos ((x.hasUnrecorded_iff c).mpr hset), if_pos (And.intro hm hset), Recorded.asNew]
      · simp only [if_neg (mt (x.hasUnrecorded_iff c).mp hset), if_neg fun hall : _ ∧ _ => hset hall.2, Recorded.asNew]

theorem GroupRec.arriveMomentary_newRecord (x : GroupRec) (c : Cause) (cls : CauseClass) (now : Word)
    (hm : c.isMomentary = true) : (x.arriveMomentary c cls now).2.asNew = x.newRecord c := by
  unfold GroupRec.arriveMomentary GroupRec.newRecord
  by_cases hin : ∃ r ∈ x.log, r.cause = c
  · rw [if_pos ((x.has_iff c).mpr hin), if_pos hin]
    rfl
  · rw [if_neg (mt (x.has_iff c).mp hin), if_neg hin]
    by_cases hroom : x.log.length < 8
    · rw [if_pos hroom, if_pos (show x.log.length < logSize from hroom)]
      rfl
    · rw [if_neg hroom, if_neg (show ¬x.log.length < logSize from hroom), if_neg (by simp [hm])]
      rfl

/-- R105: CAUSE_NEW goes to every port. -/
theorem State.recordWith_told (s : State) (g : Group) (c : Cause) (cls : CauseClass) (mom : Bool) (x : GroupRec × Recorded)
    {b : Bool} (hb : x.2.asNew = some b) (m : Master) :
    ((s.recordWith g c cls mom x).port m).Told ⟨s.ms, .causeNew g c cls mom b⟩ := by
  unfold State.recordWith State.queueAll
  dsimp only
  cases hx : x.2 with
  | none => simp [hx, Recorded.asNew] at hb
  | appended =>
    rw [hx] at hb
    obtain rfl := Option.some.inj hb
    exact State.queue_told _ (fun _ => true) _ m rfl
  | unrecorded =>
    rw [hx] at hb
    obtain rfl := Option.some.inj hb
    exact State.queue_told _ (fun _ => true) _ m rfl

theorem State.recordWith_frame {β : Type} (p : State → β) (hqueue : ∀ q who b, p (State.queue q who b) = p q)
    (hgroup : ∀ q g f, p (State.modGroup q g f) = p q) (s : State) (g : Group) (c : Cause) (cls : CauseClass) (mom : Bool)
    (x : GroupRec × Recorded) : p (s.recordWith g c cls mom x) = p s := by
  unfold State.recordWith State.queueAll
  dsimp only
  split <;> simp only [hqueue, hgroup]

/-! ### Momentary causes -/

/-- R89: what a momentary arrival leaves of the groups. -/
theorem State.momentary_group (s : State) (g h : Group) (hm : c.isMomentary = true) : (s.momentary g c).group h =
    if h = g then { (s.group g).withArrival c .alarm s.ms with
      level := if (s.group g).level = .trip then .trip else ((s.group g).withArrival c .alarm s.ms).quietLevel }
    else s.group h := by
  have hlevel : ((s.group g).arriveMomentary c .alarm s.ms).1.level = (s.group g).level :=
    (GroupRec.arriveMomentary_spec ..).2.1
  rw [GroupRec.arriveMomentary_eq _ _ _ _ hm] at hlevel
  unfold State.momentary
  rw [State.relevel_group, State.recordWith_group, State.recordWith_group, if_pos rfl, GroupRec.arriveMomentary_eq _ _ _ _ hm,
    hlevel]
  split <;> rfl

/-- R89, R92, R105: a momentary cause of ALARM class has arrived in a group, from `e` to `r`. -/
structure MomentaryArrived (e r : State) (g : Group) (c : Cause) : Prop where
  record : r.group g = { (e.group g).withArrival c .alarm e.ms with level := (r.group g).level, busy := (r.group g).busy }
  level : (e.group g).level ≠ .trip → ((r.group g).level = .alarm ↔ (r.group g).asksAlarm)
  told : ∀ b, (e.group g).newRecord c = some b → ∀ m, (r.port m).Told ⟨e.ms, .causeNew g c .alarm true b⟩

theorem State.momentary_arrived (s : State) (g : Group) (hm : c.isMomentary = true) :
    MomentaryArrived s (s.momentary g c) g c := by
  have hgroup := s.momentary_group (c := c) g g hm
  rw [if_pos rfl] at hgroup
  refine ⟨?_, fun hl => ?_, fun b hb m => ?_⟩
  · rw [hgroup]
  · rw [hgroup]
    dsimp only
    rw [if_neg hl]
    exact GroupRec.quietLevel_alarm _
  · refine (State.relevel_goes _ g).grows.told (s.recordWith_told g c .alarm true _ ?_ m)
    rw [GroupRec.arriveMomentary_newRecord _ _ _ _ hm]
    exact hb

/-- What follows an arrival and changes only busy flags keeps it. -/
theorem MomentaryArrived.settle (h : MomentaryArrived e t g c) (hgrow : Grows t r)
    (hgroup : r.group g = { t.group g with busy := (r.group g).busy }) : MomentaryArrived e r g c where
  record := by
    have hrecord := h.record
    generalize t.group g = x at hrecord hgroup
    rw [hgroup, hrecord]
  level hl := by
    have hlevel := h.level hl
    rw [hgroup]
    exact hlevel
  told b hb m := hgrow.told (h.told b hb m)

theorem MomentaryArrived.of_eq (h : MomentaryArrived t r g c) (hgroup : t.group g = e.group g) (hms : t.ms = e.ms) :
    MomentaryArrived e r g c where
  record := by rw [← hgroup, ← hms]; exact h.record
  level := by rw [← hgroup]; exact h.level
  told := by rw [← hgroup, ← hms]; exact h.told

/-! ### Discards -/

/-- The state after the discard that a push makes, if any (R17, R18). -/
def State.afterDiscard (s : State) (c : ChanId) (x : Entry) : State :=
  match discardedBy x (s.chan c).stack with
  | some y => s.discarded c y
  | none => s

theorem State.afterDiscard_none {s : State} {c : ChanId} {x : Entry} (h : discardedBy x (s.chan c).stack = none) :
    s.afterDiscard c x = s := by
  unfold State.afterDiscard
  rw [h]

theorem State.afterDiscard_some {s : State} {c : ChanId} {x y : Entry} (h : discardedBy x (s.chan c).stack = some y) :
    s.afterDiscard c x = s.discarded c y := by
  unfold State.afterDiscard
  rw [h]

theorem State.afterDiscard_frame {β : Type} (p : State → β) (hqueue : ∀ q who b, p (State.queue q who b) = p q)
    (hgroup : ∀ q g f, p (State.modGroup q g f) = p q) (hguard : ∀ q k x, p (State.setGuard q k x) = p q)
    (s : State) (c : ChanId) (x : Entry) : p (s.afterDiscard c x) = p s := by
  unfold State.afterDiscard
  split
  · exact State.discarded_frame p hqueue hgroup hguard s c _
  · rfl

theorem State.afterDiscard_chan (s : State) (c d : ChanId) (x : Entry) : (s.afterDiscard c x).chan d = s.chan d :=
  State.afterDiscard_frame (fun q => q.chan d) (fun _ _ _ => rfl) (fun _ _ _ => rfl) (fun q k x => q.setGuard_chan k x d) s c x

theorem State.afterDiscard_unit (s : State) (c : ChanId) (x : Entry) (u : UnitId) : (s.afterDiscard c x).unit u = s.unit u :=
  State.afterDiscard_frame (fun q => q.unit u) (fun _ _ _ => rfl) (fun _ _ _ => rfl) (fun q k x => q.setGuard_unit k x u) s c x

theorem State.afterDiscard_goes (s : State) (c : ChanId) (x : Entry) : Goes s (s.afterDiscard c x) := by
  unfold State.afterDiscard
  split
  · exact s.discarded_goes c _
  · exact .refl s

/-- R16, R21: what follows the discard of a push is the recomputed fold. -/
theorem State.push_after (s : State) (c : ChanId) (x : Entry) : Settled (s.afterDiscard c x) (s.push c x) (· = c) := by
  have h := (s.afterDiscard c x).refold_settled c (fun ch => { ch with stack := pushEntry x ch.stack }) ⟨rfl, rfl, rfl, rfl, rfl⟩
  exact h.1

theorem State.loseGuard_told (s : State) (k : GuardId) (h : (s.guard k).state ≠ .clear) {m : Master}
    (hm : (s.entry k.chan).readers.has m = true) :
    ((s.loseGuard k).port m).Told ⟨s.ms, .guardState k.chan .clear .overflow none⟩ := by
  let t := s.setGuard k (s.guard k).cleared
  have hguard : t.guard k = (s.guard k).cleared := by rw [State.guard_setGuard, if_pos rfl]
  have hkept : t.ms = s.ms ∧ t.map = s.map := by cases k <;> exact ⟨rfl, rfl⟩
  have hentry : t.entry k.chan = s.entry k.chan := by simp only [State.entry, hkept.2]
  unfold State.loseGuard State.tellGuard State.queueReaders
  dsimp only
  have hne : (s.guard k).cleared.state ≠ (s.guard k).state := Ne.symm h
  rw [hguard, if_neg hne]
  have htold := t.queue_told (fun m => (t.entry k.chan).readers.has m) (.guardState k.chan .clear .overflow none) m
    (by rw [hentry]; exact hm)
  rw [hkept.1] at htold
  exact htold

theorem State.loseGuard_grows (s : State) (k : GuardId) : Grows s (s.loseGuard k) :=
  ((s.setGuard_goes k _).trans (State.tellGuard_goes _ k _ _)).grows

/-- R18: a discarded SCALE entry goes to its guard, and GUARD_LOST arrives. -/
theorem State.discarded_scale (s : State) (c : ChanId) (y : Entry) (hy : y.source = .scale) :
    MomentaryArrived s (s.discarded c y) (chanGroup c) (.guardLost c) ∧
    ∀ k, guardOf c = some k → (s.discarded c y).guard k = (s.guard k).cleared ∧ ((s.guard k).state ≠ .clear → ∀ m,
      (s.entry c).readers.has m = true → ((s.discarded c y).port m).Told ⟨s.ms, .guardState c .clear .overflow none⟩) := by
  constructor
  · unfold State.discarded
    rw [if_pos hy]
    dsimp only
    split
    · next k _ =>
      exact (State.momentary_arrived (s.loseGuard k) _ rfl).of_eq (s.loseGuard_group k _) (s.loseGuard_same k).ms
    · exact s.momentary_arrived _ rfl
  · intro k hk
    have hchan := guardOf_eq_some.mp hk
    refine ⟨by rw [State.discarded_guard, if_pos ⟨hy, hchan⟩], fun hstate m hm => ?_⟩
    have htold := s.loseGuard_told k hstate (m := m) (by rw [hchan]; exact hm)
    unfold State.discarded
    rw [if_pos hy, hk]
    rw [hchan] at htold
    exact (State.momentary_goes _ _ _).grows.told htold

/-- R18: any other discarded entry is reported to the readers. -/
theorem State.discarded_other (s : State) (c : ChanId) (y : Entry) (hy : y.source ≠ .scale) :
    s.discarded c y = s.queueReaders c (.overrideLost c y.source y.kind y.value) := if_neg hy

/-! ### FORCE -/

/-- Settles O33. -/
theorem forcePushes : Obligations.ForcePushes := by
  intro s m tag c k v hrun e o x
  have howner : ownForce m (BitVec.ofNat 8 c) (BitVec.ofNat 8 k.code) v e = e.needWriter (e.writes m c)
      ((e.push c x).answer (if 1000 < v.toNat then .clamped else .ok)) := by
    simp only [ownForce, channelField_ofNat, kindField_code, State.index]
    rfl
  split
  case isTrue h => exact exec_not_writer _ hrun rfl h howner
  case isFalse hwriter =>
  have hsettled := e.push_after c x
  have hgrow : Grows (e.afterDiscard c x) (e.push c x) :=
    ((State.modChan_goes _ c _).trans ((State.refold_goes _ c).trans (State.testUnit_goes _ _))).grows
  refine ⟨e.push c x, exec_writer _ _ hrun rfl hwriter howner, by rw [e.push_stack, if_pos rfl],
    fun d hd => by rw [e.push_stack, if_neg hd], (e.push_reacts c x nofun nofun).same, fun u hu => ?unit, (e.push_goes c x).go,
    fun hm => ?oneShot, fun hnone => ?kept, fun y hy => ⟨fun hother => ?other, fun hscale => ?scale⟩⟩
  case unit =>
    have hkept := e.afterDiscard_unit c x u
    exact (hsettled.unit u (by rw [hkept]; exact hu)).trans hkept
  case oneShot =>
    have htakes := hsettled.oneShot c rfl
    rw [State.afterDiscard_chan] at htakes
    exact htakes hm
  case kept =>
    rw [State.afterDiscard_none hnone] at hsettled
    exact hsettled
  case other =>
    rw [State.afterDiscard_some hy, State.discarded_other _ _ _ hother] at hsettled hgrow
    refine ⟨hsettled.swu, hsettled.tsm, hsettled.group, fun n hn => hgrow.told ?_⟩
    exact e.queue_told (fun n => (e.entry c).readers.has n) _ n hn
  case scale =>
    rw [State.afterDiscard_some hy] at hsettled hgrow
    obtain ⟨harrived, hguard⟩ := e.discarded_scale c y hscale
    obtain ⟨hrecord, hlevel, htold⟩ := harrived.settle hgrow (hsettled.group _)
    refine ⟨fun q hq => ?_, hrecord, hlevel, fun b hb n => htold b hb n⟩
    obtain ⟨hclear, hstate⟩ := hguard q hq
    exact ⟨(State.guard_of_swu hsettled.swu q).trans hclear, fun hne n hn => hgrow.told (hstate hne n hn)⟩

end Sys2Proof.Machine
end

section
/-! The drain timer (R77). -/

namespace Sys2Proof.Machine

variable {s t r e : State} {u : UnitId}

/-! ### The end of a path -/

/-- R78: a path is over, and since `e` nothing but its unit has moved among the phases and the busy flags. -/
theorem State.clearPath_ends (s : State) (u : UnitId) (hu : (s.unit u).phase = .none)
    (hv : ∀ v, v ≠ u → s.unit v = e.unit v) (hms : s.ms = e.ms)
    (hgroup : ∀ g, (s.group g).busy = (e.group g).busy ∧ (s.group g).started = (e.group g).started) :
    GoEnds e (s.clearPath u) := by
  intro hbusy
  let q := s.modUnit u fun x => { x with dest := none, timer := none }
  have hphase (v : UnitId) : (q.unit v).phase = if v = u then .none else (e.unit v).phase := by
    show ((s.modUnit u _).unit v).phase = _
    rw [State.unit_modUnit]
    split
    · exact hu
    · next hne => rw [hv v hne]
  refine ⟨fun g => ?_, fun g hg hr m => ?_⟩
  · refine State.pathEnd_matches e q (unitGroup u) g (hgroup g).1 (fun v _ hp => ?_) (fun hne v hvg => ?_) (hbusy g)
    · rw [hphase] at hp
      split at hp
      · exact absurd rfl hp
      · exact hp
    · rw [hphase, if_neg]
      rintro rfl
      exact hne (unitGroup_of_mem hvg).symm
  · have hflag : ((q.pathEnd (unitGroup u)).group g).busy = false := hr
    have hqbusy (g : Group) : (q.group g).busy = (e.group g).busy := (hgroup g).1
    rw [State.pathEnd_busy] at hflag
    split at hflag
    · next hgu =>
      subst hgu
      rw [hqbusy, hg, Bool.true_and] at hflag
      have htold := State.queue_told (q.modGroup (unitGroup u) fun x => { x with busy := false }) (fun _ => true)
        (.goDone (unitGroup u) false (q.group (unitGroup u)).started) m rfl
      show ((q.pathEnd (unitGroup u)).port m).Told _
      unfold State.pathEnd State.queueAll
      rw [if_pos (by rw [hqbusy, hg, hflag]; rfl), ← hms, ← (hgroup (unitGroup u)).2]
      exact htold
    · rw [hqbusy, hg] at hflag
      cases hflag

theorem State.clearPath_group (s : State) (u : UnitId) (g : Group) : (s.clearPath u).group g =
    { s.group g with busy := ((s.clearPath u).group g).busy } := by
  unfold State.clearPath State.pathEnd State.queueAll
  split
  · rw [State.queue_group, State.group_modGroup]
    split
    · next hg => rw [hg]; rfl
    · rfl
  · rfl

theorem State.clearPath_group_other (s : State) {u : UnitId} {g : Group} (h : g ≠ unitGroup u) :
    (s.clearPath u).group g = s.group g := by
  unfold State.clearPath State.pathEnd State.queueAll
  split
  · rw [State.queue_group, State.group_modGroup, if_neg h]
    rfl
  · rfl

/-! ### A unit that comes to rest -/

theorem unitChannels_nodup (u : UnitId) : (unitChannels u).Nodup := by revert u; decide

theorem Channel.retarget_rest (ch : Channel) (v : Nat) (hm : ch.params.mode ≠ .oneshot) :
    (ch.retarget true v).applied = v ∧ (ch.retarget true v).target = v := by
  refine ⟨?_, (Channel.retarget_spec ch true v).2.2.2⟩
  unfold Channel.retarget
  rw [if_neg hm, if_pos rfl]
  exact (Channel.setApplied_spec _ v).2.2.2.2.1

/-- R67, R71: each channel of a unit that steps takes its fold. -/
theorem State.stepTo_chan (s : State) (c : ChanId) (st : UState) (why : StateReason) :
    let x : UnitRec := { s.unit (unitOf c) with state := st, phase := .none }
    (s.stepTo (unitOf c) st why).chan c = (s.chan c).retarget x.atRest ((s.chan c).fold x.foldsFromBase) := by
  have hself := (s.modUnit (unitOf c) fun x => { x with state := st, phase := .none }).refolds_self (unitChannels (unitOf c))
    (mem_unitChannels c) (unitChannels_nodup _)
  rw [State.unit_modUnit, if_pos rfl] at hself
  exact hself

theorem State.stepTo_chan_other (s : State) {u : UnitId} {c : ChanId} (h : unitOf c ≠ u) (st : UState) (why : StateReason) :
    (s.stepTo u st why).chan c = s.chan c := ((Within.refl s u).stepped st why).chan c h

theorem State.stepTo_params (s : State) (c : ChanId) (st : UState) (why : StateReason) :
    ((s.stepTo (unitOf c) st why).chan c).params = (s.chan c).params := by
  rw [State.stepTo_chan]
  exact (Channel.retarget_spec _ _ _).1

/-- R12, R67: a step to STANDBY or ISOLATED sets the channels to their safe folds. -/
theorem State.stepTo_rest (s : State) (c : ChanId) {st : UState} (hst : st = .standby ∨ st = .isolated) (why : StateReason)
    (hm : (s.chan c).params.mode ≠ .oneshot) : ((s.stepTo (unitOf c) st why).chan c).applied = (s.chan c).fold false ∧
      ((s.stepTo (unitOf c) st why).chan c).target = (s.chan c).fold false := by
  rw [State.stepTo_chan]
  rcases hst with rfl | rfl <;> exact Channel.retarget_rest _ _ hm

theorem State.stepTo_fold (s : State) (c : ChanId) (st : UState) (why : StateReason) (b : Bool) :
    ((s.stepTo (unitOf c) st why).chan c).fold b = (s.chan c).fold b := by
  rw [State.stepTo_chan]
  have h := Channel.retarget_spec (s.chan c) (UnitRec.atRest { s.unit (unitOf c) with state := st, phase := .none })
    ((s.chan c).fold (UnitRec.foldsFromBase { s.unit (unitOf c) with state := st, phase := .none }))
  exact Channel.fold_congr h.1 h.2.1 h.2.2.1 b

/-! ### The drain timer -/

/-- The state between the two steps of an ISOLATING unit (R77). -/
def State.drainStopped (s : State) (u : UnitId) : State :=
  ((s.modUnit u fun x => { x with timer := none }).stepTo u .standby .drainTimeout).momentary (unitGroup u) (.drainTimeout u)

theorem State.drainExpired_eq (s : State) (u : UnitId) : s.drainExpired u =
    (if (s.unit u).phase = .isolating then (s.drainStopped u).stepTo u .isolated .go else s.drainStopped u).clearPath u := rfl

theorem State.momentary_chan (s : State) (g : Group) (c : Cause) (d : ChanId) : (s.momentary g c).chan d = s.chan d :=
  State.momentary_frame (fun q => q.chan d) (fun _ _ _ => rfl) (fun _ _ _ => rfl) s g c

theorem State.momentary_unit (s : State) (g : Group) (c : Cause) (v : UnitId) : (s.momentary g c).unit v = s.unit v :=
  State.momentary_frame (fun q => q.unit v) (fun _ _ _ => rfl) (fun _ _ _ => rfl) s g c

theorem State.drainStopped_chan (s : State) (u : UnitId) (c : ChanId) : (s.drainStopped u).chan c =
    ((s.modUnit u fun x => { x with timer := none }).stepTo u .standby .drainTimeout).chan c := State.momentary_chan _ _ _ c

theorem State.drainStopped_unit (s : State) (u v : UnitId) : (s.drainStopped u).unit v =
    if v = u then { s.unit u with state := .standby, phase := .none, timer := none } else s.unit v := by
  rw [State.drainStopped, State.momentary_unit, State.stepTo_unit]
  by_cases hv : v = u
  · rw [if_pos hv, if_pos hv, State.unit_modUnit, if_pos rfl]
  · rw [if_neg hv, if_neg hv, State.unit_modUnit, if_neg hv]

/-- R77: the steps before the path is cleared, the second where the unit was ISOLATING. -/
def State.drainSteps (s : State) (u : UnitId) : State :=
  if (s.unit u).phase = .isolating then (s.drainStopped u).stepTo u .isolated .go else s.drainStopped u

theorem State.drainSteps_unit (s : State) (u v : UnitId) : (s.drainSteps u).unit v = if v = u then { s.unit u with
    state := if (s.unit u).phase = .isolating then .isolated else .standby, phase := .none, timer := none } else s.unit v := by
  unfold State.drainSteps
  by_cases hp : (s.unit u).phase = .isolating
  · rw [if_pos hp, if_pos hp, State.stepTo_unit, State.drainStopped_unit, if_pos rfl]
    split
    · rfl
    · next hv => rw [State.drainStopped_unit, if_neg hv]
  · rw [if_neg hp, if_neg hp, State.drainStopped_unit]

theorem State.drainSteps_group (s : State) (u : UnitId) : (s.drainSteps u).groups = (s.drainStopped u).groups := by
  unfold State.drainSteps
  split
  · exact State.stepTo_groups ..
  · rfl

theorem State.drainStopped_arrived (s : State) (u : UnitId) :
    MomentaryArrived s (s.drainStopped u) (unitGroup u) (.drainTimeout u) := by
  have hgroups : ((s.modUnit u fun x => { x with timer := none }).stepTo u .standby .drainTimeout).groups = s.groups :=
    State.stepTo_groups ..
  exact (State.momentary_arrived _ _ rfl).of_eq (by simp only [State.group, hgroups]) (State.stepTo_ms ..)

theorem State.drainStopped_group_other (s : State) {u : UnitId} {g : Group} (h : g ≠ unitGroup u) :
    (s.drainStopped u).group g = s.group g := by
  rw [State.drainStopped, State.momentary_group _ _ _ rfl, if_neg h]
  simp only [State.group, State.stepTo_groups]
  rfl

theorem State.drainSteps_grows (s : State) (u : UnitId) : Grows (s.drainStopped u) (s.drainSteps u) := by
  unfold State.drainSteps
  split
  · exact State.stepTo_grows _ u _ _
  · exact .refl _

theorem State.drainSteps_within (s : State) (u : UnitId) :
    (∀ c, ((s.drainSteps u).chan c).stack = (s.chan c).stack ∧ (unitOf c ≠ u → (s.drainSteps u).chan c = s.chan c)) ∧
    (s.drainSteps u).swu = s.swu ∧ (s.drainSteps u).tsm = s.tsm := by
  have hfirst : Within s ((s.modUnit u fun x => { x with timer := none }).stepTo u .standby .drainTimeout) u :=
    ((Within.refl s u).noted _).stepped _ _
  have hswu := State.momentary_frame (fun q => q.swu) (fun _ _ _ => rfl) (fun _ _ _ => rfl)
    ((s.modUnit u fun x => { x with timer := none }).stepTo u .standby .drainTimeout) (unitGroup u) (.drainTimeout u)
  have htsm := State.momentary_frame (fun q => q.tsm) (fun _ _ _ => rfl) (fun _ _ _ => rfl)
    ((s.modUnit u fun x => { x with timer := none }).stepTo u .standby .drainTimeout) (unitGroup u) (.drainTimeout u)
  have hlast : Within (s.drainStopped u) (s.drainSteps u) u := by
    unfold State.drainSteps
    split
    · exact (Within.refl _ u).stepped _ _
    · exact .refl _ u
  refine ⟨fun c => ⟨?_, fun hc => ?_⟩, hlast.swu.trans (hswu.trans hfirst.swu), hlast.tsm.trans (htsm.trans hfirst.tsm)⟩
  · rw [hlast.stack, State.drainStopped_chan, hfirst.stack]
  · rw [hlast.chan c hc, State.drainStopped_chan, hfirst.chan c hc]

/-- R77, R12: the channels stand at their safe folds. -/
theorem State.drainSteps_rest (s : State) (c : ChanId) (hm : (s.chan c).params.mode ≠ .oneshot) :
    ((s.drainSteps (unitOf c)).chan c).applied = (s.chan c).fold false ∧
      ((s.drainSteps (unitOf c)).chan c).target = (s.chan c).fold false := by
  have hfirst := State.stepTo_rest (s.modUnit (unitOf c) fun x => { x with timer := none }) c (.inl rfl) .drainTimeout hm
  rw [← State.drainStopped_chan] at hfirst
  unfold State.drainSteps
  split
  · have hparams : ((s.drainStopped (unitOf c)).chan c).params = (s.chan c).params := by
      rw [State.drainStopped_chan]
      exact State.stepTo_params _ c _ _
    have hfold : ((s.drainStopped (unitOf c)).chan c).fold false = (s.chan c).fold false := by
      rw [State.drainStopped_chan]
      exact State.stepTo_fold _ c _ _ false
    have hlast := (s.drainStopped (unitOf c)).stepTo_rest c (.inr rfl) .go (by rw [hparams]; exact hm)
    rwa [hfold] at hlast
  · exact hfirst

theorem State.drainSteps_told (s : State) (u : UnitId) {m : Master} (hm : (s.entry (principal u)).readers.has m = true) :
    ((s.drainSteps u).port m).Told ⟨s.ms, .unitState u .standby .drainTimeout⟩ ∧
      ((s.unit u).phase = .isolating → ((s.drainSteps u).port m).Told ⟨s.ms, .unitState u .isolated .go⟩) := by
  have hstand : ((s.drainStopped u).port m).Told ⟨s.ms, .unitState u .standby .drainTimeout⟩ :=
    (State.momentary_goes _ _ _).grows.told
      ((s.modUnit u fun x => { x with timer := none }).stepTo_told u .standby .drainTimeout hm)
  refine ⟨(s.drainSteps_grows u).told hstand, fun hp => ?_⟩
  have hmap : (s.drainStopped u).map = s.map :=
    (State.momentary_frame (fun q => q.map) (fun _ _ _ => rfl) (fun _ _ _ => rfl) _ _ _).trans (State.stepTo_map ..)
  have hms : (s.drainStopped u).ms = s.ms := (State.momentary_goes _ _ _).ms.trans (State.stepTo_ms ..)
  have hisolated := (s.drainStopped u).stepTo_told u .isolated .go (m := m) (by simp only [State.entry, hmap]; exact hm)
  rw [hms] at hisolated
  unfold State.drainSteps
  rw [if_pos hp]
  exact hisolated

theorem State.drainSteps_flags (s : State) (u : UnitId) : (s.drainSteps u).ms = s.ms ∧ ∀ g,
    ((s.drainSteps u).group g).busy = (s.group g).busy ∧ ((s.drainSteps u).group g).started = (s.group g).started := by
  have hms : (s.drainStopped u).ms = s.ms := (State.momentary_goes _ _ _).ms.trans (State.stepTo_ms ..)
  have hgroup (g : Group) : (s.drainSteps u).group g = (s.drainStopped u).group g := by
    simp only [State.group, s.drainSteps_group u]
  have hfirst (g : Group) : ((s.modUnit u fun x => { x with timer := none }).stepTo u .standby .drainTimeout).group g =
      s.group g := by
    simp only [State.group, State.stepTo_groups]
    rfl
  refine ⟨?_, fun g => ?_⟩
  · unfold State.drainSteps
    split
    · exact (State.stepTo_ms ..).trans hms
    · exact hms
  · rw [hgroup, State.drainStopped, State.momentary_busy, (State.momentary_goes _ _ _).started, hfirst]
    exact ⟨rfl, rfl⟩

/-- Settles O47. -/
theorem drainTimer : Obligations.DrainTimer := by
  intro s u
  have hexec : exec (.drainTimerExpiry u) s = .next (if (s.unit u).timer.isSome then s.drainExpired u else s) := rfl
  refine ⟨fun hnone => ?stopped, fun hsome => ?running⟩
  case stopped => rw [hexec, hnone]; rfl
  case running =>
    have hr : s.drainExpired u = (s.drainSteps u).clearPath u := rfl
    rw [if_pos (Option.isSome_iff_ne_none.mpr hsome), hr] at hexec
    have hclear : Within (s.drainSteps u) ((s.drainSteps u).clearPath u) u := (Within.refl _ u).cleared
    obtain ⟨hchan, hswu, htsm⟩ := s.drainSteps_within u
    obtain ⟨hms, hflags⟩ := s.drainSteps_flags u
    have hgrow := (s.drainSteps u).clearPath_grows u
    refine ⟨_, hexec, ?same, ?unit, fun w hw => ?units, fun c => ⟨?stack, fun hc => ?chan⟩, fun c hc hm => ?rest,
      fun m hm => ?told, ?go, ?group, fun g hg => ?groups, hclear.swu.trans hswu, hclear.tsm.trans htsm⟩
    case same => exact (s.endDrain_reacts u .drainTimeout _ fun q => q.momentary_reacts _ _ rfl rfl).same
    case unit =>
      rw [State.clearPath_unit, if_pos rfl, State.drainSteps_unit, if_pos rfl]
    case units => rw [State.clearPath_unit, if_neg hw, State.drainSteps_unit, if_neg hw]
    case stack => exact (hclear.stack c).trans (hchan c).1
    case chan => exact (hclear.chan c hc).trans ((hchan c).2 hc)
    case rest =>
      obtain ⟨happlied, htarget⟩ := s.drainSteps_rest c hm
      rw [hc] at happlied htarget
      rw [State.clearPath_chan]
      exact ⟨happlied.trans htarget.symm, htarget⟩
    case told =>
      obtain ⟨hstand, hisolated⟩ := s.drainSteps_told u hm
      exact ⟨hgrow.told hstand, fun hp => hgrow.told (hisolated hp)⟩
    case go =>
      exact State.clearPath_ends _ u (by rw [State.drainSteps_unit, if_pos rfl])
        (fun v hv => by rw [State.drainSteps_unit, if_neg hv]) hms hflags
    case group =>
      have harrived := ((s.drainStopped_arrived u).settle (s.drainSteps_grows u) (r := s.drainSteps u)
        (by simp only [State.group, s.drainSteps_group u])).settle hgrow (State.clearPath_group _ u _)
      exact ⟨harrived.record, harrived.level, harrived.told⟩
    case groups =>
      rw [State.clearPath_group_other _ hg, State.group, s.drainSteps_group u]
      exact s.drainStopped_group_other hg

end Sys2Proof.Machine
end

section
/-! What the part does with no command waiting: a received frame, a tick, and what the tick makes due (log 2, log 3, log 42). -/

namespace Sys2Proof.Machine

variable {s : State}

/-! ### The idle step -/

theorem step_idle (h : s.pending = []) : step s = s.idle := by
  unfold step
  rw [h]

theorem State.mem_waiting (s : State) (m : Master) : m ∈ s.waiting ↔ (s.port m).received ≠ [] := by
  cases m <;> simp [State.waiting, masters]

/-- The oldest frame of a port that holds one is taken. -/
theorem State.idle_takes (h : ∃ m, (s.port m).received ≠ []) :
    ∃ m f rest, (s.port m).received = f :: rest ∧ s.idle = exec (decodeFrame m f) s := by
  obtain ⟨k, hk⟩ := h
  cases horder : freeOrder s.draws s.waiting with
  | nil =>
    have hmem := (mem_freeOrder s.draws s.waiting k).mpr ((s.mem_waiting k).mpr hk)
    rw [horder] at hmem
    cases hmem
  | cons m rest =>
    have hm : m ∈ s.waiting := (mem_freeOrder s.draws s.waiting m).mp (by rw [horder]; exact List.mem_cons_self)
    obtain ⟨f, l, hfl⟩ := List.exists_cons_of_ne_nil ((s.mem_waiting m).mp hm)
    refine ⟨m, f, l, hfl, ?_⟩
    unfold State.idle
    rw [horder]
    show exec (decodeFrame m ((s.port m).received.headD [])) s = _
    rw [hfl]
    rfl

theorem State.idle_ticks (h : ∀ m, (s.port m).received = []) : s.idle = s.runTick := by
  have hwaiting : s.waiting = [] := by
    refine List.eq_nil_iff_forall_not_mem.mpr fun m hm => ?_
    exact (s.mem_waiting m).mp hm (h m)
  unfold State.idle
  rw [hwaiting]
  rfl

/-! ### What a tick moves -/

/-- A timer of whole milliseconds over a tick. -/
def State.tickDown (s : State) (n : Option Nat) : Option Nat := if 10000 ≤ s.tick + 1 then n.map (· - 1) else n

theorem State.clock_cases (s : State) :
    let t := { s with tick := s.tick + 1, ch := vec16 fun c => s.ch[c].clock, pi := vec12 fun j => s.pi[j].clock }
    s.clock = if 10000 ≤ s.tick + 1 then t.millisecond else t := rfl

theorem State.clock_time (s : State) : if 10000 ≤ s.tick + 1 then s.clock.tick = 0 ∧ s.clock.ms = s.ms + 1
    else s.clock.tick = s.tick + 1 ∧ s.clock.ms = s.ms := by
  rw [State.clock_cases]
  split <;> exact ⟨rfl, rfl⟩

theorem State.clock_port (s : State) (m : Master) :
    s.clock.port m = { s.port m with timer := s.tickDown (s.port m).timer } := by
  rw [State.clock_cases]
  unfold State.tickDown
  split
  · exact vec3_get _ _
  · rfl

theorem State.clock_unit (s : State) (u : UnitId) :
    s.clock.unit u = { s.unit u with timer := s.tickDown (s.unit u).timer } := by
  rw [State.clock_cases]
  unfold State.tickDown
  split
  · exact vec12_get _ _
  · rfl

theorem State.clock_pfl (s : State) : s.clock.pfl = { s.pfl with busy := s.tickDown s.pfl.busy } := by
  rw [State.clock_cases]
  unfold State.tickDown
  split <;> rfl

theorem State.clock_analog (s : State) (n : Fin 16) : s.clock.analog n = { s.analog n with
    age := if 10000 ≤ s.tick + 1 then min 4294967295 ((s.analog n).age + 1) else (s.analog n).age } := by
  rw [State.clock_cases]
  split
  · exact vec16_get _ _
  · rfl

theorem State.clock_chan (s : State) (c : ChanId) :
    s.clock.chan c = { (s.chan c).clock with timer := s.tickDown (s.chan c).timer } := by
  have htimer : (s.chan c).clock.timer = (s.chan c).timer := by
    unfold Channel.clock
    split <;> rfl
  rw [State.clock_cases, ← htimer]
  unfold State.tickDown
  have hclock : (vec16 fun c => s.ch[c].clock)[c] = (s.chan c).clock := vec16_get _ _
  split
  · refine (vec16_get _ _).trans ?_
    show ({ (vec16 fun c => s.ch[c].clock)[c] with timer := down ((vec16 fun c => s.ch[c].clock)[c]).timer } : Channel) = _
    rw [hclock]
    rfl
  · exact hclock

theorem State.clock_pulse (s : State) (j : PulseId) : s.clock.pulse j = (s.pulse j).clock := by
  rw [State.clock_cases]
  split <;> exact vec12_get _ _

/-- R2: the phase counter. -/
theorem Channel.clock_counts (x : Channel) :
    (x.wave = .static → x.clock.count = x.count ∧ x.clock.sub = x.sub) ∧
    (x.wave ≠ .static → if x.sub + 1 < 2 ^ x.params.presc then x.clock.count = x.count ∧ x.clock.sub = x.sub + 1
      else x.clock.count = x.count + 1 ∧ x.clock.sub = 0) := by
  unfold Channel.clock prescaled
  refine ⟨fun h => by rw [if_pos h]; exact ⟨rfl, rfl⟩, fun h => ?_⟩
  rw [if_neg h]
  split <;> exact ⟨rfl, rfl⟩

theorem Channel.clock_eq (x : Channel) : x.clock = { x with count := x.clock.count, sub := x.clock.sub } := by
  unfold Channel.clock
  split <;> rfl

/-- R38: the period counter. -/
theorem Pulse.clock_period (x : Pulse) :
    (x.running = false → x.clock.count = x.count ∧ x.clock.sub = x.sub) ∧
    (x.running = true → if x.sub + 1 < 2 ^ x.params.presc then x.clock.count = min 16777216 x.count ∧ x.clock.sub = x.sub + 1
      else x.clock.count = min 16777216 (x.count + 1) ∧ x.clock.sub = 0) := by
  have hkeep (y : Pulse) : y.clockTimer.count = y.count ∧ y.clockTimer.sub = y.sub := by
    unfold Pulse.clockTimer
    split
    · exact ⟨rfl, rfl⟩
    · split <;> exact ⟨rfl, rfl⟩
  unfold Pulse.clock
  rw [(hkeep _).1, (hkeep _).2]
  unfold Pulse.clockPeriod prescaled
  refine ⟨fun h => by simp [h], fun h => ?_⟩
  rw [if_pos h]
  split <;> exact ⟨rfl, rfl⟩

/-- R40: the signal timer counts whole milliseconds from the edge. -/
theorem Pulse.clock_timer (x : Pulse) : match x.timer with
    | none => x.clock.timer = none ∧ x.clock.timerSub = x.timerSub
    | some n => if x.timerSub + 1 < 10000 then x.clock.timer = some n ∧ x.clock.timerSub = x.timerSub + 1
        else x.clock.timer = some (n + 1) ∧ x.clock.timerSub = 0 := by
  have hkeep : x.clockPeriod.timer = x.timer ∧ x.clockPeriod.timerSub = x.timerSub := by
    unfold Pulse.clockPeriod
    split <;> exact ⟨rfl, rfl⟩
  obtain ⟨htimer, hsub⟩ := hkeep
  unfold Pulse.clock Pulse.clockTimer
  rw [htimer, hsub]
  cases hx : x.timer with
  | none => exact ⟨htimer.trans hx, hsub⟩
  | some n =>
    dsimp only
    by_cases hfull : x.timerSub + 1 < 10000
    · rw [if_pos hfull, if_pos (show x.timerSub + 1 < ticksPerMs from hfull)]
      exact ⟨rfl, rfl⟩
    · rw [if_neg hfull, if_neg (show ¬x.timerSub + 1 < ticksPerMs from hfull)]
      exact ⟨rfl, rfl⟩

/-! ### What is due -/

theorem Channel.phaseOver_iff (x : Channel) (w : WavePhase) : x.phaseOver w = true ↔
    x.wave = w ∧ ∀ h l, x.pair = .counts h l → (if w = .high then h else l) ≤ x.count := by
  unfold Channel.phaseOver
  rw [Bool.and_eq_true, decide_eq_true_eq]
  refine and_congr_right fun _ => ?_
  cases hp : x.pair with
  | counts h l => simp
  | _ => simp

theorem State.due_offer (s : State) (c : ChanId) :
    s.due (.offerExpiry c) = true ↔ ∃ o, (s.entry c).offer = some o ∧ o.expiry = s.ms := by
  simp [State.due, Option.any_eq_true]

theorem State.due_draws (s : State) (n : Nat) (i : Instr) : { s with draws := n }.due i = s.due i := by cases i <;> rfl

/-- The arrivals that a tick makes due. -/
def State.dueNow (s : State) : List Instr := (if s.tick = 0 then tickArrivals ++ msArrivals else tickArrivals).filter s.due

theorem State.fireAll_none (h : s.dueNow = []) : s.fireAll = .next { s with draws := s.draws + 1 } := by
  unfold State.fireAll
  dsimp only
  rw [show List.filter _ _ = [] from h]
  rfl

theorem State.fireAll_one {i : Instr} (h : s.dueNow = [i]) : s.fireAll = exec i { s with draws := s.draws + 1 } := by
  have hdue : s.due i = true := by
    have hmem : i ∈ s.dueNow := by rw [h]; exact List.mem_singleton_self i
    exact (List.mem_filter.mp hmem).2
  unfold State.fireAll
  dsimp only
  rw [show List.filter _ _ = [i] from h]
  show (if _ then _ else _) = _
  rw [State.due_draws, if_pos hdue]

/-- Settles O3. -/
theorem idleStep : Obligations.IdleStep := by
  intro s hpending
  rw [step_idle hpending]
  refine ⟨State.idle_takes, fun hempty => ?_⟩
  rw [State.idle_ticks hempty]
  refine ⟨fun hreset => if_pos hreset, fun hrun => ?_⟩
  have htick : s.runTick = s.clock.fireAll := if_neg hrun
  refine ⟨s.clock_time, s.clock_port, s.clock_unit, s.clock_pfl, s.clock_analog, fun c => ?chan, fun j => ?pulse, ?frame,
    ?rampTick, ?scan, fun j => ⟨?timeout, ?overflow⟩, fun m => ?silence, fun u => ?drain, ?page,
    fun c => ⟨?high, ?low, ?delay, ?oneShot, s.clock.due_offer c⟩, fun hnone => ?none, fun i hone => ?one⟩
  case chan =>
    rw [s.clock_chan]
    refine ⟨?_, (s.chan c).clock_counts.1, (s.chan c).clock_counts.2⟩
    conv_lhs => rw [Channel.clock_eq]
    rfl
  case pulse =>
    rw [s.clock_pulse]
    exact ⟨(s.pulse j).clock_spec, (s.pulse j).clock_period.1, (s.pulse j).clock_period.2, (s.pulse j).clock_timer⟩
  case frame =>
    rw [State.clock_cases]
    split <;> rfl
  case none => exact htick.trans (State.fireAll_none hnone)
  case one => exact htick.trans (State.fireAll_one hone)
  case high => exact Channel.phaseOver_iff _ _
  case low => exact Channel.phaseOver_iff _ _
  case overflow =>
    have hspan : counterSpan = 16777216 := rfl
    simp only [State.due, hspan, Bool.and_eq_true, decide_eq_true_eq, and_assoc]
  all_goals simp [State.due, reached, Channel.timerOver, and_assoc]

end Sys2Proof.Machine
end

section
/-! What arrivals and deactivations of other causes leave of a log (R88 to R92): a record stays in its place, a code in the set,
and a group in TRIP; what they leave of the blocks. -/

namespace Sys2Proof.Machine

variable {s t r : State} {P Q : Cause → Prop}

/-! ### Logs -/

/-- From `x` to `y` every record stays in its place, and as it is where its cause is not one of `P`; so do the codes of the set
and LOG_FULL; no cause but one of `P` becomes active, and no record but of one of `P` is new. -/
structure GroupRec.Keeps (P : Cause → Prop) (x y : GroupRec) : Prop where
  log : ∀ (i : Nat) (z : CauseRec), x.log[i]? = some z → ∃ z', y.log[i]? = some z' ∧ z'.cause = z.cause ∧ (¬P z.cause → z' = z)
  set : ∀ v ∈ x.unrecorded, ¬P v.cause → v ∈ y.unrecorded
  full : x.logFull = true → y.logFull = true
  level : x.level = .trip → y.level = .trip
  only : ∀ c, ¬P c → y.Holds c → x.Holds c
  recs : ∀ z ∈ y.log, ¬P z.cause → z ∈ x.log

theorem GroupRec.Keeps.refl (x : GroupRec) : x.Keeps P x :=
  ⟨fun _ z h => ⟨z, h, rfl, fun _ => rfl⟩, fun _ h _ => h, id, id, fun _ _ => id, fun _ h _ => h⟩

theorem GroupRec.Keeps.trans {x y z : GroupRec} (h : x.Keeps P y) (k : y.Keeps P z) : x.Keeps P z where
  log i a ha := by
    obtain ⟨b, hb, hcause, hsame⟩ := h.log i a ha
    obtain ⟨d, hd, hcause', hsame'⟩ := k.log i b hb
    refine ⟨d, hd, hcause'.trans hcause, fun hP => ?_⟩
    rw [hsame' (by rw [hcause]; exact hP), hsame hP]
  set v hv hP := k.set v (h.set v hv hP) hP
  full hx := k.full (h.full hx)
  level hx := k.level (h.level hx)
  only c hc hz := h.only c hc (k.only c hc hz)
  recs a ha hP := h.recs a (k.recs a ha hP) hP

theorem GroupRec.Keeps.mono {x y : GroupRec} (h : x.Keeps P y) (hPQ : ∀ c, P c → Q c) : x.Keeps Q y where
  log i z hz := by
    obtain ⟨z', hz', hcause, hsame⟩ := h.log i z hz
    exact ⟨z', hz', hcause, fun hQ => hsame (mt (hPQ _) hQ)⟩
  set v hv hQ := h.set v hv (mt (hPQ _) hQ)
  full := h.full
  level := h.level
  only c hc := h.only c (mt (hPQ _) hc)
  recs z hz hQ := h.recs z hz (mt (hPQ _) hQ)

/-- R88: a cause that is not touched stays active. -/
theorem GroupRec.Keeps.holds {x y : GroupRec} (h : x.Keeps P y) {c : Cause} (hc : ¬P c) (hx : x.Holds c) : y.Holds c := by
  rcases hx with ⟨z, hz, hcause, hactive⟩ | ⟨v, hv, hcause⟩
  · obtain ⟨i, hi⟩ := List.mem_iff_getElem?.mp hz
    obtain ⟨z', hz', _, hsame⟩ := h.log i z hi
    obtain rfl := hsame (by rw [hcause]; exact hc)
    exact .inl ⟨_, List.mem_of_getElem? hz', hcause, hactive⟩
  · exact .inr ⟨v, h.set v hv (by rw [hcause]; exact hc), hcause⟩

theorem keeps_of_log {x y : GroupRec} (hlog : y.log = x.log) (hset : y.unrecorded = x.unrecorded) (hfull : y.logFull = x.logFull)
    (hlevel : x.level = .trip → y.level = .trip) : x.Keeps P y where
  log i z hz := ⟨z, by rw [hlog]; exact hz, rfl, fun _ => rfl⟩
  set v hv _ := by rw [hset]; exact hv
  full h := by rw [hfull]; exact h
  level := hlevel
  only _ _ hc := by
    unfold GroupRec.Holds at hc ⊢
    rwa [hlog, hset] at hc
  recs z hz _ := hlog ▸ hz

/-- A record rewritten in place. -/
theorem GroupRec.modRecord_keeps (x : GroupRec) (c : Cause) (f : CauseRec → CauseRec) (hf : ∀ z, (f z).cause = z.cause) :
    x.Keeps (· = c) (x.modRecord c f) where
  log _ z hz := by
    refine ⟨if z.cause = c then f z else z, ?_, ?_, fun hP => if_neg hP⟩
    · simp [GroupRec.modRecord, hz]
    · split
      · exact hf z
      · rfl
  set _ hv _ := hv
  full := id
  level := id
  only d hd hz := by
    refine hz.imp_left fun ⟨y, hy, hcause, hactive⟩ => ?_
    obtain ⟨z, hz, rfl⟩ := List.mem_map.mp hy
    by_cases hzc : z.cause = c
    · rw [if_pos hzc] at hcause
      exact absurd ((hcause.symm.trans (hf z)).trans hzc) hd
    · rw [if_neg hzc] at hcause hactive
      exact ⟨z, hz, hcause, hactive⟩
  recs z hz hP := by
    obtain ⟨y, hy, rfl⟩ := List.mem_map.mp hz
    split at hP
    case isTrue hc => exact absurd ((hf y).trans hc) hP
    case isFalse hc => rwa [if_neg hc]

theorem GroupRec.append_keeps (x : GroupRec) (z : CauseRec) (hP : P z.cause) :
    x.Keeps P { x with log := x.log ++ [z] } where
  log _ a ha := ⟨a, List.getElem?_append_left (List.getElem?_eq_some_iff.mp ha).1 |>.trans ha, rfl, fun _ => rfl⟩
  set _ hv _ := hv
  full := id
  level := id
  only d hd hz := by
    refine hz.imp_left fun ⟨y, hy, hcause, hactive⟩ => ?_
    rcases List.mem_append.mp hy with hold | hnew
    · exact ⟨y, hold, hcause, hactive⟩
    · rw [List.mem_singleton.mp hnew] at hcause
      exact absurd (hcause ▸ hP) hd
  recs y hy hne := (List.mem_append.mp hy).resolve_right fun hnew => hne (List.mem_singleton.mp hnew ▸ hP)

theorem mem_of_mem_insertUnrecorded {v y : Unrecorded} {l : List Unrecorded} (h : y ∈ insertUnrecorded v l) : y = v ∨ y ∈ l := by
  induction l with
  | nil => exact .inl (List.mem_singleton.mp h)
  | cons z l ih =>
    unfold insertUnrecorded at h
    split at h
    · exact .inr h
    · split at h
      · exact List.mem_cons.mp h
      · rcases List.mem_cons.mp h with rfl | hrest
        · exact .inr (.head _)
        · exact (ih hrest).imp_right (.tail _)

theorem insertUnrecorded_subset (v : Unrecorded) (l : List Unrecorded) : l ⊆ insertUnrecorded v l := by
  induction l with
  | nil => exact List.nil_subset _
  | cons y l ih =>
    unfold insertUnrecorded
    split
    · exact List.Subset.refl _
    · split
      · exact List.subset_cons_self _ _
      · exact List.cons_subset_cons y ih

/-- LOG_FULL, and perhaps a code in the set. -/
theorem GroupRec.full_keeps (x : GroupRec) (c : Cause) (cls : CauseClass) :
    x.Keeps (· = c) { x with logFull := true, unrecorded := insertUnrecorded ⟨c, cls⟩ x.unrecorded } where
  log _ z hz := ⟨z, hz, rfl, fun _ => rfl⟩
  set _ hv _ := insertUnrecorded_subset _ _ hv
  full _ := rfl
  level := id
  only d hd hz := by
    refine hz.imp_right fun ⟨y, hy, hcause⟩ => ?_
    rcases mem_of_mem_insertUnrecorded hy with rfl | hold
    · exact absurd hcause.symm hd
    · exact ⟨y, hold, hcause⟩
  recs _ hz _ := hz

theorem GroupRec.arrive_keeps (x : GroupRec) (c : Cause) (cls : CauseClass) (now : Word) :
    x.Keeps (· = c) (x.arrive c cls now).1 := by
  unfold GroupRec.arrive
  split_ifs
  · exact x.modRecord_keeps c _ fun _ => rfl
  · exact x.append_keeps _ rfl
  all_goals exact x.full_keeps c cls

theorem GroupRec.arriveMomentary_keeps (x : GroupRec) (c : Cause) (cls : CauseClass) (now : Word) :
    x.Keeps (· = c) (x.arriveMomentary c cls now).1 := by
  unfold GroupRec.arriveMomentary
  split_ifs
  · exact x.modRecord_keeps c _ fun _ => rfl
  · exact x.append_keeps _ rfl
  · exact ⟨fun i z hz => ⟨z, hz, rfl, fun _ => rfl⟩, fun v hv _ => hv, fun _ => rfl, id, fun _ _ => id, fun _ h _ => h⟩

theorem GroupRec.deactivate_keeps (x : GroupRec) (c : Cause) (now : Word) : x.Keeps (· = c) (x.deactivate c now) := by
  unfold GroupRec.deactivate
  split
  · refine x.modRecord_keeps c _ fun z => ?_
    split <;> rfl
  · exact ⟨fun i z hz => ⟨z, hz, rfl, fun _ => rfl⟩, fun v hv hne => List.mem_filter.mpr ⟨hv, decide_eq_true hne⟩, id, id,
      fun d _ hz => hz.imp_right fun ⟨y, hy, hcause⟩ => ⟨y, (List.mem_filter.mp hy).1, hcause⟩,
      fun _ h _ => h⟩

/-! ### Logs of a state -/

/-- From `s` to `t` the logs keep every cause of a group that is not one of `T`, and a group in TRIP stays there. -/
def LogsKeep (T : Group → Cause → Prop) (s t : State) : Prop := ∀ g, (s.group g).Keeps (T g) (t.group g)

section
variable {T T' : Group → Cause → Prop}

theorem LogsKeep.refl (s : State) : LogsKeep T s s := fun _ => .refl _

theorem LogsKeep.trans (h : LogsKeep T s t) (k : LogsKeep T t r) : LogsKeep T s r := fun g => (h g).trans (k g)

theorem LogsKeep.mono (h : LogsKeep T s t) (hT : ∀ g c, T g c → T' g c) : LogsKeep T' s t := fun g => (h g).mono (hT g)

theorem logsKeep_of_groups (h : t.groups = s.groups) : LogsKeep T s t := fun g => by
  simp only [State.group, h]
  exact .refl _

theorem LogsKeep.each {α : Type} {l : List α} {f : α → State → State} (h : ∀ x ∈ l, ∀ s, LogsKeep T s (f x s)) (s : State) :
    LogsKeep T s (s.each l f) :=
  State.each_induct (P := LogsKeep T s) l f (fun x hx t ht => ht.trans (h x hx t)) s (.refl s)

theorem logsKeep_of_read (h : ∀ g, ((t.group g).level, (t.group g).log, (t.group g).unrecorded, (t.group g).logFull) =
    ((s.group g).level, (s.group g).log, (s.group g).unrecorded, (s.group g).logFull)) : LogsKeep T s t := fun g => by
  obtain ⟨hlevel, hlog, hset, hfull⟩ := by simpa only [Prod.mk.injEq] using h g
  exact keeps_of_log hlog hset hfull fun hx => hlevel.trans hx

theorem State.queue_logsKeep (s : State) (who : Master → Bool) (b : EventBody) : LogsKeep T s (s.queue who b) :=
  logsKeep_of_groups rfl

theorem LogsKeep.queued (h : LogsKeep T s t) (who : Master → Bool) (b : EventBody) : LogsKeep T s (t.queue who b) :=
  h.trans (t.queue_logsKeep who b)

theorem State.modGroup_logsKeep (s : State) (g : Group) (f : GroupRec → GroupRec) (h : (s.group g).Keeps (T g) (f (s.group g))) :
    LogsKeep T s (s.modGroup g f) := fun k => by
  rw [State.group_modGroup]
  split
  case isTrue hk => rwa [hk]
  case isFalse => exact .refl _

theorem State.testUnit_logsKeep (s : State) (u : UnitId) : LogsKeep T s (s.testUnit u) :=
  logsKeep_of_read fun g => (unread_log g).testUnit u s

theorem State.remove_logsKeep (s : State) (c : ChanId) (x : Source) : LogsKeep T s (s.remove c x) :=
  logsKeep_of_read fun g => (unread_log g).remove c x s

theorem State.refold_logsKeep (s : State) (c : ChanId) : LogsKeep T s (s.refold c) := by
  rw [State.refold_eq]
  exact logsKeep_of_groups rfl

theorem State.relevel_logsKeep (s : State) (g : Group) : LogsKeep T s (s.relevel g) := fun k => by
  rw [State.relevel_group]
  split
  case isTrue hk => rw [hk]; exact keeps_of_log rfl rfl rfl fun hx => if_pos hx
  case isFalse => exact .refl _

theorem State.recordWith_logsKeep (s : State) (g : Group) (c : Cause) (cls : CauseClass) (mom : Bool)
    {x : GroupRec × Recorded} (h : (s.group g).Keeps (T g) x.1) : LogsKeep T s (s.recordWith g c cls mom x) := fun k => by
  rw [State.recordWith_group]
  split
  case isTrue hk => rwa [hk]
  case isFalse => exact .refl _

theorem State.setLevel_logsKeep (s : State) (g : Group) : LogsKeep T s (s.setLevel g .trip) := by
  unfold State.setLevel State.queueAll
  exact (s.modGroup_logsKeep g (fun x => { x with level := .trip }) (keeps_of_log rfl rfl rfl fun _ => rfl)).queued _ _

end

/-- One cause of one group. -/
def onlyAt (g : Group) (c : Cause) : Group → Cause → Prop := fun k d => k = g ∧ d = c

theorem GroupRec.Keeps.at {x y : GroupRec} {g : Group} {c : Cause} (h : x.Keeps (· = c) y) : x.Keeps (onlyAt g c g) y :=
  h.mono fun _ hd => ⟨rfl, hd⟩

theorem State.record_logsKeep (s : State) (g : Group) (c : Cause) (cls : CauseClass) :
    LogsKeep (onlyAt g c) s (s.record g c cls) :=
  s.recordWith_logsKeep g c cls false (GroupRec.arrive_keeps ..).at

theorem State.momentary_logsKeep (s : State) (g : Group) (c : Cause) : LogsKeep (onlyAt g c) s (s.momentary g c) :=
  (s.recordWith_logsKeep g c .alarm true (GroupRec.arriveMomentary_keeps ..).at).trans (State.relevel_logsKeep _ g)

theorem State.deactivate_logsKeep (s : State) (g : Group) (c : Cause) : LogsKeep (onlyAt g c) s (s.deactivate g c) :=
  ((s.modGroup_logsKeep g _ ((s.group g).deactivate_keeps c s.ms).at).trans
    (LogsKeep.each (fun a _ q => q.remove_logsKeep a.channel _) _)).trans (State.relevel_logsKeep _ g)

/-! ### Pushes -/

/-- GUARD_LOST, which a discarded SCALE entry brings (R144). -/
def Cause.isGuardLost : Cause → Prop
  | .guardLost _ => True
  | _ => False

section
variable {T : Group → Cause → Prop}

theorem State.setGuard_logsKeep (s : State) (k : GuardId) (x : Guard) : LogsKeep T s (s.setGuard k x) := by
  cases k <;> exact logsKeep_of_groups rfl

theorem State.tellGuard_logsKeep (s : State) (k : GuardId) (old : GuardState) (why : GuardReason) :
    LogsKeep T s (s.tellGuard k old why) := by
  unfold State.tellGuard
  dsimp only
  split
  · exact .refl s
  · exact s.queue_logsKeep _ _

end

theorem State.discarded_logsKeep (s : State) (c : ChanId) (x : Entry) :
    LogsKeep (fun _ => Cause.isGuardLost) s (s.discarded c x) := by
  have hlost (q : State) : LogsKeep (fun _ => Cause.isGuardLost) q (q.momentary (chanGroup c) (.guardLost c)) :=
    (q.momentary_logsKeep _ _).mono fun _ d hd => hd.2 ▸ trivial
  unfold State.discarded
  split
  · dsimp only
    split
    case h_1 k _ => exact ((s.setGuard_logsKeep k _).trans (State.tellGuard_logsKeep _ k _ _)).trans (hlost _)
    case h_2 => exact hlost s
  · exact s.queue_logsKeep _ _

theorem State.pushRaw_logsKeep (s : State) (c : ChanId) (x : Entry) :
    LogsKeep (fun _ => Cause.isGuardLost) s (s.pushRaw c x) := by
  unfold State.pushRaw
  dsimp only
  split
  · exact (s.discarded_logsKeep c _).trans (logsKeep_of_groups rfl)
  · exact logsKeep_of_groups rfl

theorem State.push_logsKeep (s : State) (c : ChanId) (x : Entry) : LogsKeep (fun _ => Cause.isGuardLost) s (s.push c x) :=
  ((s.pushRaw_logsKeep c x).trans (State.refold_logsKeep _ c)).trans (State.testUnit_logsKeep _ _)

theorem State.applyActions_logsKeep (s : State) (g : Group) (c : Cause) :
    LogsKeep (fun _ => Cause.isGuardLost) s (s.applyActions g c) :=
  LogsKeep.each (fun a _ q => q.push_logsKeep a.channel _) s

theorem State.arriveAlarm_logsKeep (s : State) (g : Group) (c : Cause) :
    LogsKeep (fun k d => onlyAt g c k d ∨ d.isGuardLost) s (s.arriveAlarm g c) :=
  (((s.record_logsKeep g c .alarm).mono fun _ _ => .inl).trans ((State.applyActions_logsKeep _ g c).mono fun _ _ => .inr)).trans
    (State.relevel_logsKeep _ g)

theorem Cause.not_guardLost_of_not_momentary {c : Cause} (h : c.isMomentary = false) : ¬c.isGuardLost := by
  cases c <;> first | exact id | cases h

theorem State.record_holds (s : State) (g : Group) (c : Cause) (cls : CauseClass) : ((s.record g c cls).group g).Holds c := by
  rw [State.record, State.recordWith_group, if_pos rfl]
  exact GroupRec.arrive_holds ..

/-- R88, R92: an alarm-class cause that has arrived is active, and outside TRIP its group is in ALARM. -/
theorem State.arriveAlarm_holds (s : State) (g : Group) {c : Cause} (hm : c.isMomentary = false) :
    ((s.arriveAlarm g c).group g).Holds c ∧
      ((s.arriveAlarm g c).group g).level = if (((s.record g c .alarm).applyActions g c).group g).level = .trip then .trip else .alarm := by
  have hactive : (((s.record g c .alarm).applyActions g c).group g).Holds c :=
    (State.applyActions_logsKeep _ g c g).holds (Cause.not_guardLost_of_not_momentary hm) (s.record_holds g c .alarm)
  have hasks : (((s.record g c .alarm).applyActions g c).group g).quietLevel = .alarm := by
    rw [GroupRec.quietLevel_alarm]
    rcases hactive with ⟨z, hz, _, ha⟩ | ⟨v, hv, _⟩
    · exact .inl ⟨z, hz, .inl ha⟩
    · exact .inr (.inl (List.ne_nil_of_mem hv))
  have hgroup := State.relevel_group ((s.record g c .alarm).applyActions g c) g g
  rw [if_pos rfl, hasks] at hgroup
  unfold State.arriveAlarm
  rw [hgroup]
  exact ⟨hactive, rfl⟩

/-! ### Blocks -/

/-- A reading of the state that no push, removal, record of a cause or queued event reaches. -/
structure Untouched {β : Type} (p : State → β) : Prop where
  queue : ∀ s who b, p (State.queue s who b) = p s
  unit : ∀ s u f, p (State.modUnit s u f) = p s
  chan : ∀ s c f, p (State.modChan s c f) = p s
  group : ∀ s g f, p (State.modGroup s g f) = p s
  guard : ∀ s k x, p (State.setGuard s k x) = p s

section
variable {β : Type} {p : State → β}

theorem Untouched.unread (h : Untouched p) : Unread p := ⟨h.queue, h.unit, h.chan, fun s g => h.group s g _⟩

theorem Untouched.relevel (h : Untouched p) (s : State) (g : Group) : p (s.relevel g) = p s := by
  unfold State.relevel State.setLevel State.queueAll
  dsimp only
  split
  · rfl
  · rw [h.queue, h.group]

theorem Untouched.pushRaw (h : Untouched p) (s : State) (c : ChanId) (x : Entry) : p (s.pushRaw c x) = p s := by
  unfold State.pushRaw
  dsimp only
  rw [h.chan]
  split
  · exact State.discarded_frame p h.queue h.group h.guard s c _
  · rfl

theorem Untouched.push (h : Untouched p) (s : State) (c : ChanId) (x : Entry) : p (s.push c x) = p s := by
  unfold State.push
  rw [h.unread.testUnit, State.refold_eq, h.chan, h.pushRaw]

theorem Untouched.applyActions (h : Untouched p) (s : State) (g : Group) (c : Cause) : p (s.applyActions g c) = p s :=
  State.each_frame p (s.actionsIn g c) (fun a q => q.push a.channel ⟨.alarm c, a.kind, a.value, q.ms⟩)
    (fun a q => h.push q a.channel ⟨.alarm c, a.kind, a.value, q.ms⟩) s

theorem Untouched.record (h : Untouched p) (s : State) (g : Group) (c : Cause) (cls : CauseClass) :
    p (s.record g c cls) = p s := State.recordWith_frame p h.queue h.group s g c cls false _

theorem Untouched.arriveAlarm (h : Untouched p) (s : State) (g : Group) (c : Cause) : p (s.arriveAlarm g c) = p s := by
  unfold State.arriveAlarm
  rw [h.relevel, h.applyActions, h.record]

theorem Untouched.deactivate (h : Untouched p) (s : State) (g : Group) (c : Cause) : p (s.deactivate g c) = p s := by
  unfold State.deactivate
  dsimp only
  have hremoved := State.each_frame p ((s.modGroup g fun x => x.deactivate c s.ms).actionsIn g c)
    (fun a q => q.remove a.channel (.alarm c)) (fun a q => h.unread.remove a.channel (.alarm c) q)
    (s.modGroup g fun x => x.deactivate c s.ms)
  exact (h.relevel _ g).trans (hremoved.trans (h.group s g _))

end

theorem untouched_swu {β : Type} (f : Swu → β) (hsil : ∀ w x, f { w with silGuard := x } = f w)
    (hcal : ∀ w (i : Fin 8) (x : Guard), f { w with calGuards := w.calGuards.set i x } = f w) :
    Untouched fun s => f s.swu where
  queue _ _ _ := rfl
  unit _ _ _ := rfl
  chan _ _ _ := rfl
  group _ _ _ := rfl
  guard s k x := by
    cases k with
    | silica => exact hsil s.swu x
    | calcite i => exact hcal s.swu i x

theorem untouched_tsm : Untouched fun s => s.tsm where
  queue _ _ _ := rfl
  unit _ _ _ := rfl
  chan _ _ _ := rfl
  group _ _ _ := rfl
  guard s k x := by cases k <;> rfl

end Sys2Proof.Machine
end

section
/-! The exchanger steps (R126 to R132) and RELEASE_TRIP (R100, R101). -/

namespace Sys2Proof.Machine

variable {s t r : State}

/-! ### The exchanger -/

/-- R88: the arrival of a cause of ALARM class. -/
theorem State.arrive_alarm (s : State) (g : Group) {c : Cause} (h : s.classOf c = .alarm) : s.arrive g c = s.arriveAlarm g c := by
  unfold State.arrive State.arriveWith
  rw [h]

/-- An alarm-class condition that turns, of a cause that is not momentary. -/
theorem State.handOver_alarm (s : State) (g : Group) {c : Cause} (h : s.classOf c = .alarm) (hm : c.isMomentary = false)
    (b : Bool) : Reacts s (s.handOver g c b) ∧ (b = true → ((s.handOver g c b).group g).Holds c) ∧
      (b = false → s.LogsOk → ¬((s.handOver g c b).group g).Holds c) := by
  unfold State.handOver
  cases b
  · exact ⟨s.deactivate_reacts g c, nofun, fun _ => s.deactivate_not_holds g c⟩
  · rw [s.arrive_alarm g h]
    exact ⟨s.arriveAlarm_reacts g c h hm, fun _ => (s.arriveAlarm_holds g hm).1, nofun⟩

theorem Untouched.handOver {β : Type} {p : State → β} (h : Untouched p) (s : State) (g : Group) {c : Cause}
    (hc : s.classOf c = .alarm) (b : Bool) : p (s.handOver g c b) = p s := by
  unfold State.handOver
  cases b
  · exact h.deactivate s g c
  · rw [s.arrive_alarm g hc]
    exact h.arriveAlarm s g c

theorem foulingNext_eq (active : Bool) (cf alarm : Nat) : foulingNext active cf alarm =
    if active = true then decide (cf < alarm + 10) else decide (cf < alarm) := by
  unfold foulingNext
  cases active
  · rfl
  · rw [if_pos rfl, if_pos rfl, ← decide_not, decide_eq_decide, Nat.not_le]

theorem Exchanger.evaluate_fouling (x : Exchanger) (p : SwuParams) (m : Nat) (bi bo ws wr : Int) :
    (x.evaluate p m bi bo ws wr).fouling = x.fouling := by
  unfold Exchanger.evaluate
  dsimp only
  split <;> rfl

theorem Exchanger.evaluate_duty (x : Exchanger) (p : SwuParams) (m : Nat) (bi bo ws wr : Int) :
    (x.evaluate p m bi bo ws wr).q = dutyOf m p.cpB bi bo ∧ (x.evaluate p m bi bo ws wr).dT1 = bi - ws ∧
      (x.evaluate p m bi bo ws wr).dT2 = bo - wr := by
  unfold Exchanger.evaluate
  dsimp only
  split <;> exact ⟨rfl, rfl, rfl⟩

/-- R129: an end difference below 0.50 K, or no flow. -/
theorem Exchanger.evaluate_not (x : Exchanger) (p : SwuParams) {m : Nat} {bi bo ws wr : Int}
    (h : bi - ws < 50 ∨ bo - wr < 50 ∨ m = 0) : x.evaluate p m bi bo ws wr =
      { x with outcome := .notEvaluable, q := dutyOf m p.cpB bi bo, dT1 := bi - ws, dT2 := bo - wr } := by
  unfold Exchanger.evaluate
  dsimp only
  rw [if_pos h]

/-- R129 to R131: the other steps. -/
theorem Exchanger.evaluate_full (x : Exchanger) (p : SwuParams) {m : Nat} {bi bo ws wr : Int}
    (h : ¬(bi - ws < 50 ∨ bo - wr < 50 ∨ m = 0)) : x.evaluate p m bi bo ws wr =
      let mean := (bi - ws + (bo - wr)) / 2
      let ua := uaOf (dutyOf m p.cpB bi bo) mean
      let c := cleanOf ua p.uaClean
      { x with outcome := .evaluated, q := dutyOf m p.cpB bi bo, dT1 := bi - ws, dT2 := bo - wr, dTm := mean, ua := ua, c := c,
               acc := some (filterAcc cleanShift x.acc c), cf := (filterValue cleanShift (filterAcc cleanShift x.acc c)).toNat } := by
  unfold Exchanger.evaluate
  dsimp only
  rw [if_neg h]

theorem dutyOf_eq_zero {m cp : Nat} {bi bo : Int} (h : bi ≤ bo) : dutyOf m cp bi bo = 0 := if_pos h

theorem dutyOf_of_lt {m cp : Nat} {bi bo : Int} (h : m * cp * (bi - bo).toNat < 2 ^ 63) :
    dutyOf m cp bi bo = m * cp * (bi - bo).toNat / 10000 := by
  unfold dutyOf
  split
  case isTrue hle => rw [Int.toNat_of_nonpos (by omega)]; simp
  case isFalse => rw [prod64_of_lt h]

/-- R130: UA is the truncated quotient. -/
theorem uaOf_bounds {q : Nat} {mean : Int} (hq : q * 100 < 2 ^ 63) (hmean : 0 < mean) :
    (uaOf q mean : Int) * mean ≤ q * 100 ∧ q * 100 < ((uaOf q mean : Int) + 1) * mean := by
  obtain ⟨n, rfl⟩ := Int.eq_ofNat_of_zero_le hmean.le
  have hn : 0 < n := by exact_mod_cast hmean
  have hua : uaOf q n = q * 100 / n := by unfold uaOf; rw [prod64_of_lt hq]; rfl
  rw [hua]
  exact ⟨by exact_mod_cast Nat.div_mul_le_self _ _, by exact_mod_cast Nat.lt_mul_of_div_lt (Nat.lt_succ_self _) hn⟩

/-- E1 to E5 on five usable inputs, for each clause of R128 to R131. -/
theorem Exchanger.evaluate_spec (x : Exchanger) (p : SwuParams) (m : Nat) (bi bo ws wr : Int) :
    let r := x.evaluate p m bi bo ws wr
    let q := m * p.cpB * (bi - bo).toNat
    let mean := (bi - ws + (bo - wr)) / 2
    (q < 2 ^ 63 → r.q = q / 10000) ∧ (bi ≤ bo → r.q = 0) ∧ r.dT1 = bi - ws ∧ r.dT2 = bo - wr ∧ r.fouling = x.fouling ∧
    (bi - ws < 50 ∨ bo - wr < 50 ∨ m = 0 → r = { x with
      outcome := .notEvaluable, q := r.q, dT1 := bi - ws, dT2 := bo - wr }) ∧
    (50 ≤ bi - ws → 50 ≤ bo - wr → m ≠ 0 → 50 ≤ mean ∧ r.outcome = .evaluated ∧ r.dTm = mean ∧
      (r.q * 100 < 2 ^ 63 → (r.ua : Int) * mean ≤ r.q * 100 ∧ r.q * 100 < (r.ua + 1) * mean) ∧
      (r.ua * 1000 < 2 ^ 63 → r.c = min 1500 (r.ua * 1000 / p.uaClean)) ∧ r.c ≤ 1500 ∧
      (x.acc = none → r.acc = some (16 * (r.c : Int)) ∧ r.cf = r.c) ∧
      ∀ a, x.acc = some a → r.acc = some (a - a / 16 + r.c) ∧ r.cf = ((a - a / 16 + r.c) / 16).toNat) := by
  intro r q mean
  obtain ⟨hq, h1, h2⟩ := x.evaluate_duty p m bi bo ws wr
  refine ⟨fun hlt => hq.trans (dutyOf_of_lt hlt), fun hle => hq.trans (dutyOf_eq_zero hle), h1, h2,
    x.evaluate_fouling p m bi bo ws wr, fun hnot => ?not, fun hws hwr hm => ?full⟩
  case not =>
    show x.evaluate p m bi bo ws wr = { x with outcome := _, q := (x.evaluate p m bi bo ws wr).q, dT1 := _, dT2 := _ }
    rw [hq]
    exact x.evaluate_not p hnot
  case full =>
    have hmean : 50 ≤ mean := by omega
    have hr : r = _ := x.evaluate_full p (m := m) (bi := bi) (bo := bo) (ws := ws) (wr := wr) (by omega)
    rw [hr]
    refine ⟨hmean, rfl, rfl, fun hlt => uaOf_bounds hlt (by omega), fun hlt => ?_, Nat.min_le_left _ _, fun hacc => ?_,
      fun a hacc => ?_⟩
    · exact congrArg (fun y => min 1500 (y / p.uaClean)) (prod64_of_lt hlt)
    · simp only [hacc, filterAcc, filterValue, cleanShift]
      exact ⟨by norm_num [mul_comm], by simp⟩
    · simp only [hacc, filterAcc, filterValue, cleanShift]
      exact ⟨rfl, rfl⟩

/-- Settles O57. -/
theorem exchangerSteps : Obligations.ExchangerSteps := by
  refine ⟨?_, Exchanger.evaluate_spec⟩
  intro s f a good usable x w flow z fouling r
  have husable : usable ↔ (f.pulseUsable && (a 8).usable && (a 9).usable && (a 10).usable && (a 11).usable) = true := by
    simp only [Bool.and_eq_true, Sample.pulseUsable_iff, Sample.usable_iff, and_assoc]
    exact Iff.rfl
  have hnext : foulingNext z.fouling z.cf w.cleanAlarm = fouling := by
    rw [foulingNext_eq, x.evaluate_fouling]
  by_cases hu : usable
  case neg =>
    refine ⟨fun _ => if_neg (mt husable.mpr hu), fun hyes => absurd hyes hu, fun hyes => absurd hyes hu⟩
  have heval : r = if z.outcome = .evaluated then State.stepFouling { s with swu := { s.swu with ex := z } }
      else { s with swu := { s.swu with ex := z } } := if_pos (husable.mp hu)
  have hstep : State.stepFouling { s with swu := { s.swu with ex := z } } =
      if fouling = x.fouling then { s with swu := { s.swu with ex := z } }
      else State.handOver { s with swu := { s.swu with ex := { z with fouling := fouling } } } .heat .hxFouling fouling := by
    rw [← hnext, ← x.evaluate_fouling]
    rfl
  refine ⟨fun hnot => absurd hu hnot, fun _ hstay => ?_, fun _ hdone hturn => ?_⟩
  · rw [heval, hstep]
    rcases hstay with hno | hsame
    · rw [if_neg hno]
    · rw [if_pos hsame, ite_self]
  · rw [if_pos hdone, hstep, if_neg hturn] at heval
    obtain ⟨hreacts, harrives, hends⟩ := State.handOver_alarm
      { s with swu := { s.swu with ex := { z with fouling := fouling } } } .heat (c := .hxFouling) rfl rfl fouling
    have hex := (untouched_swu Swu.ex (fun _ _ => rfl) fun _ _ _ => rfl).handOver
      { s with swu := { s.swu with ex := { z with fouling := fouling } } } .heat (c := .hxFouling) rfl fouling
    rw [heval]
    refine ⟨hex, ?_, harrives, hends⟩
    exact (Raw.swu (s := s) (fun v => { v with ex := { z with fouling := fouling } }) rfl).same.trans hreacts.same

/-! ### RELEASE_TRIP -/

theorem State.remove_same (s : State) (c : ChanId) (x : Source) : Same s (s.remove c x) := by
  unfold State.remove
  split
  · exact (((Raw.chan c (fun ch => { ch with stack := removeEntry x ch.stack }) ⟨rfl, rfl⟩).raws.trans
      (State.refold_raws _ c)).same).trans (State.testUnit_reacts _ _).same
  · exact Same.refl s

theorem State.dropTrips_same (s : State) (g : Group) : Same s (s.dropTrips g) :=
  State.each_induct (P := Same s) _ _ (fun c _ q hq => hq.trans (q.remove_same c .trip)) s (.refl s)

theorem State.dropTrips_calm (s : State) (g : Group) : Calm s (s.dropTrips g) (· ∈ groupChannels g) :=
  State.each_induct (P := (Calm s · (· ∈ groupChannels g))) _ _ (fun c hc q hq => hq.trans (q.remove_calm c .trip hc)) s
    (.refl s _)

theorem State.dropTrips_onlyRemoves (s : State) (g : Group) : OnlyRemoves s (s.dropTrips g) :=
  State.each_induct (P := OnlyRemoves s) _ _ (fun c _ q hq => hq.trans (q.remove_onlyRemoves c .trip)) s (.refl s)

/-- One identity is taken out of the stacks of a list of channels. -/
theorem State.removes_stack (s : State) (l : List ChanId) (x : Source) (d : ChanId) :
    ((s.each l fun c q => q.remove c x).chan d).stack = if d ∈ l then removeEntry x (s.chan d).stack else (s.chan d).stack := by
  have hactions := s.removeAll_stack (l.map fun c => ⟨c, .value, 0⟩) x d
  simp only [State.each, List.foldl_map, List.mem_map, exists_exists_and_eq_and, exists_eq_right] at hactions
  exact hactions

theorem State.setLevel_onlyRemoves (s : State) (g : Group) (l : Level) : OnlyRemoves s (s.setLevel g l) := by
  unfold State.setLevel State.queueAll
  exact (s.modGroup_onlyRemoves g fun x => { x with level := l }).queued _ _

/-- The group record in which a change does not show. -/
theorem Same.regroup (h : Same s t) (x : Vector GroupRec 3) : Same { s with groups := x } { t with groups := x } :=
  { h with tripList := fun _ => rfl, level := fun _ => Iff.rfl }

theorem State.setLevel_same (s : State) (g : Group) (l : Level) :
    Same { s with groups := x } { s.setLevel g l with groups := x } :=
  (Raw.queue (s := { s with groups := x }) (fun _ => true) (.groupLevel g l (s.group g).firstOut)).same

/-- R98, R101 step 3: what a trip had propagated ends in the other groups. -/
theorem State.propagateEnd_group (s : State) (g : Group) :
    (s.propagateEnd g).group g = { s.group g with busy := ((s.propagateEnd g).group g).busy } := by
  cases g
  · have hfirst := s.deactivate_group_other .fieldTripped (by decide : Group.field ≠ .turbine)
    have hsecond := (s.deactivate .turbine .fieldTripped).deactivate_group_other .fieldTripped (by decide : Group.field ≠ .heat)
    rw [hfirst] at hsecond
    exact hsecond
  · exact s.deactivate_group_other _ (by decide)
  · exact s.deactivate_group_other _ (by decide)

theorem State.propagateEnd_onlyRemoves (s : State) (g : Group) : OnlyRemoves s (s.propagateEnd g) := by
  cases g
  · exact (s.deactivate_onlyRemoves _ _).trans (State.deactivate_onlyRemoves _ _ _)
  · exact s.deactivate_onlyRemoves _ _
  · exact s.deactivate_onlyRemoves _ _

/-- R94: a deactivation takes entries off channels of its own group. -/
theorem State.deactivate_stack_other (s : State) {g : Group} (c : Cause) {d : ChanId} (h : chanGroup d ≠ g) :
    ((s.deactivate g c).chan d).stack = (s.chan d).stack := by
  rw [(s.deactivate_ended g c).stack d, if_neg]
  rintro ⟨a, ha, rfl⟩
  unfold State.actionsIn at ha
  split at ha
  · cases ha
  · exact h (by simpa using (List.mem_filter.mp ha).2)

theorem State.propagateEnd_stack (s : State) {g : Group} {d : ChanId} (h : chanGroup d = g) :
    ((s.propagateEnd g).chan d).stack = (s.chan d).stack := by
  have hother (q : State) (k : Group) (c : Cause) (hk : g ≠ k) : ((q.deactivate k c).chan d).stack = (q.chan d).stack :=
    q.deactivate_stack_other c (by rwa [h])
  cases g
  · exact (hother _ .heat _ (by decide)).trans (hother s .turbine _ (by decide))
  · exact hother s .field _ (by decide)
  · exact hother s .field _ (by decide)

/-- R98: the causes that the trip of a group has propagated, with their groups. -/
def propagated : Group → List (Group × Cause)
  | .field => [(.turbine, .fieldTripped), (.heat, .fieldTripped)]
  | .turbine => [(.field, .tgTripped)]
  | .heat => [(.field, .hxTripped)]

theorem holds_congr {x y : GroupRec} {c : Cause} (hlog : y.log = x.log) (hset : y.unrecorded = x.unrecorded)
    (h : y.Holds c) : x.Holds c := by
  unfold GroupRec.Holds at h ⊢
  rwa [hlog, hset] at h

theorem State.propagateEnd_not_holds (s : State) (g : Group) (h : s.LogsOk) :
    ∀ x ∈ propagated g, ¬((s.propagateEnd g).group x.1).Holds x.2 := by
  cases g
  · have hsecond := State.deactivate_not_holds (s.deactivate .turbine .fieldTripped) .heat .fieldTripped
      ((s.deactivate_reacts _ _).logsOk h)
    have hfirst := s.deactivate_not_holds .turbine .fieldTripped h
    rw [propagated, List.forall_mem_cons, List.forall_mem_singleton]
    refine ⟨fun hholds => hfirst ?_, hsecond⟩
    have hgroup := (s.deactivate .turbine .fieldTripped).deactivate_group_other .fieldTripped (by decide : Group.turbine ≠ .heat)
    exact holds_congr (congrArg GroupRec.log hgroup :) (congrArg GroupRec.unrecorded hgroup :) hholds
  · exact List.forall_mem_singleton.mpr (s.deactivate_not_holds _ _ h)
  · exact List.forall_mem_singleton.mpr (s.deactivate_not_holds _ _ h)

theorem State.setLevel_told (s : State) (g : Group) (l : Level) (m : Master) :
    ((s.setLevel g l).port m).Told ⟨s.ms, .groupLevel g l (s.group g).firstOut⟩ := State.queue_told _ _ _ m rfl

/-- The state of a release before what the trip had propagated ends. -/
def State.leaveTrip (s : State) (g : Group) : State := (s.dropTrips g).setLevel g ((s.dropTrips g).group g).quietLevel

theorem State.release_eq (s : State) (g : Group) : s.release g = (s.leaveTrip g).propagateEnd g := rfl

theorem State.leaveTrip_group (s : State) (g : Group) : (s.leaveTrip g).group g =
    { s.group g with level := (s.group g).quietLevel, busy := ((s.dropTrips g).group g).busy } := by
  unfold State.leaveTrip
  rw [State.setLevel_group, if_pos rfl, (s.dropTrips_calm g).group g]
  rfl

theorem State.leaveTrip_told (s : State) (g : Group) (m : Master) :
    ((s.leaveTrip g).port m).Told ⟨s.ms, .groupLevel g (s.group g).quietLevel (s.group g).firstOut⟩ := by
  have hfirst : ((s.dropTrips g).group g).firstOut = (s.group g).firstOut ∧
      ((s.dropTrips g).group g).quietLevel = (s.group g).quietLevel := by
    rw [(s.dropTrips_calm g).group g]
    exact ⟨rfl, rfl⟩
  have htold := (s.dropTrips g).setLevel_told g (s.group g).quietLevel m
  rw [hfirst.1, (s.dropTrips_same g).ms] at htold
  unfold State.leaveTrip
  rw [hfirst.2]
  exact htold

theorem State.release_not_holds (s : State) (g : Group) (hin : (s.group g).level = .trip)
    (hquiet : (s.group g).tripActive = false) (h : s.LogsOk) : ∀ x ∈ propagated g, ¬((s.release g).group x.1).Holds x.2 :=
  (s.leaveTrip g).propagateEnd_not_holds g ((Turn.release g hin hquiet).logsOk h)

theorem GroupRec.quietLevel_or (x : GroupRec) : x.quietLevel = .alarm ∨ x.quietLevel = .normal := by
  unfold GroupRec.quietLevel
  split
  · exact .inl rfl
  · exact .inr rfl

/-- Settles O50. -/
theorem releaseTripDecided : Obligations.ReleaseTripDecided := by
  intro s m tag g hrun e o x
  have howner : ownReleaseTrip m (BitVec.ofNat 8 (groupCode g)) e = e.needWriter (e.writesAny m (groupChannels g))
      (if (e.group g).level ≠ .trip then e.answer .ok else if (e.group g).tripActive then e.answer .causeActive
        else (e.release g).answer .ok) := by
    simp only [ownReleaseTrip, groupField_code, State.index]
  split
  case isTrue hnone => exact exec_not_group_writer _ hrun rfl hnone howner
  case isFalse hwriter =>
  split
  case isTrue hout =>
    rw [if_pos hout] at howner
    exact exec_group_writer _ hrun rfl hwriter howner
  case isFalse hin =>
  rw [if_neg hin] at howner
  split
  case isTrue hactive =>
    rw [if_pos ((GroupRec.tripActive_iff _).mpr hactive)] at howner
    exact exec_group_writer _ hrun rfl hwriter howner
  case isFalse hquiet =>
  have hinactive : (e.group g).tripActive = false := by
    rw [← Bool.not_eq_true, GroupRec.tripActive_iff]
    exact hquiet
  rw [hinactive] at howner
  have hgroup : (e.release g).group g = { x with
      level := x.quietLevel, busy := ((e.release g).group g).busy } := by
    rw [e.release_eq, (e.leaveTrip g).propagateEnd_group, e.leaveTrip_group]
  have hlevel : ((e.release g).group g).level = x.quietLevel := by rw [hgroup]
  have hremoves : OnlyRemoves e (e.release g) :=
    ((e.dropTrips_onlyRemoves g).trans (State.setLevel_onlyRemoves _ g _)).trans (State.propagateEnd_onlyRemoves _ g)
  refine ⟨e.release g, exec_group_writer _ hrun rfl hwriter howner, ?same, ?group, ?levels, ?alarm, fun c hc => ?stack, fun c _ => hremoves.sublist c,
    hremoves.unit, hremoves.swu, hremoves.tsm, fun k => ?told, fun hlogs => ?ended⟩
  case same =>
    have hdropped : Same e { e.dropTrips g with groups := e.groups } := (e.dropTrips_same g).regroup e.groups
    exact (hdropped.trans ((e.dropTrips g).setLevel_same g _)).trans ((State.propagateEnd_reacts _ g).same.regroup e.groups)
  case group => rw [hgroup]
  case levels =>
    rw [hlevel]
    exact x.quietLevel_or
  case alarm =>
    rw [hlevel, GroupRec.quietLevel_alarm]
    rfl
  case stack =>
    rw [e.release_eq, State.propagateEnd_stack _ (chanGroup_of_mem hc)]
    exact (e.removes_stack (groupChannels g) .trip c).trans (if_pos hc)
  case told =>
    rw [hlevel, e.release_eq]
    exact (State.propagateEnd_reacts _ g).raws.grows.told (e.leaveTrip_told g k)
  case ended =>
    have hends := e.release_not_holds g (not_not.mp hin) hinactive hlogs
    cases g
    · exact ⟨hends (.turbine, .fieldTripped) (by simp [propagated]), hends (.heat, .fieldTripped) (by simp [propagated])⟩
    · exact hends (.field, .tgTripped) (by simp [propagated])
    · exact hends (.field, .hxTripped) (by simp [propagated])

end Sys2Proof.Machine
end

section
/-! What a trip entry leaves of the logs and of the blocks (R97, R98), and a sample of the discrete inputs (R42, R43). -/

namespace Sys2Proof.Machine

variable {s t r : State}

/-! ### The logs over a trip entry -/

/-- The causes that a unit's forcing may record or end: GUARD_LOST, CALCITE and SPEED_LOST (R118, R139, R144). -/
def Cause.isService : Cause → Prop
  | .guardLost _ | .calcite _ | .speedLost => True
  | _ => False

/-- The causes by which a trip is handed on (R98). -/
def Cause.isPropagated : Cause → Prop
  | .fieldTripped | .tgTripped | .hxTripped => True
  | _ => False

theorem Cause.isService_of_guardLost {c : Cause} (h : c.isGuardLost) : c.isService := by
  cases c <;> first | exact h | exact h.elim

theorem State.serviceEnds_logsKeep (s : State) (g : Group) {c : Cause} (hc : c.isService) :
    LogsKeep (fun _ => Cause.isService) s (s.deactivate g c) :=
  (s.deactivate_logsKeep g c).mono fun _ _ hd => hd.2 ▸ hc

theorem State.calciteOff_logsKeep (s : State) (i : Fin 8) : LogsKeep (fun _ => Cause.isService) s (s.calciteOff i) := by
  unfold State.calciteOff
  split
  · exact LogsKeep.trans (t := s.modSwu _) (logsKeep_of_groups rfl) (State.serviceEnds_logsKeep _ .field trivial)
  · exact .refl s

theorem State.guardOff_logsKeep (s : State) (k : GuardId) {T : Group → Cause → Prop} : LogsKeep T s (s.guardOff k) := by
  unfold State.guardOff
  dsimp only
  split
  · exact .refl s
  · exact ((s.setGuard_logsKeep k _).trans (State.remove_logsKeep _ _ _)).trans (State.tellGuard_logsKeep _ k _ _)

theorem State.leaveService_logsKeep (s : State) (u : UnitId) : LogsKeep (fun _ => Cause.isService) s (s.leaveService u) := by
  unfold State.leaveService
  dsimp only
  cases unitGuard u <;> cases wellOf u
  · exact .refl s
  · exact s.calciteOff_logsKeep _
  · exact s.guardOff_logsKeep _
  · exact (s.guardOff_logsKeep _).trans (State.calciteOff_logsKeep _ _)

theorem State.speedLeave_logsKeep (s : State) (u : UnitId) : LogsKeep (fun _ => Cause.isService) s (s.speedLeave u) := by
  unfold State.speedLeave State.regainSpeed
  split
  · split
    · exact LogsKeep.trans (t := s.modTsm _) (logsKeep_of_groups rfl) (State.serviceEnds_logsKeep _ .turbine trivial)
    · exact .refl s
  · exact .refl s

theorem State.forced_logsKeep (s : State) (u : UnitId) (x : UnitRec) : LogsKeep (fun _ => Cause.isService) s (s.forced u x) := by
  unfold State.forced
  dsimp only
  split
  · exact .refl s
  · have hleft := ((s.leaveService_logsKeep u).trans (State.speedLeave_logsKeep _ u)).trans
      (logsKeep_of_groups (t := ((s.leaveService u).speedLeave u).modUnit u fun y => { y with protAltered := true }) rfl)
    refine LogsKeep.queued ?_ _ _
    split
    · exact hleft
    · exact hleft.queued _ _

theorem State.enterTripState_logsKeep (s : State) (u : UnitId) {T : Group → Cause → Prop} : LogsKeep T s (s.enterTripState u) := by
  unfold State.enterTripState
  split
  · exact .refl s
  · exact logsKeep_of_groups (State.refoldUnit_frame (s := s.modUnit u _) (·.groups) (fun _ _ _ => rfl) u)

theorem State.forceGroup_logsKeep (s : State) (g : Group) : LogsKeep (fun _ => Cause.isService) s (s.forceGroup g) := by
  unfold State.forceGroup
  dsimp only
  have hforced := (LogsKeep.each (l := groupUnits g) (fun u _ q => q.enterTripState_logsKeep u) s).trans
    (LogsKeep.each (l := groupUnits g) (fun u _ q => q.forced_logsKeep u s.units[u]) _)
  split
  · refine hforced.trans (LogsKeep.queued (State.modGroup_logsKeep _ g _ ?_) _ _)
    exact keeps_of_log rfl rfl rfl id
  · exact hforced

theorem State.pushTrip_logsKeep (s : State) (c : ChanId) (v : Nat) : LogsKeep (fun _ => Cause.isGuardLost) s (s.pushTrip c v) :=
  (s.pushRaw_logsKeep c _).trans (logsKeep_of_groups rfl)

/-- R97 steps 1 to 3: a trip entry touches the causes of units that leave service, and no others. -/
theorem State.tripSteps_logsKeep (s : State) (g : Group) : LogsKeep (fun _ => Cause.isService) s (s.tripSteps g) :=
  ((s.setLevel_logsKeep g).trans (LogsKeep.each (l := ((s.setLevel g .trip).group g).tripList)
    (fun x _ q => (q.pushTrip_logsKeep x.channel x.value).mono fun _ _ => Cause.isService_of_guardLost) _)).trans
    (State.forceGroup_logsKeep _ g)

theorem State.propagateAlarm_logsKeep (s : State) (g : Group) :
    LogsKeep (fun _ d => d.isService ∨ d.isPropagated) s (s.propagateAlarm g) := by
  have harrives (q : State) {c : Cause} (hc : c.isPropagated) :
      LogsKeep (fun _ d => d.isService ∨ d.isPropagated) q (q.arriveAlarm .field c) :=
    (q.arriveAlarm_logsKeep .field c).mono fun _ d hd => by
      rcases hd with ⟨_, rfl⟩ | hlost
      · exact .inr hc
      · exact .inl (Cause.isService_of_guardLost hlost)
  cases g
  · exact .refl s
  · exact harrives s trivial
  · exact harrives s trivial

/-- R88: an arrival by its class, over what its trip entry keeps. -/
theorem State.arriveWith_logsKeep (s : State) {f : State → State} (g : Group) (c : Cause)
    (hf : ∀ q, LogsKeep (fun _ d => d.isService ∨ d.isPropagated) q (f q)) :
    LogsKeep (fun k d => onlyAt g c k d ∨ d.isService ∨ d.isPropagated) s (s.arriveWith f g c) := by
  unfold State.arriveWith
  split
  · exact (s.arriveAlarm_logsKeep g c).mono fun _ d hd => hd.imp_right fun h => .inl (Cause.isService_of_guardLost h)
  · refine LogsKeep.trans ?_ (State.relevel_logsKeep _ g)
    have hrecorded := (s.record_logsKeep g c .trip).mono (T' := fun k d => onlyAt g c k d ∨ d.isService ∨ d.isPropagated)
      fun _ _ => .inl
    split
    · exact hrecorded
    · exact hrecorded.trans ((hf _).mono fun _ _ => .inr)

theorem State.tripAlarm_logsKeep (s : State) (g : Group) :
    LogsKeep (fun _ d => d.isService ∨ d.isPropagated) s (s.tripAlarm g) :=
  ((s.tripSteps_logsKeep g).mono fun _ _ => .inl).trans (State.propagateAlarm_logsKeep _ g)

theorem State.propagateField_logsKeep (s : State) :
    LogsKeep (fun _ d => d.isService ∨ d.isPropagated) s s.propagateField := by
  have harrives (q : State) (g k : Group) :
      LogsKeep (fun _ d => d.isService ∨ d.isPropagated) q (q.arriveWith (fun q => q.tripAlarm k) g .fieldTripped) :=
    (q.arriveWith_logsKeep g .fieldTripped fun x => x.tripAlarm_logsKeep k).mono fun _ d hd => by
      rcases hd with ⟨_, rfl⟩ | hrest
      · exact .inr trivial
      · exact hrest
  exact (harrives s .turbine .turbine).trans (harrives _ .heat .heat)

theorem State.propagate_logsKeep (s : State) (g : Group) :
    LogsKeep (fun _ d => d.isService ∨ d.isPropagated) s (s.propagate g) := by
  unfold State.propagate
  split
  · exact State.propagateField_logsKeep _
  · exact State.propagateAlarm_logsKeep _ g

theorem State.tripEntry_logsKeep (s : State) (g : Group) :
    LogsKeep (fun _ d => d.isService ∨ d.isPropagated) s (s.tripEntry g) :=
  ((s.tripSteps_logsKeep g).mono fun _ _ => .inl).trans (State.propagate_logsKeep _ g)

theorem State.arrive_logsKeep (s : State) (g : Group) (c : Cause) :
    LogsKeep (fun k d => onlyAt g c k d ∨ d.isService ∨ d.isPropagated) s (s.arrive g c) :=
  s.arriveWith_logsKeep g c fun q => q.tripEntry_logsKeep g

theorem State.handOver_logsKeep (s : State) (g : Group) (c : Cause) (b : Bool) :
    LogsKeep (fun k d => onlyAt g c k d ∨ d.isService ∨ d.isPropagated) s (s.handOver g c b) := by
  unfold State.handOver
  split
  · exact s.arrive_logsKeep g c
  · exact (s.deactivate_logsKeep g c).mono fun _ _ => .inl

/-- R97: a trip entry leaves its group in TRIP. -/
theorem State.tripEntry_level (s : State) (g : Group) : ((s.tripEntry g).group g).level = .trip := by
  have hsteps : ((s.tripSteps g).group g).level = .trip :=
    ((s.tripSteps_reacts g).same.level g).mpr (by rw [State.setLevel_group, if_pos rfl])
  exact (State.propagate_logsKeep _ g g).level hsteps

/-- R88, R97: a cause that arrives is active, and its group in TRIP where it is of trip class. -/
theorem State.arrive_holds (s : State) (g : Group) {c : Cause} (hm : c.isMomentary = false) (hs : ¬c.isService)
    (hp : ¬c.isPropagated) : ((s.arrive g c).group g).Holds c ∧ (s.classOf c = .trip → ((s.arrive g c).group g).level = .trip) := by
  cases hclass : s.classOf c with
  | alarm =>
    rw [s.arrive_alarm g hclass]
    exact ⟨(s.arriveAlarm_holds g hm).1, nofun⟩
  | trip =>
    unfold State.arrive State.arriveWith
    rw [hclass]
    dsimp only
    have hrecorded := s.record_holds g c .trip
    have hrelevel (q : State) : LogsKeep (fun _ d => d.isService ∨ d.isPropagated) q (q.relevel g) := q.relevel_logsKeep g
    split
    case isTrue hin => exact ⟨(hrelevel _ g).holds (not_or.mpr ⟨hs, hp⟩) hrecorded, fun _ => (hrelevel _ g).level hin⟩
    case isFalse =>
      refine ⟨(((State.tripEntry_logsKeep _ g).trans (hrelevel _)) g).holds (not_or.mpr ⟨hs, hp⟩) hrecorded,
        fun _ => (hrelevel _ g).level (State.tripEntry_level _ g)⟩

/-! ### The blocks over a trip entry -/

/-- `Same` but for the groups. -/
def SameBlocks (s t : State) : Prop := ∀ x, Same { s with groups := x } { t with groups := x }

theorem Same.blocks (h : Same s t) : SameBlocks s t := fun x => h.regroup x

theorem SameBlocks.trans (h : SameBlocks s t) (k : SameBlocks t r) : SameBlocks s r := fun x => (h x).trans (k x)

theorem SameBlocks.refl (s : State) : SameBlocks s s := (Same.refl s).blocks

theorem State.tripSteps_blocks (s : State) (g : Group) : SameBlocks s (s.tripSteps g) :=
  SameBlocks.trans (fun _ => s.setLevel_same g .trip) (s.tripSteps_reacts g).same.blocks

theorem State.propagateAlarm_blocks (s : State) (g : Group) : SameBlocks s (s.propagateAlarm g) :=
  (s.propagateAlarm_reacts g).same.blocks

theorem State.arriveWith_blocks (s : State) {f : State → State} (g : Group) {c : Cause} (hm : c.isMomentary = false)
    (hf : ∀ q, SameBlocks q (f q)) : SameBlocks s (s.arriveWith f g c) := by
  unfold State.arriveWith
  split
  case h_1 h => exact (s.arriveAlarm_reacts g c h hm).same.blocks
  case h_2 =>
    refine SameBlocks.trans ?_ (State.relevel_reacts _ g).same.blocks
    have hrecorded := (s.record_raws g c .trip).same.blocks
    split
    · exact hrecorded
    · exact hrecorded.trans (hf _)

theorem State.tripAlarm_blocks (s : State) (g : Group) : SameBlocks s (s.tripAlarm g) :=
  (s.tripSteps_blocks g).trans (State.propagateAlarm_blocks _ g)

theorem State.propagateField_blocks (s : State) : SameBlocks s s.propagateField := by
  have hone (q : State) (g : Group) : SameBlocks q (q.arriveWith (fun x => x.tripAlarm g) g .fieldTripped) :=
    q.arriveWith_blocks g rfl fun x => x.tripAlarm_blocks g
  exact SameBlocks.trans (hone s .turbine) (hone _ .heat)

theorem State.propagate_blocks (s : State) (g : Group) : SameBlocks s (s.propagate g) := by
  unfold State.propagate
  split
  · exact s.propagateField_blocks
  · exact s.propagateAlarm_blocks g

theorem State.arrive_blocks (s : State) (g : Group) {c : Cause} (hm : c.isMomentary = false) : SameBlocks s (s.arrive g c) :=
  s.arriveWith_blocks g hm fun q => (q.tripSteps_blocks g).trans (State.propagate_blocks _ g)

theorem State.handOver_blocks (s : State) (g : Group) {c : Cause} (hm : c.isMomentary = false) (b : Bool) :
    SameBlocks s (s.handOver g c b) := by
  unfold State.handOver
  split
  · exact s.arrive_blocks g hm
  · exact (s.deactivate_reacts g c).same.blocks

theorem SameBlocks.di (h : SameBlocks s t) : t.di = s.di := (h s.groups).di

theorem SameBlocks.draws (h : SameBlocks s t) : t.draws = s.draws := (h s.groups).draws

theorem SameBlocks.classOf (h : SameBlocks s t) (c : Cause) : t.classOf c = s.classOf c := (h s.groups).classOf c

/-! ### Discrete inputs -/

/-- R43: the cause of input `d` in group `g`. -/
def inputCause (d : Fin 12) (g : Group) (c : Cause) : Prop :=
  if d.val < 8 then g = .field ∧ ∃ i : Fin 8, i.val = d.val ∧ c = .vfdFault i
  else if d = 8 then g = .turbine ∧ c = .extOverspeed
  else if d = 9 then g = .turbine ∧ c = .sepLevelHH
  else if d = 10 then g = .heat ∧ c = .hxLeak
  else c = .estop

theorem mem_discreteCauses (d : Fin 12) (g : Group) (c : Cause) : (g, c) ∈ discreteCauses d ↔ inputCause d g c := by
  unfold discreteCauses inputCause
  by_cases hd : d.val < 8
  · rw [dif_pos hd, if_pos hd, List.mem_singleton, Prod.mk.injEq]
    refine and_congr_right fun _ => ⟨fun hc => ⟨⟨d.val, hd⟩, rfl, hc⟩, fun ⟨i, hi, hc⟩ => ?_⟩
    rw [hc, Fin.ext (a := i) (b := ⟨d.val, hd⟩) hi]
  · rw [dif_neg hd, if_neg hd]
    have hcases : d = 8 ∨ d = 9 ∨ d = 10 ∨ d = 11 := by omega
    rcases hcases with rfl | rfl | rfl | rfl
    · simp
    · simp
    · simp
    · cases g <;> simp

theorem inputCause_kind {d : Fin 12} {g : Group} {c : Cause} (h : inputCause d g c) :
    c.isMomentary = false ∧ ¬c.isService ∧ ¬c.isPropagated := by
  unfold inputCause at h
  split_ifs at h
  · obtain ⟨_, i, _, rfl⟩ := h
    exact ⟨rfl, id, id⟩
  · exact h.2 ▸ ⟨rfl, id, id⟩
  · exact h.2 ▸ ⟨rfl, id, id⟩
  · exact h.2 ▸ ⟨rfl, id, id⟩
  · exact h ▸ ⟨rfl, id, id⟩

/-- The input a cause belongs to. -/
def Cause.input : Cause → Nat
  | .vfdFault i => i
  | .extOverspeed => 8
  | .sepLevelHH => 9
  | .hxLeak => 10
  | _ => 11

theorem inputCause_input {d : Fin 12} {g : Group} {c : Cause} (h : inputCause d g c) : c.input = d.val := by
  unfold inputCause at h
  split_ifs at h with hlt h8 h9 h10
  · obtain ⟨_, i, hi, rfl⟩ := h
    exact hi
  · rw [h.2, h8]
    rfl
  · rw [h.2, h9]
    rfl
  · rw [h.2, h10]
    rfl
  · rw [h]
    show 11 = d.val
    omega

/-- R43: no two inputs share a cause. -/
theorem inputCause_inj {d e : Fin 12} {g : Group} {c : Cause} (h : inputCause d g c) (k : inputCause e g c) : d = e :=
  Fin.ext ((inputCause_input h).symm.trans (inputCause_input k))

/-- What has become of a cause whose condition has turned. -/
def Turned (e : State) (g : Group) (c : Cause) (arrives : Bool) (s : State) : Prop :=
  (arrives = true → (s.group g).Holds c ∧ (e.classOf c = .trip → (s.group g).level = .trip)) ∧
  (arrives = false → e.LogsOk → ¬(s.group g).Holds c)

theorem State.handOver_turned {e : State} (s : State) (g : Group) {c : Cause} (b : Bool) (hm : c.isMomentary = false) (hs : ¬c.isService)
    (hp : ¬c.isPropagated) (hclass : s.classOf c = e.classOf c) (hlogs : e.LogsOk → s.LogsOk) :
    Turned e g c b (s.handOver g c b) := by
  unfold State.handOver
  cases b
  · exact ⟨nofun, fun _ h => s.deactivate_not_holds g c (hlogs h)⟩
  · exact ⟨fun _ => hclass ▸ s.arrive_holds g hm hs hp, nofun⟩

theorem Turned.keep {e : State} {g : Group} {c : Cause} {b : Bool} {T : Group → Cause → Prop} (h : Turned e g c b s)
    (k : LogsKeep T s t) (hT : ¬T g c) : Turned e g c b t :=
  ⟨fun hb => ⟨(k g).holds hT (h.1 hb).1, fun hc => (k g).level ((h.1 hb).2 hc)⟩,
    fun hb hl hholds => h.2 hb hl ((k g).only c hT hholds)⟩

/-- A run of conditions that turn, among which that of `c` in `g` stands, and stands with `b` wherever it does. -/
theorem State.hands_turned {e : State} {g : Group} {c : Cause} {b : Bool} (l : List Hand) (s : State)
    (hkind : ∀ x ∈ l, x.cause.isMomentary = false) (hs : ¬c.isService) (hp : ¬c.isPropagated)
    (hsame : ∀ x ∈ l, x.group = g → x.cause = c → x.arrives = b) (hclass : ∀ d, s.classOf d = e.classOf d)
    (hlogs : e.LogsOk → s.LogsOk) (h : Turned e g c b s ∨ ∃ x ∈ l, x.group = g ∧ x.cause = c) :
    Turned e g c b (s.each l fun x q => q.handOver x.group x.cause x.arrives) := by
  induction l generalizing s with
  | nil => exact h.resolve_right (by simp)
  | cons x l ih =>
    rw [State.each_cons]
    have hmx := hkind x (.head _)
    refine ih _ (fun y hy => hkind y (.tail _ hy)) (fun y hy => hsame y (.tail _ hy))
      (fun d => ((s.handOver_blocks x.group hmx _).classOf d).trans (hclass d))
      (fun hl => (s.handOver_turns x.group x.cause x.arrives hmx).keep (fun _ _ => Turn.logsOk) (hlogs hl)) ?_
    by_cases hx : x.group = g ∧ x.cause = c
    · obtain ⟨rfl, rfl⟩ := hx
      rw [← hsame x (.head _) rfl rfl]
      exact .inl (State.handOver_turned s x.group x.arrives hmx hs hp (hclass _) hlogs)
    · refine h.imp (fun ht => ht.keep (s.handOver_logsKeep x.group x.cause x.arrives) ?_) fun ⟨y, hy, hgc⟩ => ⟨y, ?_, hgc⟩
      · exact not_or.mpr ⟨fun ⟨hg, hc⟩ => hx ⟨hg.symm, hc.symm⟩, not_or.mpr ⟨hs, hp⟩⟩
      · exact (List.mem_cons.mp hy).resolve_left fun heq => hx (heq ▸ hgc)

theorem State.hands_blocks (s : State) (l : List Hand) (hkind : ∀ x ∈ l, x.cause.isMomentary = false) :
    SameBlocks s (s.each l fun x q => q.handOver x.group x.cause x.arrives) :=
  State.each_induct (P := SameBlocks s) l _ (fun x hx t ht => ht.trans (t.handOver_blocks x.group (hkind x hx) x.arrives)) s
    (.refl s)

theorem mem_handsOf {old new : Vector Discrete 12} {d : Fin 12} {x : Hand} : x ∈ handsOf old new d ↔
    old[d].filtered ≠ new[d].filtered ∧ inputCause d x.group x.cause ∧ x.arrives = new[d].filtered := by
  unfold handsOf
  split
  case isTrue h => exact iff_of_false List.not_mem_nil fun hx => hx.1 h
  case isFalse h =>
    simp only [List.mem_map, ← mem_discreteCauses]
    constructor
    · rintro ⟨y, hy, rfl⟩
      exact ⟨h, hy, rfl⟩
    · rintro ⟨_, hx, harrives⟩
      exact ⟨_, hx, by rw [← harrives]⟩

theorem Discrete.sample_eq (x : Discrete) (high : Bool) : x.sample high =
    let h := x.history ++ [high != x.activeLow]
    let kept := h.drop (h.length - 3)
    { x with
      history := kept
      filtered := if kept = [!x.filtered, !x.filtered, !x.filtered] then !x.filtered else x.filtered } := by
  have hagree (l : List Bool) : l.length = 3 ∧ l.all (fun b => b != x.filtered) = true ↔
      l = [!x.filtered, !x.filtered, !x.filtered] := by
    have hne (b : Bool) : (b != x.filtered) = true ↔ b = !x.filtered := by cases b <;> cases x.filtered <;> decide
    simp only [List.all_eq_true, hne]
    exact (List.eq_replicate_iff (n := 3)).symm
  unfold Discrete.sample
  simp only [hagree]
  rfl

/-- The discrete inputs after a sample. -/
def State.sampled (s : State) (levels : BitVec 12) : Vector Discrete 12 := vec12 fun d => (s.di[d]).sample (levels.getLsbD d.val)

theorem State.sampled_get (s : State) (levels : BitVec 12) (d : Fin 12) :
    (s.sampled levels)[d] = (s.di[d]).sample (levels.getLsbD d.val) := vec12_get _ d

/-- What a sample hands over. -/
def State.hands (s : State) (levels : BitVec 12) : List Hand := discretes.flatMap (handsOf s.di (s.sampled levels))

theorem State.sampleDiscretes_eq (s : State) (levels : BitVec 12) : s.sampleDiscretes levels =
    State.each { s with di := s.sampled levels, draws := s.draws + 1 } (freeOrder (s.draws + 1) (s.hands levels))
      fun x q => q.handOver x.group x.cause x.arrives := rfl

theorem State.mem_hands (s : State) (levels : BitVec 12) (x : Hand) : x ∈ s.hands levels ↔
    ∃ d : Fin 12, (s.di[d]).filtered ≠ ((s.sampled levels)[d]).filtered ∧ inputCause d x.group x.cause ∧
      x.arrives = ((s.sampled levels)[d]).filtered := by
  have hall (d : Fin 12) : d ∈ discretes := by fin_cases d <;> decide
  simp only [State.hands, List.mem_flatMap, mem_handsOf, hall, true_and]

/-- Settles O49. -/
theorem discreteSample : Obligations.DiscreteSample := by
  intro s levels o
  refine ⟨fun hrun => congrArg Host.Outcome.next (if_neg hrun), fun hrun => ?_⟩
  have hkind : ∀ x ∈ freeOrder (s.draws + 1) (s.hands levels), x.cause.isMomentary = false := fun x hx => by
    obtain ⟨d, _, hcause, _⟩ := (s.mem_hands levels x).mp ((mem_freeOrder _ _ _).mp hx)
    exact (inputCause_kind hcause).1
  have hblocks := State.hands_blocks { s with di := s.sampled levels, draws := s.draws + 1 } _ hkind
  rw [← s.sampleDiscretes_eq] at hblocks
  have hdi (d : Fin 12) : (s.sampleDiscretes levels).di[d] = (s.di[d]).sample (levels.getLsbD d.val) := by
    rw [hblocks.di]
    exact s.sampled_get levels d
  refine ⟨s.sampleDiscretes levels, congrArg Host.Outcome.next (if_pos hrun), hblocks.draws, fun d => ?_, fun hstill => ?_,
    fun d hturn g c hcause => ?_⟩
  · rw [hdi]
    exact Discrete.sample_eq _ _
  · have hnone : s.hands levels = [] := by
      refine List.eq_nil_iff_forall_not_mem.mpr fun x hx => ?_
      obtain ⟨d, hne, _⟩ := (s.mem_hands levels x).mp hx
      rw [s.sampled_get, ← hdi] at hne
      exact hne (hstill d).symm
    rw [s.sampleDiscretes_eq, hnone]
    rfl
  · have hcause : inputCause d g c := hcause
    obtain ⟨hm, hs, hp⟩ := inputCause_kind hcause
    rw [hdi, ← s.sampled_get] at hturn ⊢
    have hturned := State.hands_turned (e := s) (g := g) (c := c) (b := ((s.sampled levels)[d]).filtered)
      (freeOrder (s.draws + 1) (s.hands levels)) { s with di := s.sampled levels, draws := s.draws + 1 } hkind hs hp
      (fun x hx hg hc => ?_) (fun c => by cases c <;> rfl) id (.inr ⟨⟨g, c, ((s.sampled levels)[d]).filtered⟩, ?_, rfl, rfl⟩)
    · exact hturned
    · obtain ⟨k, _, hk, harrives⟩ := (s.mem_hands levels x).mp ((mem_freeOrder _ _ _).mp hx)
      rw [harrives, inputCause_inj hcause (hg ▸ hc ▸ hk)]
    · exact (mem_freeOrder _ _ _).mpr ((s.mem_hands levels _).mpr ⟨d, hturn.symm, hcause, rfl⟩)

end Sys2Proof.Machine
end

section
/-! What an arrival of a cause of ALARM class leaves (R88, R92, R94, R105), and the conversions (R30 to R36). -/

namespace Sys2Proof.Machine

variable {s t r : State} {g : Group}

/-! ### Alarm arrivals -/

/-- What pushes leave of a group: GUARD_LOST may be recorded, and a level that is entered is told. -/
structure Alarms (g : Group) (s t : State) : Prop where
  goes : Goes s t
  keeps : LogsKeep (fun _ => Cause.isGuardLost) s t
  set : (t.group g).unrecorded = (s.group g).unrecorded
  told : (s.group g).log ≠ [] → (t.group g).level ≠ (s.group g).level → ∀ m,
    (t.port m).Told ⟨s.ms, .groupLevel g (t.group g).level (t.group g).firstOut⟩

/-- The first-out cause stays while records only join (R88). -/
theorem GroupRec.Keeps.firstOut {P : Cause → Prop} {x y : GroupRec} (h : x.Keeps P y) (hx : x.log ≠ []) :
    y.firstOut = x.firstOut ∧ y.log ≠ [] := by
  obtain ⟨z, l, hz⟩ := List.exists_cons_of_ne_nil hx
  obtain ⟨z', hz', hcause, _⟩ := h.log 0 z (by rw [hz]; rfl)
  unfold GroupRec.firstOut
  rw [List.head?_eq_getElem?, List.head?_eq_getElem?, hz', hz]
  exact ⟨congrArg some hcause, List.ne_nil_of_mem (List.mem_of_getElem? hz')⟩

theorem Alarms.refl (s : State) : Alarms g s s := ⟨.refl s, .refl s, rfl, fun _ hne => absurd rfl hne⟩

theorem Alarms.trans (h : Alarms g s t) (k : Alarms g t r) : Alarms g s r where
  goes := h.goes.trans k.goes
  keeps := h.keeps.trans k.keeps
  set := k.set.trans h.set
  told hs hne m := by
    obtain ⟨_, ht⟩ := (h.keeps g).firstOut hs
    by_cases hlater : (r.group g).level = (t.group g).level
    · rw [hlater, ((k.keeps g).firstOut ht).1]
      exact k.goes.grows.told (h.told hs (by rwa [← hlater]) m)
    · rw [← h.goes.ms]
      exact k.told ht hlater m

theorem alarms_of_log (hgoes : Goes s t) (h : ∀ k, ((t.group k).level, (t.group k).log, (t.group k).unrecorded, (t.group k).logFull) =
    ((s.group k).level, (s.group k).log, (s.group k).unrecorded, (s.group k).logFull)) : Alarms g s t where
  goes := hgoes
  keeps := logsKeep_of_read h
  set := congrArg (fun x => x.2.2.1) (h g)
  told _ hne := absurd (congrArg (fun x => x.1) (h g)) hne

theorem alarms_of_groups (hgoes : Goes s t) (h : t.groups = s.groups) : Alarms g s t :=
  alarms_of_log hgoes fun k => by simp only [State.group, h]

/-- R92, R105: a level that is recomputed is told. -/
theorem State.relevel_alarms (s : State) (h : Group) : Alarms g s (s.relevel h) where
  goes := s.relevel_goes h
  keeps := s.relevel_logsKeep h
  set := by
    rw [State.relevel_group]
    split
    case isTrue hg => rw [hg]
    case isFalse => rfl
  told _ hne m := by
    by_cases hg : g = h
    · subst hg
      have hfirst : ((s.relevel g).group g).firstOut = (s.group g).firstOut := by
        rw [State.relevel_group, if_pos rfl]
        rfl
      rw [hfirst]
      exact s.relevel_told g hne m
    · rw [State.relevel_group, if_neg hg] at hne
      exact absurd rfl hne

theorem GroupRec.withArrival_momentary (x : GroupRec) {c : Cause} (hm : c.isMomentary = true) (cls : CauseClass) (now : Word) :
    (x.withArrival c cls now).unrecorded = x.unrecorded := by
  unfold GroupRec.withArrival
  by_cases hlog : ∃ r ∈ x.log, r.cause = c
  · rw [if_pos hlog]
  · rw [if_neg hlog]
    by_cases hroom : x.log.length < 8
    · rw [if_pos hroom]
    · rw [if_neg hroom, if_pos (.inl hm)]

theorem State.momentary_alarms (s : State) (h : Group) (d : ChanId) : Alarms g s (s.momentary h (.guardLost d)) := by
  refine Alarms.trans (t := s.recordWith h (.guardLost d) .alarm true ((s.group h).arriveMomentary (.guardLost d) .alarm s.ms))
    ⟨s.recordWith_goes _ _ _ _ (GroupRec.arriveMomentary_spec ..).2.2, ?_, ?_, ?_⟩ (State.relevel_alarms _ h)
  · refine (s.recordWith_logsKeep h (.guardLost d) .alarm true (GroupRec.arriveMomentary_keeps ..).at).mono fun _ _ hd => ?_
    rw [hd.2]
    exact trivial
  · rw [State.recordWith_group]
    split
    case isTrue hg =>
      rw [GroupRec.arriveMomentary_eq _ _ _ _ rfl, hg]
      exact GroupRec.withArrival_momentary _ rfl _ _
    case isFalse => rfl
  · intro _ hne
    rw [State.recordWith_group] at hne
    split at hne
    case isTrue hg =>
      rw [(GroupRec.arriveMomentary_spec ..).2.1, hg] at hne
      exact absurd rfl hne
    case isFalse => exact absurd rfl hne

theorem State.discarded_alarms (s : State) (c : ChanId) (x : Entry) : Alarms g s (s.discarded c x) := by
  unfold State.discarded
  split
  · dsimp only
    split
    case h_1 k _ =>
      have hguard : Alarms g s ((s.setGuard k (s.guard k).cleared).tellGuard k (s.guard k).state .overflow) := by
        exact alarms_of_log ((s.setGuard_goes k _).trans (State.tellGuard_goes _ k _ _)) fun h =>
          congrArg (fun y : GroupRec => (y.level, y.log, y.unrecorded, y.logFull)) (s.loseGuard_group k h)
      exact hguard.trans (State.momentary_alarms _ _ c)
    case h_2 => exact s.momentary_alarms _ c
  · exact alarms_of_groups ((Goes.refl s).queued _ _) rfl

theorem State.push_alarms (s : State) (c : ChanId) (x : Entry) : Alarms g s (s.push c x) := by
  have hdiscard : Alarms g s (s.afterDiscard c x) := by
    unfold State.afterDiscard
    split
    · exact s.discarded_alarms c _
    · exact .refl s
  refine hdiscard.trans (alarms_of_log ?_ fun k => ?_)
  · exact (State.modChan_goes _ c fun ch => { ch with stack := pushEntry x ch.stack }).trans
      ((State.refold_goes _ c).trans (State.testUnit_goes _ _))
  · rw [(s.push_after c x).group k]

theorem State.applyActions_alarms (s : State) (h : Group) (c : Cause) : Alarms g s (s.applyActions h c) :=
  State.each_induct (P := Alarms g s) _ _ (fun a _ t ht => ht.trans (t.push_alarms a.channel ⟨.alarm c, a.kind, a.value, t.ms⟩)) s
    (.refl s)

theorem GroupRec.withArrival_log (x : GroupRec) (c : Cause) (cls : CauseClass) (now : Word) :
    (x.withArrival c cls now).log ≠ [] := by
  unfold GroupRec.withArrival
  by_cases hlog : ∃ r ∈ x.log, r.cause = c
  · rw [if_pos hlog]
    obtain ⟨z, hz, _⟩ := hlog
    exact fun h => List.ne_nil_of_mem hz (List.map_eq_nil_iff.mp h)
  · rw [if_neg hlog]
    by_cases hroom : x.log.length < 8
    · rw [if_pos hroom]
      exact List.append_ne_nil_of_right_ne_nil _ (List.cons_ne_nil _ _)
    · rw [if_neg hroom]
      exact fun h : x.log = [] => hroom (by rw [h]; decide)

/-- R88: the group after the record of an arrival. -/
theorem State.record_arrival (s : State) (g : Group) {c : Cause} (hm : c.isMomentary = false) (hlogs : s.LogsOk) :
    (s.record g c .alarm).group g = (s.group g).withArrival c .alarm s.ms ∧
      ((s.record g c .alarm).group g).level = (s.group g).level := by
  rw [State.record, State.recordWith_group, if_pos rfl]
  exact ⟨GroupRec.arrive_eq _ (hlogs g) _ _ _ hm, (GroupRec.arrive_spec ..).2.1⟩

theorem State.alarmed_congr (hactions : t.actions = s.actions) (hms : t.ms = s.ms) (g : Group) (c : Cause) (d : ChanId)
    (l : List Entry) : t.alarmed g c d l = s.alarmed g c d l := by
  unfold State.alarmed
  rw [State.actionsIn_congr hactions, hms]

/-- R88, R92, R94, R105: what the arrival of a cause of ALARM class that is not momentary leaves. -/
theorem State.arriveAlarm_arrived (s : State) (g : Group) {c : Cause} (hm : c.isMomentary = false) (hlogs : s.LogsOk) :
    AlarmArrived s (s.arriveAlarm g c) g c := by
  obtain ⟨hrecord, hlevel⟩ := s.record_arrival g hm hlogs
  have hgoes := s.record_goes g c .alarm
  have hacts : Alarms g (s.record g c .alarm) (s.arriveAlarm g c) :=
    (State.applyActions_alarms _ g c).trans (State.relevel_alarms _ g)
  have hafter : ((s.arriveAlarm g c).group g).level = if (s.group g).level = .trip then .trip else .alarm := by
    have hkept := (State.applyActions_reacts (s.record g c .alarm) g c).same.level g
    exact (s.arriveAlarm_holds g hm).2.trans (if_congr (by rw [hkept, hlevel]) rfl rfl)
  refine ⟨fun i z hz hother => ?log, hacts.set.trans (congrArg GroupRec.unrecorded hrecord), fun hfull => ?full, hafter,
    fun b hb m => ?causeNew, fun hnormal m => ?groupLevel, fun d => ?stack⟩
  case log =>
    obtain ⟨z', hz', hcause, hsame⟩ := (hacts.keeps g).log i z (by rw [hrecord]; exact hz)
    rw [hz', hsame fun hlost => ?_]
    cases hc : z.cause with
    | guardLost d => exact hother d hc
    | _ => rw [hc] at hlost; exact hlost
  case full => exact (hacts.keeps g).full (by rw [hrecord]; exact hfull)
  case causeNew =>
    refine hacts.goes.grows.told (s.recordWith_told g c .alarm false _ ?_ m)
    rw [GroupRec.arrive_newRecord _ _ _ _ hm]
    exact hb
  case groupLevel =>
    have htold := hacts.told (by rw [hrecord]; exact GroupRec.withArrival_log _ _ _ _) (by rw [hafter, hlevel, hnormal]; nofun) m
    rw [hafter, hnormal, hgoes.ms] at htold
    exact htold
  case stack =>
    have hchan : (s.record g c .alarm).chan d = s.chan d := s.recordWith_chan g c .alarm false _ d
    unfold State.arriveAlarm
    rw [State.relevel_chan, State.applyActions_stack, hchan,
      State.alarmed_congr (s.record_raws g c .alarm).same.actions hgoes.ms]

/-! ### Conversions -/

/-- Table 2-3. -/
theorem gradeOf_eq (k : Nat) : gradeOf k =
    if k ≤ 575 ∨ 3361 ≤ k then .bad else if k ≤ 639 ∨ 3201 ≤ k then .limited else .good := by
  unfold gradeOf
  split_ifs <;> first | rfl | omega

/-- R31: the raw value is the quotient rounded half up. -/
theorem AnalogParams.raw_eq (p : AnalogParams) (k : Nat) : p.raw (clampCode k) =
    if 2 * (((max 640 (min 3200 k) : Int) - 640) * (p.hi - p.lo) % 2560) < 2560 then
      p.lo + ((max 640 (min 3200 k) : Int) - 640) * (p.hi - p.lo) / 2560
    else p.lo + ((max 640 (min 3200 k) : Int) - 640) * (p.hi - p.lo) / 2560 + 1 := by
  have hcode : ((clampCode k : Nat) : Int) = max 640 (min 3200 (k : Int)) := by
    unfold clampCode
    omega
  unfold AnalogParams.raw
  rw [hcode]
  generalize ((max 640 (min 3200 k) : Int) - 640) * (p.hi - p.lo) = x
  split <;> omega

/-- R30 to R33: the record after a conversion. -/
theorem Analog.convert_eq (a : Analog) (k : Nat) : a.convert k =
    if gradeOf k = .bad then { a with code := k, quality := .bad, acc := none }
    else { a with
      code := k
      quality := gradeOf k
      acc := some (filterAcc a.params.shift a.acc (a.params.raw (clampCode k)))
      value := filterAcc a.params.shift a.acc (a.params.raw (clampCode k)) / 2 ^ a.params.shift
      age := 0 } := by
  unfold Analog.convert
  dsimp only
  split
  case isTrue hbad => rw [hbad]
  case isFalse => rfl

theorem Analog.convert_quality (a : Analog) (k : Nat) : (a.convert k).quality = gradeOf k := by
  rw [Analog.convert_eq]
  split
  case isTrue hbad => exact hbad.symm
  case isFalse => rfl

theorem State.classOf_modAnalog (s : State) (n : Fin 16) (f : Analog → Analog) (hf : ∀ a, (f a).params = a.params) (c : Cause) :
    (s.modAnalog n f).classOf c = s.classOf c := by
  have hparams (j : Fin 16) : ((s.modAnalog n f).analog j).params = (s.analog j).params := by
    rw [s.analog_modAnalog]
    split
    case isTrue h => rw [hf, h]
    case isFalse => rfl
  cases c <;> simp only [State.classOf, hparams]

theorem State.logsOk_modAnalog {s : State} (h : s.LogsOk) (n : Fin 16) (f : Analog → Analog) (hf : ∀ a, (f a).params = a.params) :
    (s.modAnalog n f).LogsOk := fun g => by
  have hclass : (s.modAnalog n f).classOf = s.classOf := funext (s.classOf_modAnalog n f hf)
  rw [hclass]
  exact h g

/-- R36: SENSOR_BAD follows a change of quality to or from BAD. -/
theorem State.sensorChange_spec (s : State) (n : Fin 16) (old : Quality) :
    let t := s.sensorChange n old
    let g := (s.analog n).params.badGroup
    Same s t ∧ Goes s t ∧ ((old = .bad ↔ (s.analog n).quality = .bad) → t = s) ∧
    (old ≠ .bad → (s.analog n).quality = .bad → (t.group g).Holds (.sensorBad n) ∧
      (s.LogsOk → AlarmArrived s t g (.sensorBad n))) ∧
    (old = .bad → (s.analog n).quality ≠ .bad → CauseEnded s t g (.sensorBad n) ∧
      (s.LogsOk → ¬(t.group g).Holds (.sensorBad n))) := by
  intro t g
  by_cases hold : old = .bad <;> by_cases hnew : (s.analog n).quality = .bad
  · have ht : t = s := (if_neg fun h => h.1 hold).trans (if_neg fun h => h.2 hnew)
    rw [ht]
    exact ⟨.refl s, .refl s, fun _ => rfl, fun h => absurd hold h, fun _ h => absurd hnew h⟩
  · have ht : t = s.deactivate g (.sensorBad n) := (if_neg fun h => h.1 hold).trans (if_pos ⟨hold, hnew⟩)
    rw [ht]
    exact ⟨(s.deactivate_reacts _ _).same, s.deactivate_goes _ _, fun h => absurd (h.mp hold) hnew, fun h => absurd hold h,
      fun _ _ => ⟨s.deactivate_ended _ _, s.deactivate_not_holds _ _⟩⟩
  · have ht : t = s.arriveAlarm g (.sensorBad n) := (if_pos ⟨hold, hnew⟩).trans (s.arrive_alarm (c := .sensorBad n) g rfl)
    rw [ht]
    exact ⟨(s.arriveAlarm_reacts _ _ rfl rfl).same, s.arriveAlarm_goes _ _, fun h => absurd (h.mpr hnew) hold,
      fun _ _ => ⟨(s.arriveAlarm_holds g rfl).1, s.arriveAlarm_arrived g rfl⟩, fun h => absurd h hold⟩
  · have ht : t = s := (if_neg fun h => hnew h.2).trans (if_neg fun h => hold h.1)
    rw [ht]
    exact ⟨.refl s, .refl s, fun _ => rfl, fun _ h => absurd h hnew, fun h => absurd h hold⟩

theorem State.convert_same (s : State) (n : Fin 16) (k : Nat) : Same (s.modAnalog n fun a => a.convert k) (s.convert n k) :=
  ((s.modAnalog n fun a => a.convert k).sensorChange_spec n (s.analog n).quality).1

theorem State.exec_conversion (s : State) (code : BitVec 12) {p : Nat} {n : Fin 16} (hpos : s.asu.pos = some p)
    (hn : s.asu.list[p]? = some n) {r : State} (hr : (s.convert n code.toNat).nextEntry p = r) :
    exec (.conversionEnd code) s = .next r := by
  show execConversionEnd code s = _
  unfold execConversionEnd
  rw [hpos]
  dsimp only
  rw [hn]
  exact congrArg Host.Outcome.next hr

/-- What a conversion leaves, but for the inputs and the schedule. -/
theorem Same.converted {a : Asu} {f : Analog → Analog} {n : Fin 16} (h : Same (s.modAnalog n f) t) :
    Same { s with ai := t.ai, asu := a } { t with asu := a } :=
  { h with asu := rfl, ai := rfl }

/-- Settles O52. -/
theorem conversionEnds : Obligations.ConversionEnds := by
  intro s code
  refine ⟨fun hnone => ?_, fun p n hpos hn hmore => ?_⟩
  · show Host.Outcome.next _ = _
    rw [hnone]
  intro a k q rawDown raw acc
  have hq : gradeOf k = q := gradeOf_eq k
  have hacc : filterAcc a.params.shift a.acc (a.params.raw (clampCode k)) = acc := by
    rw [AnalogParams.raw_eq]
    rfl
  have hconv : a.convert k = if q = .bad then { a with code := k, quality := .bad, acc := none }
      else { a with code := k, quality := q, acc := some acc, value := acc / 2 ^ a.params.shift, age := 0 } := by
    rw [Analog.convert_eq, hq, hacc]
  let c := s.modAnalog n fun b => b.convert k
  have hc (j : Fin 16) : c.analog j = if j = n then a.convert k else s.analog j := s.analog_modAnalog n j _
  have hcn : c.analog n = a.convert k := (hc n).trans (if_pos rfl)
  obtain ⟨hsame, hgoes, hstill, harrives, hends⟩ := c.sensorChange_spec n a.quality
  have hgroup : (c.analog n).params.badGroup = a.params.badGroup := by rw [hcn, Analog.convert_params]
  have hquality : (c.analog n).quality = q := by rw [hcn, Analog.convert_quality, hq]
  have hlogs (h : s.LogsOk) : c.LogsOk := State.logsOk_modAnalog h n _ fun b => b.convert_params k
  rw [hgroup, hquality] at harrives hends
  rw [hquality] at hstill
  have hexec := s.exec_conversion code hpos hn (if_pos (by
    rw [(s.convert_same n code.toNat).asu]
    exact hmore))
  change Same c (s.convert n code.toNat) at hsame
  change Goes c (s.convert n code.toNat) at hgoes
  change _ → s.convert n code.toNat = c at hstill
  change _ → _ → ((s.convert n code.toNat).group a.params.badGroup).Holds _ ∧
    (c.LogsOk → AlarmArrived c (s.convert n code.toNat) _ _) at harrives
  change _ → _ → CauseEnded c (s.convert n code.toNat) _ _ ∧ (c.LogsOk → ¬((s.convert n code.toNat).group _).Holds _) at hends
  generalize s.convert n code.toNat = t at hexec hsame hgoes hstill harrives hends
  refine ⟨_, hexec, hsame.converted, by rw [hsame.asu]; rfl, ?_, fun j hj => ?_, fun h => ?_, fun h1 h2 => ?_, fun h1 h2 => ?_,
    hgoes.go⟩
  · refine Eq.trans ?_ (hcn.trans hconv)
    simp only [State.analog, hsame.ai]
  · refine Eq.trans ?_ ((hc j).trans (if_neg hj))
    simp only [State.analog, hsame.ai]
  · rw [hstill h]
    rfl
  · obtain ⟨hholds, harrived⟩ := harrives h1 h2
    refine ⟨hholds, fun hl => ?_⟩
    obtain ⟨hlog, hset, hfull, hlevel, hnew, hlevelTold, hstack⟩ := harrived (hlogs hl)
    exact ⟨hlog, hset, hfull, hlevel, hnew, hlevelTold, hstack⟩
  · obtain ⟨⟨hrecord, hlevel, htold, hstack⟩, hnot⟩ := hends h1 h2
    exact ⟨⟨hrecord, hlevel, htold, hstack⟩, fun hl => hnot (hlogs hl)⟩

end Sys2Proof.Machine
end

section
/-! The guard rule (R140, R141, R145) and the calcite steps of a well (R138, R139). -/

namespace Sys2Proof.Machine

variable {s t r : State} {k : GuardId}

/-! ### The guard rule -/

/-- What is told of a guard: GUARD_STATE at a change, and nothing else changes (R145). -/
theorem State.tellGuard_spec (s : State) (k : GuardId) (old : GuardState) (why : GuardReason) :
    { s.tellGuard k old why with ports := s.ports } = s ∧ ((s.guard k).state ≠ old → ∀ m,
      (s.entry k.chan).readers.has m = true →
      ((s.tellGuard k old why).port m).Told ⟨s.ms, .guardState k.chan (s.guard k).state why (s.guard k).ceiling⟩) := by
  unfold State.tellGuard State.queueReaders
  dsimp only
  split
  case isTrue h => exact ⟨rfl, fun hne => absurd h hne⟩
  case isFalse => exact ⟨rfl, fun _ m hm => s.queue_told _ _ m hm⟩

theorem discardedBy_source {x z : Entry} {l : List Entry} (h : discardedBy x l = some z) : z.source ≠ x.source := by
  unfold discardedBy at h
  split at h
  · cases h
  case isFalse hnew =>
    split at h
    · exact fun heq => hnew ((hasSource_iff _ _).mpr (List.mem_map.mpr ⟨z, List.mem_of_mem_head? h, heq⟩))
    · cases h

/-- A push of a SCALE entry discards no SCALE entry, so that no guard changes by it. -/
theorem State.push_scale_guard (s : State) (c : ChanId) (x : Entry) (hx : x.source = .scale) (q : GuardId) :
    (s.push c x).guard q = s.guard q := by
  have hraw : (s.pushRaw c x).guard q = s.guard q := by
    rw [State.pushRaw_guard, if_neg]
    rintro ⟨⟨z, hz, hscale⟩, _⟩
    exact discardedBy_source hz (hscale.trans hx.symm)
  have htest := State.testUnit_calm (((s.pushRaw c x).refold c)) (unitOf c) fun _ => True
  exact (State.guard_of_swu htest.swu q).trans hraw

theorem State.push_unit (s : State) (c : ChanId) (x : Entry) {u : UnitId} (hu : (s.unit u).phase = .none) :
    (s.push c x).unit u = s.unit u := by
  have hkept := s.afterDiscard_unit c x u
  exact ((s.push_after c x).unit u (by rw [hkept]; exact hu)).trans hkept

/-- What the guard rule makes of a guard and of the SCALE entry, before it is told (Table 7-9). -/
def GuardMove.Moves (s q : State) (k : GuardId) (margin : Int) : GuardMove → Prop
  | .put v st => q.guard k = ⟨st, some v, margin, .current⟩ ∧
      (q.chan k.chan).stack = pushEntry ⟨.scale, .ceiling, v, s.ms⟩ (s.chan k.chan).stack
  | .keep st => q.guard k = { s.guard k with state := st, margin := margin, status := .current } ∧
      (q.chan k.chan).stack = (s.chan k.chan).stack
  | .drop => q.guard k = ⟨.clear, none, margin, .current⟩ ∧
      (q.chan k.chan).stack = (s.chan k.chan).stack.filter fun y => decide (y.source ≠ .scale)

theorem GuardMove.Moves.congr {move : GuardMove} {q : State} {margin : Int} (h : move.Moves s q k margin)
    (hguard : r.guard k = q.guard k) (hstack : (r.chan k.chan).stack = (q.chan k.chan).stack) : move.Moves s r k margin := by
  cases move <;> exact ⟨hguard.trans h.1, hstack.trans h.2⟩

/-- The row of Table 7-9 that a guard takes with a margin. -/
def State.guardRow (s : State) (k : GuardId) (margin : Int) : GuardMove :=
  guardRule (s.guardParams k) (s.guard k).state ((s.guard k).ceiling.getD 0) (s.chan k.chan).applied margin

/-- The state in which a guard has taken a row of Table 7-9, before it is told. -/
def State.takeRow (s : State) (k : GuardId) (margin : Int) : GuardMove → State
  | .put v st => (s.setGuard k ⟨st, some v, margin, .current⟩).push k.chan ⟨.scale, .ceiling, v, s.ms⟩
  | .keep st => s.setGuard k { s.guard k with state := st, margin := margin, status := .current }
  | .drop => (s.setGuard k ⟨.clear, none, margin, .current⟩).remove k.chan .scale

theorem State.runGuard_eq (s : State) (k : GuardId) (margin : Int) : s.runGuard k margin =
    (s.takeRow k margin (s.guardRow k margin)).tellGuard k (s.guard k).state .evaluation := by
  unfold State.runGuard State.guardRow
  dsimp only
  split
  case h_1 hrow => rw [hrow]; rfl
  case h_2 hrow => rw [hrow]; rfl
  case h_3 hrow => rw [hrow]; rfl

theorem State.takeRow_moves (s : State) (k : GuardId) (margin : Int) (move : GuardMove) :
    move.Moves s (s.takeRow k margin move) k margin := by
  have hguard (x : Guard) : (s.setGuard k x).guard k = x := by rw [State.guard_setGuard, if_pos rfl]
  cases move with
  | put v st =>
    refine ⟨(State.push_scale_guard _ k.chan _ rfl k).trans (hguard _), ?_⟩
    exact (State.push_stack _ _ _ _).trans ((if_pos rfl).trans (congrArg _ (s.setGuard_stack k _ _)))
  | keep st => exact ⟨hguard _, s.setGuard_stack k _ _⟩
  | drop =>
    have hcalm := State.remove_calm (s.setGuard k ⟨.clear, none, margin, .current⟩) (T := (· = k.chan)) k.chan .scale rfl
    refine ⟨(State.guard_of_swu hcalm.swu k).trans (hguard _), ?_⟩
    exact (State.remove_stack _ _ _).trans (congrArg (removeEntry .scale) (s.setGuard_stack k _ _))

theorem State.push_same (s : State) (c : ChanId) (x : Entry) : Same s (s.push c x) :=
  ((s.pushRaw_raws c x).trans (State.refold_raws _ c)).same.trans (State.testUnit_reacts _ _).same

theorem State.takeRow_same (s : State) (k : GuardId) (margin : Int) (move : GuardMove) :
    Same s (s.takeRow k margin move) ∧ ∀ u, (s.unit u).phase = .none → (s.takeRow k margin move).unit u = s.unit u := by
  have hset (x : Guard) : Same s (s.setGuard k x) := (s.setGuard_raws k x).same
  have hunit (x : Guard) (u : UnitId) : (s.setGuard k x).unit u = s.unit u := s.setGuard_unit k x u
  cases move with
  | put v st =>
    exact ⟨(hset _).trans (State.push_same _ _ _), fun u hu => (State.push_unit _ _ _ (by rw [hunit]; exact hu)).trans (hunit _ u)⟩
  | keep st => exact ⟨hset _, fun u _ => hunit _ u⟩
  | drop =>
    have hcalm := State.remove_calm (s.setGuard k ⟨.clear, none, margin, .current⟩) (T := (· = k.chan)) k.chan .scale rfl
    exact ⟨(hset _).trans (State.remove_same _ _ _),
      fun u hu => (hcalm.unit u (by rw [hunit]; exact hu)).trans (hunit _ u)⟩

/-- R140, R145: the guard, its SCALE entry and its GUARD_STATE by the row taken. -/
theorem State.runGuard_moves (s : State) (k : GuardId) (margin : Int) :
    (s.guardRow k margin).Moves s (s.runGuard k margin) k margin ∧
    (((s.runGuard k margin).guard k).state ≠ (s.guard k).state → ∀ m, (s.entry k.chan).readers.has m = true →
      ((s.runGuard k margin).port m).Told ⟨s.ms, .guardState k.chan ((s.runGuard k margin).guard k).state .evaluation
        ((s.runGuard k margin).guard k).ceiling⟩) ∧
    ∀ u, (s.unit u).phase = .none → (s.runGuard k margin).unit u = s.unit u := by
  have hmoves := s.takeRow_moves k margin (s.guardRow k margin)
  obtain ⟨hsame, hunit⟩ := s.takeRow_same k margin (s.guardRow k margin)
  rw [s.runGuard_eq]
  generalize s.takeRow k margin (s.guardRow k margin) = q at hmoves hsame hunit
  obtain ⟨hframe, htold⟩ := q.tellGuard_spec k (s.guard k).state .evaluation
  have hguard : (q.tellGuard k (s.guard k).state .evaluation).guard k = q.guard k :=
    (congrArg (fun x => State.guard x k) hframe :)
  have hchan : (q.tellGuard k (s.guard k).state .evaluation).chan k.chan = q.chan k.chan :=
    (congrArg (fun x => State.chan x k.chan) hframe :)
  refine ⟨hmoves.congr hguard (congrArg Channel.stack hchan), fun hne m hm => ?_, fun u hu => Eq.trans (congrArg (fun x => State.unit x u) hframe :) (hunit u hu)⟩
  rw [hguard] at hne ⊢
  have hentry : q.entry k.chan = s.entry k.chan := by simp only [State.entry, hsame.map]
  rw [← hsame.ms]
  exact htold hne m (by rw [hentry]; exact hm)

/-! ### The rows -/

section
variable {p : GuardParams} {state : GuardState} {ceiling applied : Nat} {margin : Int}

theorem guardRule_clear_low (h : margin < p.clamp) :
    guardRule p .clear ceiling applied margin = .put (max p.floor (applied - p.step)) .lowering := by
  rw [guardRule, if_pos rfl, if_pos h]

theorem guardRule_clear_high (h : p.clamp ≤ margin) : guardRule p .clear ceiling applied margin = .keep .clear := by
  rw [guardRule, if_pos rfl, if_neg (Int.not_lt.mpr h)]

theorem guardRule_low (hs : state ≠ .clear) (h : margin < p.clamp) :
    guardRule p state ceiling applied margin = .put (max p.floor (ceiling - p.step)) .lowering := by
  rw [guardRule, if_neg hs, if_pos h]

theorem guardRule_hold (hs : state ≠ .clear) (h : p.clamp ≤ margin) (hr : margin < p.release) :
    guardRule p state ceiling applied margin = .keep .holding := by
  rw [guardRule, if_neg hs, if_neg (Int.not_lt.mpr h), if_pos hr]

theorem guardRule_raise (hs : state ≠ .clear) (h : p.clamp ≤ margin) (hr : p.release ≤ margin) (hc : ceiling + p.step ≤ 999) :
    guardRule p state ceiling applied margin = .put (ceiling + p.step) .raising := by
  rw [guardRule, if_neg hs, if_neg (Int.not_lt.mpr h), if_neg (Int.not_lt.mpr hr), if_pos hc]

theorem guardRule_drop (hs : state ≠ .clear) (h : p.clamp ≤ margin) (hr : p.release ≤ margin) (hc : 1000 ≤ ceiling + p.step) :
    guardRule p state ceiling applied margin = .drop := by
  rw [guardRule, if_neg hs, if_neg (Int.not_lt.mpr h), if_neg (Int.not_lt.mpr hr), if_neg (by omega)]

end

/-- R140 to R142: the rows of Table 7-9, on a guard and a channel in their ranges. -/
theorem State.runGuard_rows (s : State) (k : GuardId) (margin : Int) :
    (∀ v, (s.guard k).ceiling = some v → v ≤ 999) → (s.chan k.chan).applied ≤ 1000 → 1 ≤ (s.guardParams k).step →
    (s.guardParams k).floor ≤ 999 →
    let p := s.guardParams k
    let x := s.guard k
    let r := s.runGuard k margin
    let old := (s.chan k.chan).stack
    let new := (r.chan k.chan).stack
    let ceiling := x.ceiling.getD 0
    let put := fun (v : Nat) (st : GuardState) => v ≤ 999 ∧
      r.guard k = ⟨st, some v, margin, .current⟩ ∧ new = pushEntry ⟨.scale, .ceiling, v, s.ms⟩ old
    (margin < p.clamp → x.state = .clear → put (max p.floor ((s.chan k.chan).applied - p.step)) .lowering) ∧
    (margin < p.clamp → x.state ≠ .clear → put (max p.floor (ceiling - p.step)) .lowering) ∧
    (p.clamp ≤ margin → x.state = .clear → r.guard k = { x with margin := margin, status := .current } ∧ new = old) ∧
    (p.clamp ≤ margin → x.state ≠ .clear → margin < p.release →
      r.guard k = { x with state := .holding, margin := margin, status := .current } ∧ new = old) ∧
    (p.clamp ≤ margin → x.state ≠ .clear → p.release ≤ margin → ceiling + p.step ≤ 999 →
      put (ceiling + p.step) .raising) ∧
    (p.clamp ≤ margin → x.state ≠ .clear → p.release ≤ margin → 1000 ≤ ceiling + p.step →
      r.guard k = ⟨.clear, none, margin, .current⟩ ∧ new = old.filter (fun y => decide (y.source ≠ .scale))) ∧
    ((r.guard k).state ≠ x.state → ∀ m, (s.entry k.chan).readers.has m = true →
      (r.port m).Told ⟨s.ms, .guardState k.chan (r.guard k).state .evaluation (r.guard k).ceiling⟩) ∧
    Same s r ∧ (∀ u, (s.unit u).phase = .none → r.unit u = s.unit u) := by
  intro hceil happlied hstep hfloor p x r old new ceiling put
  have hmoves (move : GuardMove) (hrow : guardRule p x.state ceiling (s.chan k.chan).applied margin = move) :
      move.Moves s r k margin := hrow ▸ (s.runGuard_moves k margin).1
  have hfloor : p.floor ≤ 999 := hfloor
  have hstep : 1 ≤ p.step := hstep
  have hceiling : ceiling ≤ 999 := by
    show (s.guard k).ceiling.getD 0 ≤ 999
    cases hc : (s.guard k).ceiling with
    | none => exact Nat.zero_le _
    | some v => exact hceil v hc
  refine ⟨fun hlow hclear => ⟨?_, hmoves (.put _ _) ?_⟩, fun hlow hs => ⟨?_, hmoves (.put _ _) (guardRule_low hs hlow)⟩,
    fun hhigh hclear => ?_, fun hhigh hs hrel => hmoves (.keep _) (guardRule_hold hs hhigh hrel),
    fun hhigh hs hrel hc => ⟨hc, hmoves (.put _ _) (guardRule_raise hs hhigh hrel hc)⟩,
    fun hhigh hs hrel hc => hmoves .drop (guardRule_drop hs hhigh hrel hc), (s.runGuard_moves k margin).2.1,
    (s.runGuard_reacts k margin).same, (s.runGuard_moves k margin).2.2⟩
  · omega
  · rw [hclear]
    exact guardRule_clear_low hlow
  · omega
  · have hkeep := hmoves (.keep .clear) (by rw [hclear]; exact guardRule_clear_high hhigh)
    exact ⟨hkeep.1.trans (by rw [← hclear]), hkeep.2⟩

/-- R141: a held guard keeps all but its margin status. -/
theorem State.holdGuard_spec (s : State) (k : GuardId) : (s.holdGuard k).guard k = { s.guard k with status := .held } ∧
    (∀ q, q ≠ k → (s.holdGuard k).guard q = s.guard q) ∧
    { s.holdGuard k with swu := { (s.holdGuard k).swu with
        silGuard := s.swu.silGuard, calGuards := s.swu.calGuards } } = s := by
  refine ⟨?_, fun q hq => ?_, ?_⟩
  · rw [State.holdGuard, State.guard_setGuard, if_pos rfl]
  · rw [State.holdGuard, State.guard_setGuard, if_neg hq]
  · cases k <;> rfl

theorem Untouched.runGuard {β : Type} {p : State → β} (h : Untouched p) (s : State) (k : GuardId) (margin : Int) :
    p (s.runGuard k margin) = p s := by
  have htell (q : State) (old : GuardState) : p (q.tellGuard k old .evaluation) = p q := by
    unfold State.tellGuard State.queueReaders
    dsimp only
    split
    · rfl
    · exact h.queue _ _ _
  rw [s.runGuard_eq, htell]
  cases s.guardRow k margin with
  | put v st => exact (h.push _ _ _).trans (h.guard s k _)
  | keep st => exact h.guard s k _
  | drop => exact (h.unread.remove _ _ _).trans (h.guard s k _)

theorem State.runGuard_logsKeep (s : State) (k : GuardId) (margin : Int) :
    LogsKeep (fun _ => Cause.isGuardLost) s (s.runGuard k margin) := by
  rw [s.runGuard_eq]
  refine LogsKeep.trans ?_ (State.tellGuard_logsKeep _ k _ _)
  cases s.guardRow k margin with
  | put v st => exact (s.setGuard_logsKeep k _).trans (State.push_logsKeep _ _ _)
  | keep st => exact s.setGuard_logsKeep k _
  | drop => exact (s.setGuard_logsKeep k _).trans (State.remove_logsKeep _ _ _)

/-! ### Calcite -/

theorem UnitRec.inUse_iff (x : UnitRec) : x.inUse = true ↔ x.phase = .none ∧ (x.state = .running ∨ x.state = .paused) := by
  unfold UnitRec.inUse
  simp

theorem calciteNext_iff (active : Bool) (cm alarm : Int) (hyst : Nat) :
    calciteNext active cm alarm hyst = true ↔ cm < alarm ∨ active = true ∧ cm < alarm + hyst := by
  unfold calciteNext
  cases active
  · simp
  · simp only [if_true, decide_eq_true_eq, true_and]
    omega

theorem State.cal_modCal (s : State) (i j : Fin 8) (f : Calcite → Calcite) :
    (s.modCal i f).swu.cal[j] = if j = i then f s.swu.cal[i] else s.swu.cal[j] := set_get ..

theorem untouched_cal (j : Fin 8) : Untouched fun s => s.swu.cal[j] :=
  untouched_swu (fun w => w.cal[j]) (fun _ _ => rfl) fun _ _ _ => rfl

/-- R138: the record of a well after steps K1 and K2, and what they hand over. -/
theorem State.stepCalcite_spec (s : State) (i : Fin 8) :
    let next := calciteNext (s.swu.cal[i]).active (s.swu.cal[i]).cm s.swu.params.calAlarm s.swu.params.calHyst
    let t := s.stepCalcite i
    Same s t ∧ t.swu.cal[i] = { s.swu.cal[i] with active := next } ∧ (∀ j, j ≠ i → t.swu.cal[j] = s.swu.cal[j]) ∧
    (next = (s.swu.cal[i]).active → t = s) ∧
    (next ≠ (s.swu.cal[i]).active → next = true → (t.group .field).Holds (.calcite i)) ∧
    (s.LogsOk → next ≠ (s.swu.cal[i]).active → next = false → ¬(t.group .field).Holds (.calcite i)) := by
  intro next t
  by_cases hturn : next = (s.swu.cal[i]).active
  · have ht : t = s := if_pos hturn
    rw [ht]
    exact ⟨.refl s, by rw [hturn], fun _ _ => rfl, fun _ => rfl, fun h => absurd hturn h, fun _ h => absurd hturn h⟩
  · have ht : t = (s.modCal i fun x => { x with active := next }).handOver .field (.calcite i) next := if_neg hturn
    obtain ⟨hreacts, harrives, hends⟩ := (s.modCal i fun x => { x with active := next }).handOver_alarm .field
      (c := .calcite i) rfl rfl next
    have hcal (j : Fin 8) := (untouched_cal j).handOver (s.modCal i fun x => { x with active := next }) .field
      (c := .calcite i) rfl next
    rw [ht]
    refine ⟨((Raw.swu _ rfl).raws.same).trans hreacts.same, ?_, fun j hj => ?_, fun h => absurd h hturn, fun _ => harrives,
      fun hl _ h => hends h hl⟩
    · exact (hcal i).trans ((s.cal_modCal i i _).trans (if_pos rfl))
    · exact (hcal j).trans ((s.cal_modCal i j _).trans (if_neg hj))

theorem State.holdGuard_same (s : State) (k : GuardId) : Same s (s.holdGuard k) := (s.setGuard_raws k _).same

theorem State.modCal_same (s : State) (i : Fin 8) (f : Calcite → Calcite) : Same s (s.modCal i f) := (Raw.swu _ rfl).raws.same

/-- R138, R141: the calcite steps of a well. -/
theorem State.evalCalcite_spec (s : State) (i : Fin 8) :
    let v := s.snap.ai[wellInput i]
    let u := s.unit (wellUnit i)
    let inUse := u.phase = .none ∧ (u.state = .running ∨ u.state = .paused)
    let usable := v.quality = .good ∨ v.quality = .limited
    let w := s.swu.params
    let x := s.swu.cal[i]
    let r := s.evalCalcite i
    let y := r.swu.cal[i]
    Same s r ∧ (∀ j : Fin 8, j ≠ i → r.swu.cal[j] = s.swu.cal[j]) ∧
    (¬inUse → y = { x with outcome := .notRun } ∧ { r with swu := { r.swu with cal := s.swu.cal } } = s) ∧
    (inUse → ¬usable → y = { x with outcome := .skipped } ∧
      { r with swu := { r.swu with cal := s.swu.cal } } = s.holdGuard (.calcite i)) ∧
    (inUse → usable →
      y.outcome = .evaluated ∧ y.pInt = v.value ∧ y.cm = v.value - (s.swu.pBub[i] : Nat) ∧
      (y.active = true ↔ y.cm < w.calAlarm ∨ x.active = true ∧ y.cm < w.calAlarm + w.calHyst) ∧
      (∃ t : State, Same s t ∧ t.swu.cal[i] = y ∧ r = t.runGuard (.calcite i) y.cm ∧
        (y.active = x.active → { t with swu := { t.swu with cal := s.swu.cal } } = s)) ∧
      (y.active ≠ x.active → y.active = true → (r.group .field).Holds (.calcite i)) ∧
      (s.LogsOk → y.active ≠ x.active → y.active = false → ¬(r.group .field).Holds (.calcite i))) := by
  intro v u inUse usable w x r y
  by_cases hin : inUse
  case neg =>
    have hr : r = s.modCal i fun x => { x with outcome := .notRun } := if_neg (mt (UnitRec.inUse_iff _).mp hin)
    have hcal (j : Fin 8) : r.swu.cal[j] = if j = i then { x with outcome := .notRun } else s.swu.cal[j] := by
      rw [hr]
      exact s.cal_modCal i j _
    refine ⟨hr ▸ s.modCal_same i _, fun j hj => (hcal j).trans (if_neg hj), fun _ => ⟨(hcal i).trans (if_pos rfl), ?_⟩,
      fun h => absurd h hin, fun h => absurd h hin⟩
    rw [hr]
    rfl
  have hin' : (s.unit (wellUnit i)).inUse = true := (UnitRec.inUse_iff _).mpr hin
  by_cases hu : usable
  case neg =>
    have hr : r = (s.modCal i fun x => { x with outcome := .skipped }).holdGuard (.calcite i) :=
      (if_pos hin').trans (if_neg (mt (Sample.usable_iff _).mp hu))
    have hcal (j : Fin 8) : r.swu.cal[j] = if j = i then { x with outcome := .skipped } else s.swu.cal[j] := by
      rw [hr]
      exact s.cal_modCal i j fun x => { x with outcome := .skipped }
    refine ⟨hr ▸ (s.modCal_same i _).trans (State.holdGuard_same _ _), fun j hj => (hcal j).trans (if_neg hj),
      fun h => absurd hin h, fun _ _ => ⟨(hcal i).trans (if_pos rfl), ?_⟩, fun _ h => absurd h hu⟩
    rw [hr]
    rfl
  let cm := v.value - (s.swu.pBub[i] : Nat)
  let m := s.modCal i fun x => { x with outcome := .evaluated, pInt := v.value, cm := cm }
  have hr : r = (m.stepCalcite i).runGuard (.calcite i) cm := (if_pos hin').trans (if_pos ((Sample.usable_iff _).mpr hu))
  have hm (j : Fin 8) : m.swu.cal[j] = if j = i then { x with outcome := .evaluated, pInt := v.value, cm := cm }
      else s.swu.cal[j] := s.cal_modCal i j _
  obtain ⟨hsame, hcal, hothers, hstill, harrives, hends⟩ := m.stepCalcite_spec i
  rw [(hm i).trans (if_pos rfl)] at hcal hstill harrives hends
  have hrun (j : Fin 8) : r.swu.cal[j] = (m.stepCalcite i).swu.cal[j] := by
    rw [hr]
    exact (untouched_cal j).runGuard _ _ _
  have hkeeps := (m.stepCalcite i).runGuard_logsKeep (.calcite i) cm .field
  have hy : y = _ := (hrun i).trans hcal
  have hcm : y.cm = cm := by rw [hy]
  refine ⟨?_, fun j hj => ?_, fun h => absurd hin h, fun _ h => absurd hu h, fun _ _ => ⟨by rw [hy], by rw [hy], hcm, ?_,
    ⟨m.stepCalcite i, (s.modCal_same i _).trans hsame, (hrun i).symm, by rw [hcm]; exact hr, fun hact => ?_⟩, fun h1 h2 => ?_,
    fun hl h1 h2 => ?_⟩⟩
  · rw [hr]
    exact ((s.modCal_same i _).trans hsame).trans (State.runGuard_reacts _ _ _).same
  · exact (hrun j).trans ((hothers j hj).trans ((hm j).trans (if_neg hj)))
  · rw [hcm, hy]
    exact calciteNext_iff _ _ _ _
  · rw [hstill (by rw [hy] at hact; exact hact)]
    rfl
  · rw [hy] at h1 h2
    rw [hr]
    exact hkeeps.holds id (harrives h1 h2)
  · rw [hy] at h1 h2
    rw [hr]
    exact fun hholds => hends hl h1 h2 (hkeeps.only _ id hholds)

/-- Settles O56. -/
theorem guardRows : Obligations.GuardRows := by
  refine ⟨State.holdGuard_spec, fun s i => ?_, State.runGuard_rows⟩
  intro v u inUse usable w x r y off
  obtain ⟨hsame, hothers, hnotRun, hskipped, hevaluated⟩ := s.evalCalcite_spec i
  obtain ⟨hswu, _, hends⟩ := s.calciteOff_spec i
  refine ⟨hsame, hothers, hnotRun, hskipped, hevaluated, fun hoff => if_neg (by rw [hoff]; decide), fun hon => ⟨?_, ?_, hends hon⟩⟩
  · exact (s.calciteOff_reacts i).same
  · show (s.calciteOff i).swu.cal[i] = _
    rw [hswu]
    exact (set_get ..).trans (if_pos rfl)

end Sys2Proof.Machine
end

section
/-! What a trip entry does not read or reach (R97), and scan completion (R29, R34, R35, R125). -/

namespace Sys2Proof.Machine

variable {s t r : State}

/-! ### Readings that no arrival reaches -/

/-- A reading of the state that no arrival and no deactivation reaches, trip entries and what units that leave service lose
included. -/
structure Unmoved {β : Type} (p : State → β) : Prop extends Untouched p where
  cal : ∀ s (f : Swu → Vector Calcite 8), p (State.modSwu s fun w => { w with cal := f w }) = p s
  tsm : ∀ s f, p (State.modTsm s f) = p s

section
variable {β : Type} {p : State → β}

theorem Unmoved.tellGuard (h : Unmoved p) (s : State) (k : GuardId) (old : GuardState) (why : GuardReason) :
    p (s.tellGuard k old why) = p s := by
  unfold State.tellGuard State.queueReaders
  dsimp only
  split
  · rfl
  · exact h.queue _ _ _

theorem Unmoved.leaveService (h : Unmoved p) (s : State) (u : UnitId) : p (s.leaveService u) = p s := by
  have hguard (q : State) (k : GuardId) : p (q.guardOff k) = p q := by
    unfold State.guardOff
    dsimp only
    split
    · rfl
    · exact (h.tellGuard _ _ _ _).trans ((h.unread.remove _ _ _).trans (h.guard q k _))
  have hcal (q : State) (i : Fin 8) : p (q.calciteOff i) = p q := by
    unfold State.calciteOff
    split
    · exact (h.deactivate _ _ _).trans (h.cal q _)
    · rfl
  unfold State.leaveService
  dsimp only
  cases unitGuard u <;> cases wellOf u
  · rfl
  · exact hcal s _
  · exact hguard s _
  · exact (hcal _ _).trans (hguard s _)

theorem Unmoved.speedLeave (h : Unmoved p) (s : State) (u : UnitId) : p (s.speedLeave u) = p s := by
  unfold State.speedLeave State.regainSpeed
  split
  · split
    · exact (h.deactivate _ _ _).trans (h.tsm s _)
    · rfl
  · rfl

theorem Unmoved.forced (h : Unmoved p) (s : State) (u : UnitId) (x : UnitRec) : p (s.forced u x) = p s := by
  unfold State.forced State.queueUnitState State.queueUnit State.queueReaders
  dsimp only
  split
  · rfl
  · have hleft : p (((s.leaveService u).speedLeave u).modUnit u fun x => { x with protAltered := true }) = p s :=
      (h.unit _ u _).trans ((h.speedLeave _ u).trans (h.leaveService s u))
    rw [h.queue]
    split
    · exact hleft
    · exact (h.queue _ _ _).trans hleft

theorem Unmoved.enterTripState (h : Unmoved p) (s : State) (u : UnitId) : p (s.enterTripState u) = p s := by
  unfold State.enterTripState
  split
  · rfl
  · exact (State.refoldUnit_frame (s := s.modUnit u _) p (fun c f q => h.chan q c f) u).trans (h.unit s u _)

theorem Unmoved.forceGroup (h : Unmoved p) (s : State) (g : Group) : p (s.forceGroup g) = p s := by
  have hforced := (State.each_frame p (groupUnits g) (fun u q => q.forced u s.units[u]) (fun u q => h.forced q u _)
    (s.each (groupUnits g) fun u q => q.enterTripState u)).trans
    (State.each_frame p (groupUnits g) (fun u q => q.enterTripState u) (fun u q => h.enterTripState q u) s)
  unfold State.forceGroup State.queueAll
  dsimp only
  split
  · exact (h.queue _ _ _).trans ((h.group _ _ _).trans hforced)
  · exact hforced

theorem Unmoved.tripSteps (h : Unmoved p) (s : State) (g : Group) : p (s.tripSteps g) = p s := by
  have htrip (q : State) (c : ChanId) (v : Nat) : p (q.pushTrip c v) = p q := (h.chan _ _ _).trans (h.pushRaw q c _)
  have hlevel : p (s.setLevel g .trip) = p s := by
    unfold State.setLevel State.queueAll
    rw [h.queue, h.group]
  have hlist : p ((s.setLevel g .trip).pushTripList g) = p (s.setLevel g .trip) :=
    State.each_frame p _ (fun (x : TripItem) q => q.pushTrip x.channel x.value) (fun x q => htrip q x.channel x.value) _
  exact (h.forceGroup _ g).trans (hlist.trans hlevel)

theorem Unmoved.propagateAlarm (h : Unmoved p) (s : State) (g : Group) : p (s.propagateAlarm g) = p s := by
  cases g
  · rfl
  · exact h.arriveAlarm s _ _
  · exact h.arriveAlarm s _ _

theorem Unmoved.arriveWith (h : Unmoved p) (s : State) {f : State → State} (hf : ∀ q, p (f q) = p q) (g : Group) (c : Cause) :
    p (s.arriveWith f g c) = p s := by
  unfold State.arriveWith
  split
  · exact h.arriveAlarm s g c
  · refine (h.relevel _ g).trans ?_
    split
    · exact h.record s g c .trip
    · exact (hf _).trans (h.record s g c .trip)

theorem Unmoved.tripAlarm (h : Unmoved p) (s : State) (g : Group) : p (s.tripAlarm g) = p s :=
  (h.propagateAlarm _ g).trans (h.tripSteps s g)

theorem Unmoved.tripEntry (h : Unmoved p) (s : State) (g : Group) : p (s.tripEntry g) = p s := by
  have hone (q : State) (k : Group) : p (q.arriveWith (fun x => x.tripAlarm k) k .fieldTripped) = p q :=
    h.arriveWith q (f := fun x => x.tripAlarm k) (fun x => h.tripAlarm x k) k .fieldTripped
  have hfield (q : State) : p q.propagateField = p q := by
    unfold State.propagateField
    dsimp only
    rw [hone, hone]
  have hpropagate (q : State) : p (q.propagate g) = p q := by
    unfold State.propagate
    split
    · exact hfield q
    · exact h.propagateAlarm q g
  exact (hpropagate _).trans (h.tripSteps s g)

theorem Unmoved.handOver (h : Unmoved p) (s : State) (g : Group) (c : Cause) (b : Bool) : p (s.handOver g c b) = p s := by
  unfold State.handOver
  split
  · exact h.arriveWith s (fun q => h.tripEntry q g) g c
  · exact h.deactivate s g c

end

theorem unmoved_swu {β : Type} (f : Swu → β) (hsil : ∀ w x, f { w with silGuard := x } = f w)
    (hguards : ∀ w (i : Fin 8) (x : Guard), f { w with calGuards := w.calGuards.set i x } = f w)
    (hcal : ∀ w x, f { w with cal := x } = f w) : Unmoved fun s => f s.swu where
  toUntouched := untouched_swu f hsil hguards
  cal s g := hcal s.swu (g s.swu)
  tsm _ _ := rfl

/-- The schedule of the evaluations. -/
theorem unmoved_schedule : Unmoved fun s => (s.swu.counter, s.swu.lastTime) :=
  unmoved_swu (fun w => (w.counter, w.lastTime)) (fun _ _ => rfl) (fun _ _ _ => rfl) fun _ _ => rfl

/-! ### Limit checks -/

/-- R35: the state of a check after its evaluation on a usable value. -/
theorem CheckParams.next_eq (p : CheckParams) (active : Bool) (v : Int) : p.next active v =
    match p.dir with
    | .off => active
    | .high => decide (p.threshold < v ∨ active = true ∧ p.threshold - p.hysteresis ≤ v)
    | .low => decide (v < p.threshold ∨ active = true ∧ v ≤ p.threshold + p.hysteresis) := by
  unfold CheckParams.next
  cases p.dir with
  | off => rfl
  | high =>
    cases active
    · simp
    · simp only [if_true, ← decide_not, decide_eq_decide, true_and]
      omega
  | low =>
    cases active
    · simp
    · simp only [if_true, ← decide_not, decide_eq_decide, true_and]
      omega

/-- A limit check on a sample: the record of its input after it. -/
def Analog.checkedOn (a : Analog) (x : Sample) (k : Fin 2) : Analog :=
  if x.usable && decide ((a.check k).next (a.active k) x.value ≠ a.active k) then
    a.setActive k ((a.check k).next (a.active k) x.value)
  else a

theorem Analog.setActive_active (a : Analog) (k l : Fin 2) (b : Bool) :
    (a.setActive k b).active l = if l = k then b else a.active l := by
  fin_cases k <;> fin_cases l <;> rfl

theorem Analog.checkedOn_params (a : Analog) (x : Sample) (k : Fin 2) : (a.checkedOn x k).params = a.params := by
  unfold Analog.checkedOn
  split
  · exact a.setActive_params k _
  · rfl

theorem Analog.check_congr {a b : Analog} (h : a.params = b.params) (k : Fin 2) : a.check k = b.check k := by
  unfold Analog.check
  rw [h]

theorem Analog.checkedOn_active (a : Analog) (x : Sample) (k l : Fin 2) : (a.checkedOn x k).active l =
    if l = k ∧ x.usable = true then (a.check k).next (a.active k) x.value else a.active l := by
  unfold Analog.checkedOn
  by_cases hu : x.usable = true
  · by_cases hne : (a.check k).next (a.active k) x.value = a.active k
    · rw [if_neg (by simp [hne]), hne]
      by_cases hl : l = k
      · rw [if_pos ⟨hl, hu⟩, hl]
      · rw [if_neg fun h => hl h.1]
    · rw [if_pos (by simp [hu, hne]), a.setActive_active]
      by_cases hl : l = k
      · rw [if_pos hl, if_pos ⟨hl, hu⟩]
      · rw [if_neg hl, if_neg fun h => hl h.1]
  · rw [if_neg (by simp [hu]), if_neg fun h => hu h.2]

/-- R35: one limit check: its record, and what it hands over. -/
theorem State.limitCheck_spec (s : State) (n : Fin 16) (k : Fin 2) : ∃ b : Bool,
    (s.limitCheck n k = s ∧ (s.analog n).checkedOn s.snap.ai[n] k = s.analog n ∨
      s.limitCheck n k = (s.modAnalog n fun a => a.setActive k b).handOver ((s.analog n).check k).group (.limit n k) b ∧
      b = ((s.analog n).checkedOn s.snap.ai[n] k).active k ∧
      (s.analog n).checkedOn s.snap.ai[n] k = (s.analog n).setActive k b) := by
  refine ⟨((s.analog n).check k).next ((s.analog n).active k) (s.snap.ai[n]).value, ?_⟩
  unfold State.limitCheck Analog.checkedOn
  dsimp only
  split
  case isTrue => exact .inr ⟨rfl, by rw [Analog.setActive_active, if_pos rfl], rfl⟩
  case isFalse => exact .inl ⟨rfl, rfl⟩

theorem SameBlocks.analog (h : SameBlocks s t) (j : Fin 16) : t.analog j = s.analog j :=
  congrArg (fun v : Vector Analog 16 => v[j]) (h s.groups).ai

/-- R35: what one limit check leaves: the records of the inputs, and its own cause. -/
theorem State.limitCheck_analog (s : State) (n j : Fin 16) (k : Fin 2) : (s.limitCheck n k).analog j =
    if j = n then (s.analog n).checkedOn s.snap.ai[n] k else s.analog j := by
  obtain ⟨b, ⟨hstay, hchecked⟩ | ⟨hturn, _, hchecked⟩⟩ := s.limitCheck_spec n k
  · rw [hstay, hchecked]
    split
    case isTrue h => rw [h]
    case isFalse => rfl
  · have hblocks := State.handOver_blocks (s.modAnalog n fun a => a.setActive k b) ((s.analog n).check k).group
      (c := .limit n k) rfl b
    rw [hturn, hchecked, hblocks.analog]
    exact s.analog_modAnalog n j _

theorem State.limitCheck_logsKeep (s : State) (n : Fin 16) (k : Fin 2) :
    LogsKeep (fun _ d => d = .limit n k ∨ d.isService ∨ d.isPropagated) s (s.limitCheck n k) := by
  obtain ⟨b, ⟨hstay, _⟩ | ⟨hturn, _, _⟩⟩ := s.limitCheck_spec n k
  · rw [hstay]
    exact .refl s
  · rw [hturn]
    exact LogsKeep.trans (t := s.modAnalog n _) (logsKeep_of_groups rfl)
      ((State.handOver_logsKeep _ _ _ _).mono fun _ _ => Or.imp_left And.right)

/-- The blocks but for the groups and the analog inputs. -/
theorem State.limitCheck_blocks (s : State) (n : Fin 16) (k : Fin 2) :
    SameBlocks { s with ai := (s.limitCheck n k).ai } (s.limitCheck n k) := by
  obtain ⟨b, ⟨hstay, _⟩ | ⟨hturn, _, _⟩⟩ := s.limitCheck_spec n k
  · rw [hstay]
    exact .refl s
  · have hblocks := State.handOver_blocks (s.modAnalog n fun a => a.setActive k b) ((s.analog n).check k).group
      (c := .limit n k) rfl b
    rw [hturn, (hblocks s.groups).ai]
    exact hblocks

theorem State.limitCheck_logsOk (s : State) (n : Fin 16) (k : Fin 2) (h : s.LogsOk) : (s.limitCheck n k).LogsOk := by
  obtain ⟨b, ⟨hstay, _⟩ | ⟨hturn, _, _⟩⟩ := s.limitCheck_spec n k
  · rw [hstay]
    exact h
  · rw [hturn]
    exact (State.handOver_turns _ _ _ b rfl).keep (fun _ _ => Turn.logsOk)
      (State.logsOk_modAnalog h n _ fun a => a.setActive_params k b)

/-- R35: the cause of a check whose state turns. -/
theorem State.limitCheck_turned (s : State) (n : Fin 16) (k : Fin 2)
    (hne : ((s.limitCheck n k).analog n).active k ≠ (s.analog n).active k) :
    Turned s ((s.analog n).check k).group (.limit n k) (((s.limitCheck n k).analog n).active k) (s.limitCheck n k) := by
  have hanalog := s.limitCheck_analog n n k
  rw [if_pos rfl] at hanalog
  rw [hanalog] at hne ⊢
  obtain ⟨b, ⟨_, hchecked⟩ | ⟨hturn, hb, _⟩⟩ := s.limitCheck_spec n k
  · rw [hchecked] at hne
    exact absurd rfl hne
  · rw [hturn, ← hb]
    exact State.handOver_turned _ _ b rfl id id (s.classOf_modAnalog n _ (fun a => a.setActive_params k b) _)
      fun h => State.logsOk_modAnalog h n _ fun a => a.setActive_params k b

end Sys2Proof.Machine
end

section
/-! Scan completion (R29, R34, R35, R125): the limit checks in their order, and the users of the snapshot. -/

namespace Sys2Proof.Machine

variable {s t r : State}

/-! ### The two checks of an input -/

theorem Turned.of {e : State} {g : Group} {c : Cause} {b : Bool} (h : Turned t g c b r) (hclass : t.classOf c = e.classOf c)
    (hlogs : e.LogsOk → t.LogsOk) : Turned e g c b r :=
  ⟨fun hb => ⟨(h.1 hb).1, fun hc => (h.1 hb).2 (hclass.trans hc)⟩, fun hb hl => h.2 hb (hlogs hl)⟩

theorem State.limitCheck_classOf (s : State) (n : Fin 16) (k : Fin 2) (c : Cause) :
    (s.limitCheck n k).classOf c = s.classOf c := by
  obtain ⟨b, ⟨hstay, _⟩ | ⟨hturn, _, _⟩⟩ := s.limitCheck_spec n k
  · rw [hstay]
  · rw [hturn]
    exact ((State.handOver_blocks _ _ rfl b).classOf c).trans (s.classOf_modAnalog n _ (fun a => a.setActive_params k b) c)

theorem State.limitCheck_snap (s : State) (n : Fin 16) (k : Fin 2) : (s.limitCheck n k).snap = s.snap :=
  (s.limitCheck_blocks n k s.groups).snap

/-- R35: the two checks of an input on a sample: its record after them. -/
def Analog.bothOn (a : Analog) (x : Sample) : Analog := (a.checkedOn x 0).checkedOn x 1

theorem Analog.bothOn_params (a : Analog) (x : Sample) : (a.bothOn x).params = a.params :=
  ((a.checkedOn x 0).checkedOn_params x 1).trans (a.checkedOn_params x 0)

theorem Analog.bothOn_active (a : Analog) (x : Sample) (k : Fin 2) : (a.bothOn x).active k =
    if x.usable = true then (a.check k).next (a.active k) x.value else a.active k := by
  unfold Analog.bothOn
  rw [Analog.checkedOn_active, Analog.checkedOn_active, Analog.checkedOn_active,
    Analog.check_congr (a.checkedOn_params x 0)]
  fin_cases k <;> simp

/-- The checks of one input. -/
def State.inputChecks (s : State) (n : Fin 16) : State := (s.limitCheck n 0).limitCheck n 1

theorem State.inputChecks_analog (s : State) (n j : Fin 16) : (s.inputChecks n).analog j =
    if j = n then (s.analog n).bothOn s.snap.ai[n] else s.analog j := by
  unfold State.inputChecks Analog.bothOn
  rw [State.limitCheck_analog, State.limitCheck_analog, State.limitCheck_analog, State.limitCheck_snap, if_pos rfl]
  split <;> rfl

theorem State.inputChecks_snap (s : State) (n : Fin 16) : (s.inputChecks n).snap = s.snap :=
  (State.limitCheck_snap _ n 1).trans (s.limitCheck_snap n 0)

theorem State.inputChecks_classOf (s : State) (n : Fin 16) (c : Cause) : (s.inputChecks n).classOf c = s.classOf c :=
  (State.limitCheck_classOf _ n 1 c).trans (s.limitCheck_classOf n 0 c)

theorem State.inputChecks_logsOk (s : State) (n : Fin 16) (h : s.LogsOk) : (s.inputChecks n).LogsOk :=
  State.limitCheck_logsOk _ n 1 (s.limitCheck_logsOk n 0 h)

theorem State.limitCheck_keepsOther (s : State) {n j : Fin 16} {k l : Fin 2} (hne : (n, k) ≠ (j, l)) :
    LogsKeep (fun _ d => d ≠ .limit j l) s (s.limitCheck n k) :=
  (s.limitCheck_logsKeep n k).mono fun _ d hd heq => by
    subst heq
    rcases hd with hd | hd | hd
    · cases hd
      exact hne rfl
    · exact hd
    · exact hd

theorem State.inputChecks_keepsOther (s : State) {n j : Fin 16} (hne : n ≠ j) (l : Fin 2) :
    LogsKeep (fun _ d => d ≠ .limit j l) s (s.inputChecks n) :=
  (s.limitCheck_keepsOther fun h => hne (Prod.mk.inj h).1).trans
    (State.limitCheck_keepsOther _ fun h => hne (Prod.mk.inj h).1)

/-- R35: the cause of a check of an input whose state turns. -/
theorem State.inputChecks_turned (s : State) (n : Fin 16) (k : Fin 2)
    (hne : ((s.analog n).bothOn s.snap.ai[n]).active k ≠ (s.analog n).active k) :
    Turned s ((s.analog n).check k).group (.limit n k) (((s.analog n).bothOn s.snap.ai[n]).active k) (s.inputChecks n) := by
  have hfirst := s.limitCheck_analog n n 0
  rw [if_pos rfl] at hfirst
  have hcases : k = 0 ∨ k = 1 := by omega
  rcases hcases with rfl | rfl
  · have hactive : ((s.analog n).bothOn s.snap.ai[n]).active 0 = ((s.limitCheck n 0).analog n).active 0 := by
      rw [hfirst, Analog.bothOn, Analog.checkedOn_active]
      exact if_neg fun h => absurd h.1 (by decide)
    rw [hactive] at hne ⊢
    exact (s.limitCheck_turned n 0 hne).keep (State.limitCheck_keepsOther _ (n := n) (k := 1) (by simp)) (not_not.mpr rfl)
  · have hsecond := (s.limitCheck n 0).limitCheck_analog n n 1
    rw [if_pos rfl, hfirst, s.limitCheck_snap] at hsecond
    have hbefore : ((s.limitCheck n 0).analog n).active 1 = (s.analog n).active 1 := by
      rw [hfirst, Analog.checkedOn_active]
      exact if_neg fun h => absurd h.1 (by decide)
    have hcheck : ((s.limitCheck n 0).analog n).check 1 = (s.analog n).check 1 := by
      rw [hfirst]
      exact Analog.check_congr ((s.analog n).checkedOn_params _ 0) 1
    have hturned := (s.limitCheck n 0).limitCheck_turned n 1
    rw [hsecond, hbefore, hcheck] at hturned
    exact (hturned hne).of (s.limitCheck_classOf n 0 _) (s.limitCheck_logsOk n 0)

/-! ### All checks -/

theorem State.limitChecks_eq (s : State) : s.limitChecks = s.each analogs fun n q => q.inputChecks n := rfl

/-- A property of a state that each input's checks keep. -/
theorem State.limitChecks_keep {P : State → Prop} (s : State) (h : ∀ n q, P q → P (q.inputChecks n)) (hs : P s) :
    P s.limitChecks :=
  State.each_induct (P := P) analogs (fun n q => q.inputChecks n) (fun n _ q hq => h n q hq) s hs

/-- R35: the checks of a list of inputs, none named twice. -/
theorem State.checks_spec (l : List (Fin 16)) (hl : l.Nodup) (s : State) (j : Fin 16) (k : Fin 2) :
    let t := s.each l fun n q => q.inputChecks n
    let b := (s.analog j).bothOn s.snap.ai[j]
    t.snap = s.snap ∧ t.analog j = (if j ∈ l then b else s.analog j) ∧
    (j ∉ l → LogsKeep (fun _ d => d ≠ .limit j k) s t) ∧
    (j ∈ l → b.active k ≠ (s.analog j).active k → Turned s ((s.analog j).check k).group (.limit j k) (b.active k) t) := by
  induction l generalizing s with
  | nil => exact ⟨rfl, rfl, fun _ => .refl s, nofun⟩
  | cons n l ih =>
    intro t b
    obtain ⟨hn, hl⟩ := List.nodup_cons.mp hl
    obtain ⟨hsnap, hanalog, hkeep, hturned⟩ := ih hl (s.inputChecks n)
    have ht : t = (s.inputChecks n).each l fun n q => q.inputChecks n := State.each_cons ..
    rw [s.inputChecks_analog, s.inputChecks_snap] at hanalog hturned
    rw [s.inputChecks_snap] at hsnap
    rw [ht]
    refine ⟨hsnap, ?_, fun hj => ?_, fun hj hne => ?_⟩
    · rw [hanalog]
      by_cases hjn : j = n
      · subst hjn
        rw [if_neg hn, if_pos rfl, if_pos (List.mem_cons_self ..)]
      · rw [if_neg hjn]
        exact if_congr (by simp [hjn]) rfl rfl
    · rw [List.mem_cons, not_or] at hj
      exact (s.inputChecks_keepsOther (Ne.symm hj.1) k).trans (hkeep hj.2)
    · by_cases hjn : j = n
      · subst hjn
        exact (s.inputChecks_turned j k hne).keep (hkeep hn) (not_not.mpr rfl)
      · rw [if_neg hjn] at hturned
        exact (hturned ((List.mem_cons.mp hj).resolve_left hjn) hne).of (s.inputChecks_classOf n _) (s.inputChecks_logsOk n)

/-- R35: the 32 checks. -/
theorem State.limitChecks_spec (s : State) (j : Fin 16) (k : Fin 2) :
    let b := (s.analog j).bothOn s.snap.ai[j]
    s.limitChecks.analog j = b ∧
    (b.active k ≠ (s.analog j).active k →
      Turned s ((s.analog j).check k).group (.limit j k) (b.active k) s.limitChecks) := by
  have hall : j ∈ analogs := by fin_cases j <;> decide
  obtain ⟨_, hanalog, _, hturned⟩ := State.checks_spec analogs (by decide) s j k
  rw [if_pos hall] at hanalog
  exact ⟨hanalog, hturned hall⟩

/-! ### The users of the snapshot -/

theorem SameBlocks.withInputs (h : SameBlocks s t) (v : Vector Analog 16) : SameBlocks { s with ai := v } { t with ai := v } :=
  fun x => { h x with ai := rfl }

theorem State.limitChecks_blocks (s : State) : SameBlocks { s with ai := s.limitChecks.ai } s.limitChecks := by
  refine s.limitChecks_keep (P := fun q => SameBlocks { s with ai := q.ai } q) (fun n q hq => ?_) (.refl s)
  have hfirst := (hq.withInputs _).trans (q.limitCheck_blocks n 0)
  exact (hfirst.withInputs _).trans ((q.limitCheck n 0).limitCheck_blocks n 1)

theorem State.limitChecks_schedule (s : State) :
    (s.limitChecks.swu.counter, s.limitChecks.swu.lastTime) = (s.swu.counter, s.swu.lastTime) := by
  have hone (q : State) (n : Fin 16) (k : Fin 2) :
      ((q.limitCheck n k).swu.counter, (q.limitCheck n k).swu.lastTime) = (q.swu.counter, q.swu.lastTime) := by
    obtain ⟨b, ⟨hstay, _⟩ | ⟨hturn, _, _⟩⟩ := q.limitCheck_spec n k
    · rw [hstay]
    · rw [hturn]
      exact unmoved_schedule.handOver _ _ _ b
  exact s.limitChecks_keep (P := fun q => (q.swu.counter, q.swu.lastTime) = (s.swu.counter, s.swu.lastTime))
    (fun n q hq => ((hone _ n 1).trans (hone q n 0)).trans hq) rfl

theorem State.convert_schedule (s : State) (n : Fin 16) (code : Nat) :
    ((s.convert n code).swu.counter, (s.convert n code).swu.lastTime) = (s.swu.counter, s.swu.lastTime) := by
  unfold State.convert State.sensorChange
  dsimp only
  split
  · exact unmoved_schedule.handOver _ _ _ _
  · split
    · exact unmoved_schedule.handOver _ _ _ _
    · rfl

theorem State.convert_logsOk (s : State) (n : Fin 16) (code : Nat) (h : s.LogsOk) : (s.convert n code).LogsOk := by
  have hconverted := State.logsOk_modAnalog h n (fun a => a.convert code) fun a => a.convert_params code
  unfold State.convert State.sensorChange
  dsimp only
  split
  · exact (State.handOver_turns _ _ _ _ rfl).keep (fun _ _ => Turn.logsOk) hconverted
  · split
    · exact (State.handOver_turns _ _ _ _ rfl).keep (fun _ _ => Turn.logsOk) hconverted
    · exact hconverted

section
variable (h : SameBlocks s t)
include h

theorem SameBlocks.asu : t.asu = s.asu := (h s.groups).asu
theorem SameBlocks.snap : t.snap = s.snap := (h s.groups).snap
theorem SameBlocks.pi : t.pi = s.pi := (h s.groups).pi
theorem SameBlocks.map : t.map = s.map := (h s.groups).map
theorem SameBlocks.hmt : t.hmt = s.hmt := (h s.groups).hmt

end

/-! ### Evaluations -/

/-- What an evaluation leaves: the schedule, every block outside the scaling watch and the groups, and the causes of others. -/
structure Evaluates (s t : State) : Prop where
  blocks : SameBlocks s t
  schedule : (t.swu.counter, t.swu.lastTime) = (s.swu.counter, s.swu.lastTime)
  keeps : ∀ j l, LogsKeep (fun _ d => d ≠ .limit j l) s t

theorem Evaluates.trans (h : Evaluates s t) (k : Evaluates t r) : Evaluates s r :=
  ⟨h.blocks.trans k.blocks, k.schedule.trans h.schedule, fun j l => (h.keeps j l).trans (k.keeps j l)⟩

theorem Evaluates.refl (s : State) : Evaluates s s := ⟨.refl s, rfl, fun _ _ => .refl s⟩

/-- A record of the scaling watch. -/
theorem State.modSwu_evaluates (s : State) (f : Swu → Swu) (h : (f s.swu).params = s.swu.params)
    (hs : ((f s.swu).counter, (f s.swu).lastTime) = (s.swu.counter, s.swu.lastTime)) : Evaluates s (s.modSwu f) :=
  ⟨(Raw.swu f h).raws.same.blocks, hs, fun _ _ => logsKeep_of_groups rfl⟩

theorem State.handOver_evaluates (s : State) (g : Group) {c : Cause} (hm : c.isMomentary = false)
    (hc : ∀ j l, c ≠ .limit j l) (b : Bool) : Evaluates s (s.handOver g c b) where
  blocks := s.handOver_blocks g hm b
  schedule := unmoved_schedule.handOver s g c b
  keeps j l := (s.handOver_logsKeep g c b).mono fun _ d hd heq => by
    subst heq
    rcases hd with ⟨_, hd⟩ | hd | hd
    · exact hc j l hd.symm
    · exact hd
    · exact hd

theorem State.runGuard_evaluates (s : State) (k : GuardId) (margin : Int) : Evaluates s (s.runGuard k margin) where
  blocks := (s.runGuard_reacts k margin).same.blocks
  schedule := unmoved_schedule.runGuard s k margin
  keeps j l := (s.runGuard_logsKeep k margin).mono fun _ d hd heq => by
    subst heq
    exact hd

theorem State.holdGuard_evaluates (s : State) (k : GuardId) : Evaluates s (s.holdGuard k) where
  blocks := (s.holdGuard_same k).blocks
  schedule := by cases k <;> rfl
  keeps _ _ := s.setGuard_logsKeep k _

theorem State.evalExchanger_evaluates (s : State) : Evaluates s s.evalExchanger := by
  have hrecord (q : State) (f : Exchanger → Exchanger) : Evaluates q (q.modEx f) := q.modSwu_evaluates _ rfl rfl
  have hstep (q : State) : Evaluates q q.stepFouling := by
    unfold State.stepFouling
    dsimp only
    split
    · exact .refl q
    · exact (hrecord q _).trans (State.handOver_evaluates _ _ (c := .hxFouling) rfl nofun _)
  unfold State.evalExchanger
  dsimp only
  split
  · split
    · exact (hrecord s _).trans (hstep _)
    · exact hrecord s _
  · exact hrecord s _

theorem State.evalSilica_evaluates (s : State) : Evaluates s s.evalSilica := by
  have hrecord (q : State) (f : Silica → Silica) : Evaluates q (q.modSil f) := q.modSwu_evaluates _ rfl rfl
  have hmargin (q : State) : Evaluates q q.stepMargin := by
    unfold State.stepMargin
    dsimp only
    split
    · exact .refl q
    · exact (hrecord q _).trans (State.handOver_evaluates _ _ (c := .silicaMargin) rfl nofun _)
  have htrip (q : State) : Evaluates q q.stepTrip := by
    unfold State.stepTrip
    dsimp only
    split
    · exact hrecord q _
    · exact (hrecord q _).trans (State.handOver_evaluates _ _ (c := .silicaTrip) rfl nofun _)
  have hsteps (f : Silica → Silica) : Evaluates s (s.modSil f).stepMargin.stepTrip :=
    ((hrecord s f).trans (hmargin _)).trans (htrip _)
  unfold State.evalSilica
  dsimp only
  split
  · split
    · exact (hsteps _).trans (State.runGuard_evaluates _ _ _)
    · exact hsteps _
  · split
    · exact (hrecord s _).trans (State.holdGuard_evaluates _ _)
    · exact hrecord s _

theorem State.evalCalcite_evaluates (s : State) (i : Fin 8) : Evaluates s (s.evalCalcite i) := by
  have hrecord (q : State) (f : Calcite → Calcite) : Evaluates q (q.modCal i f) := q.modSwu_evaluates _ rfl rfl
  have hstep (q : State) : Evaluates q (q.stepCalcite i) := by
    unfold State.stepCalcite
    dsimp only
    split
    · exact .refl q
    · exact (hrecord q _).trans (State.handOver_evaluates _ _ (c := .calcite i) rfl nofun _)
  unfold State.evalCalcite
  dsimp only
  split
  · split
    · exact ((hrecord s _).trans (hstep _)).trans (State.runGuard_evaluates _ _ _)
    · exact (hrecord s _).trans (State.holdGuard_evaluates _ _)
  · exact hrecord s _

/-- R125, R126: the steps of an evaluation. -/
theorem State.evaluate_evaluates (s : State) :
    Evaluates (s.modSwu fun w => { w with counter := 0, lastTime := s.snap.time }) s.evaluate := by
  have hwells (q : State) : Evaluates q (q.each wells fun i x => x.evalCalcite i) :=
    State.each_induct (P := Evaluates q) wells (fun i x => x.evalCalcite i) (fun i _ x hx => hx.trans (x.evalCalcite_evaluates i)) q
      (.refl q)
  exact ((State.evalExchanger_evaluates _).trans (State.evalSilica_evaluates _)).trans (hwells _)

theorem State.each_wells (q : State) (f : Fin 8 → State → State) :
    q.each wells f = f 7 (f 6 (f 5 (f 4 (f 3 (f 2 (f 1 (f 0 q))))))) := rfl

/-- R125: the steps of an evaluation, in order. -/
theorem State.evaluate_steps (s : State) : s.evaluate =
    ((State.evalExchanger (s.modSwu fun w => { w with counter := 0, lastTime := s.snap.time })).evalSilica).each wells
      fun i x => x.evalCalcite i := by
  unfold State.evaluate
  rfl

/-- The state in which the snapshot is taken. -/
def State.scanned (s : State) : State := { s with asu := { s.asu with pos := none } }.takeSnapshot

theorem State.scanned_snap (s : State) : s.scanned.snap.time = s.ms ∧
    (∀ j : Fin 16, s.scanned.snap.ai[j] = ⟨(s.analog j).value, (s.analog j).quality⟩) ∧
    ∀ j : Fin 12, s.scanned.snap.pi[j] = ⟨(s.pulse j).rate, (s.pulse j).quality⟩ :=
  ⟨rfl, vec16_get _, vec12_get _⟩

/-- R34, R149: the state that the schedule of the evaluations takes. -/
def State.metered (s : State) : State := s.scanned.limitChecks.meterScan

theorem State.meterScan_analog (s : State) (j : Fin 16) : s.meterScan.analog j = s.analog j := rfl

theorem State.meterScan_keeps (s : State) {T : Group → Cause → Prop} : LogsKeep T s s.meterScan := logsKeep_of_groups rfl

theorem State.metered_spec (s : State) : let e := s.metered
    e.asu = { s.asu with pos := none } ∧ e.snap = s.scanned.snap ∧ e.pi = s.pi ∧ e.di = s.di ∧ e.map = s.map ∧
    e.hmt = s.hmt.interval e.snap s.asu.period ∧ (e.swu.counter, e.swu.lastTime) = (s.swu.counter, s.swu.lastTime) ∧
    e.ms = s.ms ∧ e.swu.params = s.swu.params := by
  have hblocks := s.scanned.limitChecks_blocks s.scanned.groups
  have hschedule := s.scanned.limitChecks_schedule
  unfold State.metered
  generalize s.scanned.limitChecks = q at hblocks hschedule
  have hasu : q.asu = { s.asu with pos := none } := hblocks.asu
  refine ⟨hasu, hblocks.snap, hblocks.pi, hblocks.di, hblocks.map, ?_, hschedule, hblocks.ms, hblocks.swu⟩
  show q.hmt.interval q.snap q.asu.period = s.hmt.interval q.snap s.asu.period
  rw [hasu]
  exact congrArg (fun h => Hmt.interval h q.snap s.asu.period) hblocks.hmt

theorem State.countScan_due (s : State) (h : s.swu.params.interval ≤ s.swu.counter + 1) : s.countScan = s.evaluate := if_pos h

theorem State.countScan_early (s : State) (h : ¬s.swu.params.interval ≤ s.swu.counter + 1) :
    s.countScan = { s with swu := { s.swu with counter := s.swu.counter + 1 } } := if_neg h

/-- R125: an evaluation, step by step. -/
theorem State.evaluate_unrolled (s : State) {now : Word} (h : s.snap.time = now) : s.evaluate =
    let x := ({ s with swu := { s.swu with counter := 0, lastTime := now } }).evalExchanger.evalSilica
    let y := (((x.evalCalcite 0).evalCalcite 1).evalCalcite 2).evalCalcite 3
    (((y.evalCalcite 4).evalCalcite 5).evalCalcite 6).evalCalcite 7 := by
  rw [← h, s.evaluate_steps, State.each_wells]
  rfl

theorem State.evaluate_schedule (s : State) : s.evaluate.swu.counter = 0 ∧ s.evaluate.swu.lastTime = s.snap.time :=
  Prod.mk.inj s.evaluate_evaluates.schedule

/-- R125: what the users of the snapshot leave of a scan. -/
theorem State.countScan_spec (s : State) :
    SameBlocks s s.countScan ∧ ∀ j l, LogsKeep (fun _ d => d ≠ .limit j l) s s.countScan := by
  by_cases hdue : s.swu.params.interval ≤ s.swu.counter + 1
  · have hcleared : SameBlocks s (s.modSwu fun w => { w with counter := 0, lastTime := s.snap.time }) :=
      (Raw.swu _ rfl).raws.same.blocks
    have heval := s.evaluate_evaluates
    rw [s.countScan_due hdue]
    exact ⟨hcleared.trans heval.blocks, fun j l => LogsKeep.trans (t := s.modSwu _) (logsKeep_of_groups rfl) (heval.keeps j l)⟩
  · rw [s.countScan_early hdue]
    exact ⟨(Raw.swu (s := s) (fun w => { w with counter := w.counter + 1 }) rfl).raws.same.blocks, fun _ _ => logsKeep_of_groups rfl⟩

/-- R29, R34: the last conversion of a scan. -/
theorem State.exec_lastConversion (s : State) (code : BitVec 12) {p : Nat} {n : Fin 16} (hpos : s.asu.pos = some p)
    (hn : s.asu.list[p]? = some n) (hlast : s.asu.list.length = p + 1) :
    exec (.conversionEnd code) s = .next (s.convert n code.toNat).metered.countScan := by
  refine s.exec_conversion code hpos hn (if_neg ?_)
  rw [(s.convert_same n code.toNat).asu]
  exact fun hmore : p + 1 < s.asu.list.length => absurd hlast hmore.ne'

/-- R35: the checks of an input over a scan that completes, and their causes. -/
theorem State.countScan_checks (s : State) (j : Fin 16) (k : Fin 2) :
    let a := s.analog j
    let next := (a.check k).next (a.active k) a.value
    let r := s.metered.countScan
    (r.analog j).active k = (if (⟨a.value, a.quality⟩ : Sample).usable = true then next else a.active k) ∧
    ((r.analog j).active k ≠ a.active k → Turned s (a.check k).group (.limit j k) next r) := by
  intro a next r
  obtain ⟨_, hai, _⟩ := s.scanned_snap
  obtain ⟨hanalog, hturned⟩ := s.scanned.limitChecks_spec j k
  obtain ⟨hblocks, hkeeps⟩ := s.metered.countScan_spec
  have hscanned : s.scanned.analog j = a := rfl
  rw [hscanned, hai] at hanalog hturned
  have hr : r.analog j = a.bothOn ⟨a.value, a.quality⟩ := ((hblocks.analog j).trans (State.meterScan_analog _ j)).trans hanalog
  have hactive : (r.analog j).active k = _ := (congrArg (Analog.active · k) hr).trans (a.bothOn_active _ k)
  refine ⟨hactive, fun hne => ?_⟩
  rw [hr] at hne
  have hnext : (a.bothOn ⟨a.value, a.quality⟩).active k = next := by
    rw [a.bothOn_active] at hne ⊢
    split at hne
    case isTrue hu => exact if_pos hu
    case isFalse => exact absurd rfl hne
  have hdone := (hturned hne).keep (t := s.metered) (State.meterScan_keeps _ (T := fun _ d => d ≠ .limit j k)) (not_not.mpr rfl)
  rw [hnext] at hdone
  exact (hdone.keep (hkeeps j k) (not_not.mpr rfl)).of rfl id

/-- Settles O53. -/
theorem scanStartsAndCompletes : Obligations.ScanStartsAndCompletes := by
  intro s
  refine ⟨rfl, fun code p n hpos hn hlast => ?_⟩
  intro t
  have hsame : Same (s.modAnalog n fun a => a.convert code.toNat) t := s.convert_same n code.toNat
  have hschedule : (t.swu.counter, t.swu.lastTime) = _ := s.convert_schedule n code.toNat
  have hlogs : s.LogsOk → t.LogsOk := s.convert_logsOk n code.toNat
  have hexec : _ = Host.Outcome.next t.metered.countScan := s.exec_lastConversion code hpos hn hlast
  obtain ⟨hasu, hsnap, hpi, hdi, hmap, hhmt, hcount, hms, hparams⟩ := t.metered_spec
  obtain ⟨hblocks, _⟩ := t.metered.countScan_spec
  obtain ⟨htime, hai, hpulse⟩ := t.scanned_snap
  obtain ⟨hcounter, hlastTime⟩ := Prod.mk.inj (hcount.trans hschedule)
  have hchecks := t.countScan_checks
  refine ⟨t.metered.countScan, hexec, ?asu, ?time, fun j => ?ai, fun j => ?pulse, ?pi, ?di, ?map, ?hmt, ?users, fun j k => ?checks⟩
  case asu => exact hblocks.asu.trans (hasu.trans (by rw [hsame.asu]; rfl))
  case time => rw [hblocks.snap, hsnap, htime, hsame.ms]; rfl
  case ai => rw [hblocks.snap, hsnap]; exact hai j
  case pulse =>
    rw [hblocks.snap, hsnap, hpulse, State.pulse, hsame.pi]
    rfl
  case pi => exact hblocks.pi.trans (hpi.trans hsame.pi)
  case di => exact hblocks.di.trans (hdi.trans hsame.di)
  case map => exact hblocks.map.trans (hmap.trans hsame.map)
  case hmt =>
    rw [hblocks.snap, hblocks.hmt, hhmt, hsame.hmt, hsame.asu]
    rfl
  case users =>
    intro e
    have he : e = t.metered := rfl
    clear_value e
    subst he
    have hdue : t.metered.swu.params.interval ≤ t.metered.swu.counter + 1 ↔ s.swu.params.interval ≤ s.swu.counter + 1 := by
      rw [hparams, hsame.swu, hcounter]
      rfl
    have hnow : t.metered.snap.time = s.ms := by rw [hsnap, htime, hsame.ms]; rfl
    refine ⟨hcounter, hlastTime, hblocks.snap.symm, hblocks.hmt.symm, ?_⟩
    split
    case isTrue h =>
      rw [t.metered.countScan_due (hdue.mpr h)]
      obtain ⟨hzero, hlast⟩ := t.metered.evaluate_schedule
      exact ⟨t.metered.evaluate_unrolled hnow, hzero, hlast.trans hnow⟩
    case isFalse h => rw [t.metered.countScan_early (mt hdue.mp h), hcounter]
  case checks =>
    intro a c v next usable
    obtain ⟨hactive, hturned⟩ := hchecks j k
    have hnext : c.next (a.active k) a.value = next := c.next_eq _ _
    have husable : (⟨a.value, a.quality⟩ : Sample).usable = true ↔ usable := Sample.usable_iff _
    rw [hnext] at hactive hturned
    refine ⟨fun hu => hactive.trans (if_pos (husable.mpr hu)), fun hu => hactive.trans (if_neg (mt husable.mp hu)), fun hne => ?_⟩
    exact ⟨fun hb => ((hturned hne).1 hb).1, fun hb hl => (hturned hne).2 hb (hlogs hl)⟩

end Sys2Proof.Machine
end

section
/-! Relations that causes keep through the units and channels they reach (R21, R73, R75, R88, R90), and the drains (R75, R76). -/

namespace Sys2Proof.Machine

variable {s t r e : State} {u : UnitId}

/-! ### What reactions reach -/

/-- What a run of reactions may reach: the groups whose records, channels and guards it changes, those of them that it brings
into TRIP, the units of these that it forces, and the causes that it makes active. -/
structure Reach where
  group : Group → Prop
  trip : Group → Prop
  unit : UnitId → Prop
  arrives : Group → Cause → Prop

/-- Alarms and what they set off, without a trip. -/
abbrev Reach.alarms : Reach := ⟨fun _ => True, fun _ => False, fun _ => False, fun _ _ => True⟩

/-- R79: a unit in its trip-list state. -/
def UnitRec.tripped (x : UnitRec) : UnitRec := { x with state := x.params.tripState, phase := .none, dest := none, timer := none }

/-- R139: CALCITE of a well is over. -/
def Swu.calOver (w : Swu) (i : Fin 8) : Swu := { w with cal := w.cal.set i { w.cal[i] with active := false } }

/-- No cause but one of `P` becomes active from `x` to `y`. -/
def GroupRec.Quiet (P : Cause → Prop) (x y : GroupRec) : Prop := ∀ c, y.Holds c → x.Holds c ∨ P c

theorem GroupRec.quiet_of_log {P : Cause → Prop} {x y : GroupRec} (hlog : y.log = x.log) (hset : y.unrecorded = x.unrecorded) :
    x.Quiet P y := fun c h => .inl (by unfold GroupRec.Holds at h ⊢; rwa [hlog, hset] at h)

theorem GroupRec.modRecord_quiet {P : Cause → Prop} (x : GroupRec) (c : Cause) (f : CauseRec → CauseRec)
    (hf : ∀ z, (f z).cause = z.cause ∧ ((f z).active = true → z.active = true)) : x.Quiet P (x.modRecord c f) := fun d h => by
  refine .inl (h.imp_left ?_)
  rintro ⟨z, hz, hd, hactive⟩
  obtain ⟨y, hy, rfl⟩ := List.mem_map.mp hz
  refine ⟨y, hy, ?_⟩
  split at hd
  case isTrue hc => rw [if_pos hc] at hactive; exact ⟨(hf y).1.symm.trans hd, (hf y).2 hactive⟩
  case isFalse hc => rw [if_neg hc] at hactive; exact ⟨hd, hactive⟩

theorem GroupRec.arrive_quiet {P : Cause → Prop} (x : GroupRec) {c : Cause} (cls : CauseClass) (now : Word) (hc : P c) :
    x.Quiet P (x.arrive c cls now).1 := fun d h => by
  by_cases hd : d = c
  · exact .inr (hd ▸ hc)
  · exact .inl ((x.arrive_keeps c cls now).only d hd h)

theorem GroupRec.arriveMomentary_quiet {P : Cause → Prop} (x : GroupRec) (c : Cause) (cls : CauseClass) (now : Word) :
    x.Quiet P (x.arriveMomentary c cls now).1 := by
  unfold GroupRec.arriveMomentary
  split_ifs
  · exact x.modRecord_quiet c _ fun _ => ⟨rfl, id⟩
  · intro d h
    refine .inl (h.imp_left ?_)
    rintro ⟨z, hz, hd, hactive⟩
    rcases List.mem_append.mp hz with hz | hz
    · exact ⟨z, hz, hd, hactive⟩
    · rw [List.mem_singleton.mp hz] at hactive
      cases hactive
  · exact GroupRec.quiet_of_log rfl rfl

theorem GroupRec.deactivate_quiet {P : Cause → Prop} (x : GroupRec) (c : Cause) (now : Word) : x.Quiet P (x.deactivate c now) := by
  unfold GroupRec.deactivate
  split
  · refine x.modRecord_quiet c _ fun z => ?_
    split
    · exact ⟨rfl, nofun⟩
    · exact ⟨rfl, id⟩
  · exact fun d h => .inl (h.imp_right fun ⟨y, hy, hd⟩ => ⟨y, (List.mem_filter.mp hy).1, hd⟩)

/-- A relation from a state to later ones that holds over each part of an arrival and of a deactivation within a reach. -/
structure Tracks (R : Reach) (K : State → State → Prop) : Prop where
  refl : ∀ s, K s s
  trans : ∀ s t r, K s t → K t r → K s r
  queue : ∀ s who b, K s (State.queue s who b)
  group : ∀ s g f, R.group g → (State.group s g).Quiet (R.arrives g) (f (State.group s g)) → K s (State.modGroup s g f)
  clear : ∀ s k, R.group (chanGroup k.chan) → K s (State.setGuard s k (State.guard s k).cleared)
  put : ∀ s c (x : Entry), R.group (chanGroup c) → (x.source = .trip → R.trip (chanGroup c)) → x.source ≠ .scale →
    K s (State.modChan s c fun ch => { ch with stack := pushEntry x ch.stack })
  take : ∀ s c (x : Source), R.group (chanGroup c) → x ≠ .trip →
    K s (State.modChan s c fun ch => { ch with stack := removeEntry x ch.stack })
  refold : ∀ s c, R.group (chanGroup c) → K s (State.refold s c)
  test : ∀ s u, R.group (unitGroup u) → K s (State.testUnit s u)
  jump : ∀ s c v, R.group (chanGroup c) → R.trip (chanGroup c) → K s (State.modChan s c fun ch => ch.tripJump v)
  enter : ∀ s u, R.group (unitGroup u) → R.unit u → (State.unit s u).atRest = false →
    K s (State.modUnit s u UnitRec.tripped)
  altered : ∀ s u, R.group (unitGroup u) → R.unit u →
    K s (State.modUnit s u fun x => { x with protAltered := true })
  calcite : ∀ s i, R.group .field → R.unit (wellUnit i) → K s (State.modSwu s fun w => w.calOver i)
  speed : ∀ s, R.group .turbine → R.unit unitTG →
    K s (State.modTsm s fun x => { x with speedLost := false })

theorem State.mem_actionsIn {g : Group} {c : Cause} {a : Action} (h : a ∈ s.actionsIn g c) : chanGroup a.channel = g := by
  unfold State.actionsIn at h
  split at h
  · cases h
  · simpa using (List.mem_filter.mp h).2

section
variable {R : Reach} {K : State → State → Prop} {g : Group} {c : ChanId}

theorem Tracks.each {α : Type} (h : Tracks R K) (l : List α) (f : α → State → State) (hf : ∀ x ∈ l, ∀ s, K s (f x s)) (s : State) :
    K s (s.each l f) :=
  State.each_induct (P := K s) l f (fun x hx t ht => h.trans _ _ _ ht (hf x hx t)) s (h.refl s)

theorem Tracks.remove (h : Tracks R K) (s : State) (hc : R.group (chanGroup c)) {x : Source} (hx : x ≠ .trip) : K s (s.remove c x) := by
  unfold State.remove
  split
  · exact h.trans _ _ _ (h.take s c x hc hx) (h.trans _ _ _ (h.refold _ c hc) (h.test _ _ hc))
  · exact h.refl s

theorem Tracks.setLevel (h : Tracks R K) (s : State) (hg : R.group g) (l : Level) : K s (s.setLevel g l) := by
  unfold State.setLevel State.queueAll
  exact h.trans _ _ _ (h.group s g _ hg (GroupRec.quiet_of_log rfl rfl)) (h.queue _ _ _)

theorem Tracks.relevel (h : Tracks R K) (s : State) (hg : R.group g) : K s (s.relevel g) := by
  unfold State.relevel
  dsimp only
  split
  · exact h.refl s
  · exact h.setLevel s hg _

theorem Tracks.recordWith (h : Tracks R K) (s : State) (hg : R.group g) (c : Cause) (cls : CauseClass) (mom : Bool)
    {x : GroupRec × Recorded} (hx : (s.group g).Quiet (R.arrives g) x.1) : K s (s.recordWith g c cls mom x) := by
  have hgroup : K s (s.modGroup g fun _ => x.1) := h.group s g _ hg hx
  unfold State.recordWith State.queueAll
  dsimp only
  split
  · exact hgroup
  · exact h.trans _ _ _ hgroup (h.queue _ _ _)
  · exact h.trans _ _ _ hgroup (h.queue _ _ _)

theorem Tracks.momentary (h : Tracks R K) (s : State) (hg : R.group g) (c : Cause) : K s (s.momentary g c) :=
  h.trans _ _ _ (h.recordWith s hg c .alarm true (GroupRec.arriveMomentary_quiet _ _ _ _)) (h.relevel _ hg)

theorem Tracks.tellGuard (h : Tracks R K) (s : State) (k : GuardId) (old : GuardState) (why : GuardReason) :
    K s (s.tellGuard k old why) := by
  unfold State.tellGuard State.queueReaders
  dsimp only
  split
  · exact h.refl s
  · exact h.queue s _ _

theorem Tracks.discarded (h : Tracks R K) (s : State) (hc : R.group (chanGroup c)) (x : Entry) : K s (s.discarded c x) := by
  unfold State.discarded State.queueReaders
  split
  · dsimp only
    split
    case h_1 k hk =>
      have hk : R.group (chanGroup k.chan) := by rwa [guardOf_eq_some.mp hk]
      exact h.trans _ _ _ (h.trans _ _ _ (h.clear s k hk) (h.tellGuard _ k _ _)) (h.momentary _ hc _)
    case h_2 => exact h.momentary s hc _
  · exact h.queue s _ _

theorem Tracks.pushRaw (h : Tracks R K) (s : State) (hc : R.group (chanGroup c)) {x : Entry}
    (ht : x.source = .trip → R.trip (chanGroup c)) (hs : x.source ≠ .scale) : K s (s.pushRaw c x) := by
  unfold State.pushRaw
  dsimp only
  split
  · exact h.trans _ _ _ (h.discarded s hc _) (h.put _ c x hc ht hs)
  · exact h.put s c x hc ht hs

theorem Tracks.push (h : Tracks R K) (s : State) (hc : R.group (chanGroup c)) {x : Entry} (ht : x.source ≠ .trip)
    (hs : x.source ≠ .scale) : K s (s.push c x) :=
  h.trans _ _ _ (h.pushRaw s hc (fun hx => absurd hx ht) hs) (h.trans _ _ _ (h.refold _ c hc) (h.test _ _ hc))

theorem Tracks.arriveAlarm (h : Tracks R K) (s : State) (hg : R.group g) {c : Cause} (hc : R.arrives g c) : K s (s.arriveAlarm g c) :=
  h.trans _ _ _ (h.trans _ _ _ (h.recordWith s hg c .alarm false (GroupRec.arrive_quiet _ _ _ hc))
    (h.each (State.actionsIn _ g c) _
      (fun a ha q => h.push q (by rwa [State.mem_actionsIn ha]) (by simp) (by simp)) _)) (h.relevel _ hg)

theorem Tracks.deactivate (h : Tracks R K) (s : State) (hg : R.group g) (c : Cause) : K s (s.deactivate g c) :=
  h.trans _ _ _ (h.trans _ _ _ (h.group s g _ hg (GroupRec.deactivate_quiet _ _ _))
    (h.each (State.actionsIn _ g c) _ (fun a ha q => h.remove q (by rwa [State.mem_actionsIn ha]) (by simp)) _))
    (h.relevel _ hg)

/-! ### Trip entry -/

theorem Tracks.pushTrip (h : Tracks R K) (s : State) (hc : R.group (chanGroup c)) (ht : R.trip (chanGroup c)) (v : Nat) :
    K s (s.pushTrip c v) :=
  h.trans _ _ _ (h.pushRaw s hc (fun _ => ht) (by simp)) (h.jump _ c v hc ht)

theorem Tracks.guardOff (h : Tracks R K) (s : State) {k : GuardId} (hk : R.group (chanGroup k.chan)) : K s (s.guardOff k) := by
  unfold State.guardOff
  dsimp only
  split
  · exact h.refl s
  · exact h.trans _ _ _ (h.trans _ _ _ (h.clear s k hk) (h.remove _ hk (by simp))) (h.tellGuard _ k _ _)

theorem Tracks.calciteOff (h : Tracks R K) (s : State) {i : Fin 8} (hg : R.group .field) (hu : R.unit (wellUnit i)) : K s (s.calciteOff i) := by
  unfold State.calciteOff
  split
  · exact h.trans _ _ _ (h.calcite s i hg hu) (h.deactivate _ hg _)
  · exact h.refl s

theorem unitGuard_group {u : UnitId} {k : GuardId} (h : unitGuard u = some k) : chanGroup k.chan = unitGroup u := by
  unfold unitGuard wellOf at h
  split at h
  case isTrue hu => cases h; rw [hu]; rfl
  case isFalse =>
    split at h
    case isTrue => cases h; rw [chanGroup, GuardId.chan]; exact congrArg unitGroup (by decide +revert)
    case isFalse => cases h

theorem wellUnit_of_wellOf {u : UnitId} {i : Fin 8} (h : wellOf u = some i) : wellUnit i = u ∧ unitGroup u = .field := by
  unfold wellOf at h
  split at h
  case isTrue => cases h; exact ⟨rfl, by decide +revert⟩
  case isFalse => cases h

theorem Tracks.leaveService (h : Tracks R K) (s : State) {u : UnitId} (hg : R.group (unitGroup u)) (hu : R.unit u) : K s (s.leaveService u) := by
  have hcal (q : State) {i : Fin 8} (hi : wellOf u = some i) : K q (q.calciteOff i) := by
    obtain ⟨hunit, hfield⟩ := wellUnit_of_wellOf hi
    exact h.calciteOff q (hfield ▸ hg) (hunit.symm ▸ hu)
  have hguard {k : GuardId} (hk : unitGuard u = some k) : K s (s.guardOff k) := h.guardOff s (by rwa [unitGuard_group hk])
  unfold State.leaveService
  dsimp only
  cases hk : unitGuard u <;> cases hi : wellOf u
  · exact h.refl s
  · exact hcal s hi
  · exact hguard hk
  · exact h.trans _ _ _ (hguard hk) (hcal _ hi)

theorem Tracks.speedLeave (h : Tracks R K) (s : State) {u : UnitId} (hg : R.group (unitGroup u)) (hu : R.unit u) : K s (s.speedLeave u) := by
  unfold State.speedLeave State.regainSpeed
  split
  case isTrue heq =>
    subst heq
    split
    · exact h.trans _ _ _ (h.speed s hg hu) (h.deactivate _ hg _)
    · exact h.refl s
  case isFalse => exact h.refl s

theorem Tracks.enterTripState (h : Tracks R K) (s : State) {u : UnitId} (hg : R.group (unitGroup u))
    (hu : (s.unit u).atRest = false → R.unit u) : K s (s.enterTripState u) := by
  unfold State.enterTripState
  split
  case isTrue => exact h.refl s
  case isFalse hrest =>
    rw [Bool.not_eq_true] at hrest
    exact h.trans _ _ _ (h.enter s u hg (hu hrest) hrest)
      (h.each (unitChannels u) _ (fun c hc q => h.refold q c (by rwa [chanGroup, unitOf_of_mem hc])) _)

theorem Tracks.forced (h : Tracks R K) (s : State) {u : UnitId} {x : UnitRec} (hg : R.group (unitGroup u))
    (hu : x.atRest = false → R.unit u) : K s (s.forced u x) := by
  unfold State.forced State.queueUnitState State.queueUnit State.queueReaders
  dsimp only
  split
  case isTrue => exact h.refl s
  case isFalse hrest =>
    rw [Bool.not_eq_true] at hrest
    have hleft : K s (((s.leaveService u).speedLeave u).modUnit u fun x => { x with protAltered := true }) :=
      h.trans _ _ _ (h.trans _ _ _ (h.leaveService s hg (hu hrest)) (h.speedLeave _ hg (hu hrest)))
        (h.altered _ u hg (hu hrest))
    refine h.trans _ _ _ ?_ (h.queue _ _ _)
    split
    · exact hleft
    · exact h.trans _ _ _ hleft (h.queue _ _ _)

theorem Tracks.pushTripList (h : Tracks R K) (s : State) (g : Group)
    (hl : ∀ x ∈ (s.group g).tripList, R.group (chanGroup x.channel) ∧ R.trip (chanGroup x.channel)) : K s (s.pushTripList g) :=
  h.each _ _ (fun x hx q => h.pushTrip q (hl x hx).1 (hl x hx).2 x.value) s

theorem State.enterTripState_unit_other (s : State) {u v : UnitId} (h : v ≠ u) : (s.enterTripState u).unit v = s.unit v := by
  unfold State.enterTripState
  split
  · rfl
  · rw [State.refoldUnit_unit, State.unit_modUnit, if_neg h]

theorem Tracks.entered (h : Tracks R K) (hg : R.group g) : ∀ (l : List UnitId) (s : State), l.Nodup →
    (∀ u ∈ l, unitGroup u = g ∧ ((s.unit u).atRest = false → R.unit u)) → K s (s.entered l)
  | [], s, _, _ => h.refl s
  | u :: l, s, hnodup, hl => by
    obtain ⟨hfresh, hnodup⟩ := List.nodup_cons.mp hnodup
    obtain ⟨hu, hrest⟩ := hl u (List.mem_cons_self ..)
    refine h.trans _ _ _ (h.enterTripState s (by rwa [hu]) hrest)
      (Tracks.entered h hg l _ hnodup fun v hv => ?_)
    have hvu : v ≠ u := fun heq => hfresh (heq ▸ hv)
    rw [s.enterTripState_unit_other hvu]
    exact hl v (List.mem_cons_of_mem _ hv)

theorem groupUnits_nodup (g : Group) : (groupUnits g).Nodup := by cases g <;> decide

theorem Tracks.forceGroup (h : Tracks R K) (s : State) (hg : R.group g)
    (hl : ∀ u ∈ groupUnits g, (s.unit u).atRest = false → R.unit u) : K s (s.forceGroup g) := by
  have hforced : K s (s.allForced g) :=
    h.trans _ _ _ (h.entered hg _ s (groupUnits_nodup g) fun u hu => ⟨unitGroup_of_mem hu, hl u hu⟩)
      (h.each (groupUnits g) _ (fun u hu q => h.forced q (by rwa [unitGroup_of_mem hu]) (hl u hu)) _)
  rw [State.forceGroup_eq]
  unfold State.abandonGo State.queueAll
  split
  · exact h.trans _ _ _ hforced (h.trans _ _ _ (h.group _ g _ hg (GroupRec.quiet_of_log rfl rfl)) (h.queue _ _ _))
  · exact hforced

theorem State.pushTrip_unit (s : State) (c : ChanId) (v : Nat) (u : UnitId) : (s.pushTrip c v).unit u = s.unit u :=
  s.pushRaw_unit c _ u

theorem State.pushTripList_unit (s : State) (g : Group) (u : UnitId) : ((s.pushTripList g).unit u) = s.unit u :=
  State.each_induct (P := fun t => t.unit u = s.unit u) _ _ (fun x _ t ht => (t.pushTrip_unit x.channel x.value u).trans ht) s rfl

theorem Tracks.tripSteps (h : Tracks R K) (s : State) (hg : R.group g)
    (hl : ∀ x ∈ (s.group g).tripList, R.group (chanGroup x.channel) ∧ R.trip (chanGroup x.channel))
    (hu : ∀ u ∈ groupUnits g, (s.unit u).atRest = false → R.unit u) : K s (s.tripSteps g) := by
  have hlist : ((s.setLevel g .trip).group g).tripList = (s.group g).tripList := by rw [State.setLevel_group, if_pos rfl]
  refine h.trans _ _ _ (h.trans _ _ _ (h.setLevel s hg .trip) (h.pushTripList _ g fun x hx => hl x (hlist ▸ hx)))
    (h.forceGroup _ hg fun u hmem => ?_)
  rw [State.pushTripList_unit]
  exact hu u hmem

end

/-! ### The test of a unit -/

/-- R73, R76: the test of a unit ends its phase or changes nothing. -/
theorem State.testUnit_cases (s : State) (u : UnitId) : s.testUnit u = s ∨
    ((s.unit u).phase = .starting ∧ s.RampsDone u ∧ s.testUnit u = s.endStarting u) ∨
    (((s.unit u).phase = .draining ∨ (s.unit u).phase = .isolating) ∧ (s.unit u).timer ≠ none ∧ s.Drained u ∧
      s.testUnit u = s.endDrain u .drainEnd id) := by
  have hdrain (hp : (s.unit u).phase = .draining ∨ (s.unit u).phase = .isolating) : s.testUnit u = s ∨
      (s.unit u).timer ≠ none ∧ s.Drained u ∧ s.testUnit u = s.endDrain u .drainEnd id := by
    rw [State.testUnit_drain hp]
    split
    case isTrue hmet =>
      rw [Bool.and_eq_true, Option.isSome_iff_ne_none, State.drainMet_iff] at hmet
      exact .inr ⟨hmet.1, hmet.2, rfl⟩
    case isFalse => exact .inl rfl
  cases hp : (s.unit u).phase with
  | none => exact .inl (s.testUnit_none u hp)
  | starting =>
    rw [State.testUnit_starting hp]
    split
    case isTrue hramp => exact .inr (.inl ⟨rfl, (s.unitRampDone_iff u).mp hramp, rfl⟩)
    case isFalse => exact .inl rfl
  | draining => exact (hdrain (.inl hp)).imp_right fun h => .inr ⟨.inl rfl, h⟩
  | isolating => exact (hdrain (.inr hp)).imp_right fun h => .inr ⟨.inr rfl, h⟩

theorem State.testUnit_unit_other (s : State) {u v : UnitId} (h : v ≠ u) : (s.testUnit u).unit v = s.unit v :=
  (s.testUnit_within u).unit v h

/-- R71: whether a unit is in speed service does not change by the end of a phase. -/
theorem tracks_speedService (v : UnitId) :
    Tracks .alarms fun s t => (t.unit v).inSpeedService = (s.unit v).inSpeedService where
  refl _ := rfl
  trans _ _ _ h k := k.trans h
  queue _ _ _ := rfl
  group _ _ _ _ _ := rfl
  clear s k _ := by rw [s.setGuard_unit]
  put _ _ _ _ _ _ := rfl
  take _ _ _ _ _ := rfl
  refold s c _ := by rw [State.refold_eq, State.modChan_unit]
  jump _ _ _ _ h := h.elim
  enter _ _ _ h := h.elim
  altered _ _ _ h := h.elim
  calcite _ _ _ h := h.elim
  speed _ _ h := h.elim
  test s u _ := by
    by_cases hv : v = u
    · subst hv
      rcases s.testUnit_cases v with hstay | ⟨hp, _, hend⟩ | ⟨hp, _, _, hend⟩
      · rw [hstay]
      · rw [hend, s.endStarting_unit]
        simp only [UnitRec.inSpeedService, UnitRec.inUse, hp]
        split <;> rfl
      · rw [hend, s.endDrain_unit]
        rcases hp with hp | hp <;> simp [UnitRec.inSpeedService, UnitRec.inUse, hp]
    · rw [s.testUnit_unit_other hv]

/-! ### Drains -/

theorem DrainEnded.atRest (h : DrainEnded e r u) : (r.unit u).atRest = true := by
  rw [h.unit]
  unfold UnitRec.atRest
  split <;> rfl

theorem DrainEnded.later (h : DrainEnded e t u) (hgrow : Grows t r) (hunit : r.unit u = t.unit u) : DrainEnded e r u :=
  ⟨hunit.trans h.unit, fun m hm => ⟨hgrow.told (h.told m hm).1, fun hp => hgrow.told ((h.told m hm).2 hp)⟩⟩

theorem DrainEnded.congr {q : State} (h : DrainEnded q r u) (hunit : q.unit u = e.unit u) (hmap : q.map = e.map) (hms : q.ms = e.ms) :
    DrainEnded e r u := by
  refine ⟨by rw [← hunit]; exact h.unit, fun m hm => ?_⟩
  have htold := h.told m (by rw [State.entry, hmap]; exact hm)
  rwa [hunit, hms] at htold

/-- R12: a unit that comes to rest has its ramps done. -/
theorem State.endDrain_ramps (s : State) (u : UnitId) (why : StateReason) : (s.endDrain u why id).RampsDone u := by
  have hstep (q : State) {st : UState} (hst : st = .standby ∨ st = .isolated) (w : StateReason) : (q.stepTo u st w).RampsDone u := by
    rintro c rfl hm
    rw [State.stepTo_params] at hm
    obtain ⟨happlied, htarget⟩ := q.stepTo_rest c hst w hm
    rw [happlied, htarget]
  intro c hc hm
  unfold State.endDrain at hm ⊢
  dsimp only [id] at hm ⊢
  rw [State.clearPath_chan] at hm ⊢
  split
  case isTrue hp => rw [if_pos hp] at hm; exact hstep _ (.inr rfl) _ c hc hm
  case isFalse hp => rw [if_neg hp] at hm; exact hstep _ (.inl rfl) _ c hc hm

/-- Table 4-6: what the drain condition of a unit asks of its pulse input, or of the speed. -/
def State.FlowEnded (s : State) (u : UnitId) : Prop := ∀ j, drainInput j u → (s.pulse j).quality = .noSignal ∨
  if u = unitTG then s.tsm.quality = .good ∧ s.tsm.speed < (s.unit u).params.drainSpeed
  else (s.pulse j).quality = .good ∧ (s.pulse j).rate < (s.unit u).params.idleFlow

theorem State.FlowEnded.of (h : s.FlowEnded u) (hpi : t.pi = s.pi) (hquality : t.tsm.quality = s.tsm.quality)
    (hspeed : t.tsm.speed = s.tsm.speed) (hparams : (t.unit u).params = (s.unit u).params) : t.FlowEnded u := by
  unfold State.FlowEnded State.pulse
  rw [hpi, hquality, hspeed, hparams]
  exact h

/-- R73, R75: from `s` to `t` nothing that the drain condition of `u` reads but the ramps has changed; a drain goes on, or has
ended with its condition met; and the ramps of a unit at rest stay done. -/
structure DrainTracked (u : UnitId) (s t : State) : Prop where
  ms : t.ms = s.ms
  map : t.map = s.map
  pi : t.pi = s.pi
  quality : t.tsm.quality = s.tsm.quality
  speed : t.tsm.speed = s.tsm.speed
  params : (t.unit u).params = (s.unit u).params
  grows : Grows s t
  drain : (s.unit u).phase = .draining ∨ (s.unit u).phase = .isolating →
    t.unit u = s.unit u ∨ DrainEnded s t u ∧ (s.unit u).timer ≠ none ∧ t.Drained u
  rest : (s.unit u).atRest = true → t.unit u = s.unit u ∧ (s.RampsDone u → t.RampsDone u)

theorem DrainTracked.flow (h : DrainTracked u s t) (k : s.FlowEnded u) : t.FlowEnded u :=
  k.of h.pi h.quality h.speed h.params

theorem DrainTracked.trans (h : DrainTracked u s t) (k : DrainTracked u t r) : DrainTracked u s r where
  ms := k.ms.trans h.ms
  map := k.map.trans h.map
  pi := k.pi.trans h.pi
  quality := k.quality.trans h.quality
  speed := k.speed.trans h.speed
  params := k.params.trans h.params
  grows := h.grows.trans k.grows
  drain hp := by
    rcases h.drain hp with hstay | ⟨hend, htimer, hramps, hflow⟩
    · rcases k.drain (hstay.symm ▸ hp) with hstay' | ⟨hend, htimer, hdrained⟩
      · exact .inl (hstay'.trans hstay)
      · exact .inr ⟨hend.congr hstay h.map h.ms, hstay ▸ htimer, hdrained⟩
    · obtain ⟨hunit, hramps'⟩ := k.rest hend.atRest
      exact .inr ⟨hend.later k.grows hunit, htimer, hramps' hramps, k.flow hflow⟩
  rest hrest := by
    obtain ⟨hunit, hramps⟩ := h.rest hrest
    obtain ⟨hunit', hramps'⟩ := k.rest (hunit.symm ▸ hrest)
    exact ⟨hunit'.trans hunit, fun hdone => hramps' (hramps hdone)⟩

theorem drainTracked_of_unit (hms : t.ms = s.ms) (hmap : t.map = s.map) (hpi : t.pi = s.pi)
    (hquality : t.tsm.quality = s.tsm.quality) (hspeed : t.tsm.speed = s.tsm.speed) (hgrow : Grows s t)
    (hunit : t.unit u = s.unit u) (hramps : (s.unit u).atRest = true → s.RampsDone u → t.RampsDone u) : DrainTracked u s t :=
  ⟨hms, hmap, hpi, hquality, hspeed, by rw [hunit], hgrow, fun _ => .inl hunit, fun hrest => ⟨hunit, hramps hrest⟩⟩

theorem State.RampsDone.of (h : s.RampsDone u) (hchan : ∀ c, (t.chan c).params = (s.chan c).params ∧
    (t.chan c).applied = (s.chan c).applied ∧ (t.chan c).target = (s.chan c).target) : t.RampsDone u := by
  intro c hc hm
  obtain ⟨hparams, happlied, htarget⟩ := hchan c
  rw [happlied, htarget]
  exact h c hc (hparams ▸ hm)

theorem State.modChan_rampsDone {s : State} (c : ChanId) (f : Channel → Channel) (h : s.RampsDone u)
    (hf : (f (s.chan c)).params = (s.chan c).params ∧
      (unitOf c = u → (f (s.chan c)).params.mode ≠ .oneshot → (f (s.chan c)).applied = (f (s.chan c)).target)) :
    (s.modChan c f).RampsDone u := by
  intro d hd hm
  rw [State.chan_modChan] at hm ⊢
  split at hm
  case isTrue hdc => rw [if_pos hdc]; exact hf.2 (hdc ▸ hd) hm
  case isFalse hdc => rw [if_neg hdc]; exact h d hd hm

theorem UnitRec.phase_of_atRest {x : UnitRec} (h : x.atRest = true) : x.phase = .none := by
  unfold UnitRec.atRest at h
  rw [Bool.and_eq_true] at h
  exact of_decide_eq_true h.1

/-- R75: every part of an arrival or of a deactivation tracks the drain of a unit. -/
theorem tracks_drain (u : UnitId) : Tracks .alarms (DrainTracked u) where
  refl s := drainTracked_of_unit rfl rfl rfl rfl rfl (.refl s) rfl fun _ h => h
  trans _ _ _ h k := h.trans k
  queue s who b := drainTracked_of_unit rfl rfl rfl rfl rfl (s.queue_grows who b) rfl fun _ h => h
  group s g f _ _ := drainTracked_of_unit rfl rfl rfl rfl rfl (grows_of_ports rfl) rfl fun _ h => h
  clear s k _ := by cases k <;> exact drainTracked_of_unit rfl rfl rfl rfl rfl (grows_of_ports rfl) rfl fun _ h => h
  put s c x _ _ _ := drainTracked_of_unit rfl rfl rfl rfl rfl (grows_of_ports rfl) rfl fun _ h =>
    s.modChan_rampsDone c _ h ⟨rfl, fun hc hm => h c hc hm⟩
  take s c x _ _ := drainTracked_of_unit rfl rfl rfl rfl rfl (grows_of_ports rfl) rfl fun _ h =>
    s.modChan_rampsDone c _ h ⟨rfl, fun hc hm => h c hc hm⟩
  jump _ _ _ _ h := h.elim
  enter _ _ _ h := h.elim
  altered _ _ _ h := h.elim
  calcite _ _ _ h := h.elim
  speed _ _ h := h.elim
  refold s c _ := by
    rw [State.refold_eq]
    refine drainTracked_of_unit rfl rfl rfl rfl rfl (grows_of_ports rfl) rfl fun hrest h =>
      s.modChan_rampsDone c _ h ⟨(Channel.retarget_spec ..).1, fun hc hm => ?_⟩
    rw [(Channel.retarget_spec ..).1] at hm
    subst hc
    rw [hrest]
    obtain ⟨happlied, htarget⟩ := Channel.retarget_rest (s.chan c) ((s.chan c).fold (s.unit (unitOf c)).foldsFromBase) hm
    rw [happlied, htarget]
  test s v _ := by
    have hreads := (s.testUnit_reacts v)
    have hsame := hreads.same
    have htsm : (s.testUnit v).tsm = s.tsm := (s.testUnit_within v).tsm
    have hparams (w : UnitId) : ((s.testUnit v).unit w).params = (s.unit w).params := (hsame.unit w).1
    by_cases hv : u = v
    · subst hv
      refine ⟨hsame.ms, hsame.map, hsame.pi, by rw [htsm], by rw [htsm], hparams u, hreads.grows, fun hp => ?_, fun hrest => ?_⟩
      · rcases s.testUnit_cases u with hstay | ⟨hstart, _, _⟩ | ⟨_, htimer, ⟨_, hflow⟩, hend⟩
        · exact .inl (by rw [hstay])
        · rw [hstart] at hp
          simp at hp
        · refine .inr ⟨hend ▸ s.endDrain_ended u, htimer, hend ▸ s.endDrain_ramps u _, ?_⟩
          exact State.FlowEnded.of hflow hsame.pi (by rw [htsm]) (by rw [htsm]) (hparams u)
      · rw [s.testUnit_none u (UnitRec.phase_of_atRest hrest)]
        exact ⟨rfl, id⟩
    · refine drainTracked_of_unit hsame.ms hsame.map hsame.pi (by rw [htsm]) (by rw [htsm]) hreads.grows
        (s.testUnit_unit_other hv) fun _ h c hc hm => ?_
      have hchan := (s.testUnit_within v).chan c (by rw [hc]; exact hv)
      rw [hchan] at hm ⊢
      exact h c hc hm

end Sys2Proof.Machine
end

section
/-! Pulse inputs: their entry to NO_SIGNAL, and their edges (R38 to R41, R113 to R118). -/

namespace Sys2Proof.Machine

variable {s t r e : State} {u : UnitId} {j : PulseId}

/-! ### The drain test of a pulse input (R41, R75) -/

theorem pulseUnit_iff (j : PulseId) (u : UnitId) : pulseUnit j = some u ↔ drainInput j u := by
  unfold drainInput
  revert j u
  decide

theorem State.testPulse_eq (s : State) (h : drainInput j u) : s.testPulse j = s.testUnit u := by
  unfold State.testPulse
  rw [(pulseUnit_iff j u).mpr h]

theorem State.testPulse_cases (s : State) (j : PulseId) :
    (∃ u, drainInput j u ∧ s.testPulse j = s.testUnit u) ∨ s.testPulse j = s := by
  unfold State.testPulse
  split
  case h_1 u hu => exact .inl ⟨u, (pulseUnit_iff j u).mp hu, rfl⟩
  case h_2 => exact .inr rfl

theorem drainInput_unique {v : UnitId} (h : drainInput j u) (k : drainInput j v) : u = v :=
  Option.some.inj (((pulseUnit_iff j u).mpr h).symm.trans ((pulseUnit_iff j v).mpr k))

theorem State.testPulse_reacts (s : State) (j : PulseId) : Reacts s (s.testPulse j) := by
  rcases s.testPulse_cases j with ⟨u, _, h⟩ | h
  · exact h ▸ s.testUnit_reacts u
  · rw [h]

theorem State.testPulse_goes (s : State) (j : PulseId) : Goes s (s.testPulse j) := by
  rcases s.testPulse_cases j with ⟨u, _, h⟩ | h
  · exact h ▸ s.testUnit_goes u
  · rw [h]
    exact .refl s

theorem State.testPulse_logsKeep {T : Group → Cause → Prop} (s : State) (j : PulseId) : LogsKeep T s (s.testPulse j) := by
  rcases s.testPulse_cases j with ⟨u, _, h⟩ | h
  · exact h ▸ s.testUnit_logsKeep u
  · rw [h]
    exact .refl s

theorem State.testPulse_tsm (s : State) (j : PulseId) : (s.testPulse j).tsm = s.tsm := by
  rcases s.testPulse_cases j with ⟨u, _, h⟩ | h
  · exact h ▸ (s.testUnit_within u).tsm
  · rw [h]

theorem State.testPulse_settled (s : State) (j : PulseId) : Settled s (s.testPulse j) (fun _ => False) := by
  rcases s.testPulse_cases j with ⟨u, _, h⟩ | h
  · exact h ▸ (s.testUnit_calm u _).settled nofun nofun (s.testUnit_go u)
  · exact h.symm ▸ (Calm.refl s _).settled nofun nofun (Goes.refl s).go

theorem State.testPulse_unit (s : State) (h : ¬drainInput j u) : (s.testPulse j).unit u = s.unit u := by
  rcases s.testPulse_cases j with ⟨v, hv, heq⟩ | heq
  · rw [heq]
    exact s.testUnit_unit_other fun huv => h (huv ▸ hv)
  · rw [heq]

/-- R75: after its test a drain that goes on with its timer running does not meet its condition. -/
theorem State.testUnit_drains (s : State) {u : UnitId}
    (h : ((s.testUnit u).unit u).phase = .draining ∨ ((s.testUnit u).unit u).phase = .isolating)
    (htimer : ((s.testUnit u).unit u).timer ≠ none) : ¬(s.testUnit u).Drained u := by
  rcases s.testUnit_cases u with hstay | ⟨_, _, hend⟩ | ⟨_, _, _, hend⟩
  · rw [hstay] at h htimer ⊢
    intro hdrained
    have hmet : ((s.unit u).timer.isSome && s.drainMet u) = true := by
      rw [Bool.and_eq_true, Option.isSome_iff_ne_none, State.drainMet_iff]
      exact ⟨htimer, hdrained⟩
    have hend := State.testUnit_drain h
    rw [if_pos hmet, hstay] at hend
    have hunit := s.endDrain_unit u .drainEnd
    rw [← hend] at hunit
    rw [hunit] at h
    simp at h
  · rw [hend, s.endStarting_unit] at h
    simp at h
  · rw [hend, s.endDrain_unit] at h
    simp at h

/-- R75: after what was tracked since `e` and a test, a drain has ended exactly where its condition is met. -/
theorem DrainTracked.outcome {q : State} (h : DrainTracked u e (q.testUnit u))
    (hp : (e.unit u).phase = .draining ∨ (e.unit u).phase = .isolating) :
    ((e.unit u).timer ≠ none → (q.testUnit u).Drained u → DrainEnded e (q.testUnit u) u) ∧
    ((e.unit u).timer = none ∨ ¬(q.testUnit u).Drained u → (q.testUnit u).unit u = e.unit u) := by
  rcases h.drain hp with hstay | ⟨hend, htimer, hdrained⟩
  · exact ⟨fun htimer hdrained => absurd hdrained (q.testUnit_drains (hstay.symm ▸ hp) (hstay.symm ▸ htimer)), fun _ => hstay⟩
  · exact ⟨fun _ _ => hend, fun hno => absurd hdrained (hno.resolve_left htimer)⟩

/-- R41, R75: so it is after the test of the input that the drain condition reads. -/
theorem State.testPulse_drain {q : State} (h : DrainTracked u e q) (hj : drainInput j u)
    (hp : (e.unit u).phase = .draining ∨ (e.unit u).phase = .isolating) :
    ((e.unit u).timer ≠ none → (q.testPulse j).Drained u → DrainEnded e (q.testPulse j) u) ∧
    ((e.unit u).timer = none ∨ ¬(q.testPulse j).Drained u → (q.testPulse j).unit u = e.unit u) := by
  rw [q.testPulse_eq hj]
  exact (h.trans ((tracks_drain u).test q u trivial)).outcome hp

/-! ### Entry to NO_SIGNAL (R40, R116, R118) -/

theorem drainTracked_modTsm (s : State) (u : UnitId) (f : Tsm → Tsm) (hquality : (f s.tsm).quality = s.tsm.quality)
    (hspeed : (f s.tsm).speed = s.tsm.speed) : DrainTracked u s (s.modTsm f) :=
  drainTracked_of_unit rfl rfl rfl hquality hspeed (grows_of_ports rfl) rfl fun _ h => h

theorem State.modTsm_goes (s : State) (f : Tsm → Tsm) : Goes s (s.modTsm f) := goes_of_eq rfl rfl rfl (grows_of_ports rfl)

/-- What the speed monitor does to the rest of the part: causes of the Turbine group end, or SPEED_LOST arrives there. -/
structure SpeedActs (e t : State) : Prop where
  reacts : Reacts e t
  goes : Goes e t
  drain : DrainTracked unitTG e t
  service : (t.unit unitTG).inSpeedService = (e.unit unitTG).inSpeedService

theorem SpeedActs.refl (s : State) : SpeedActs s s := ⟨.refl, .refl s, (tracks_drain _).refl s, rfl⟩

theorem SpeedActs.trans (h : SpeedActs e t) (k : SpeedActs t r) : SpeedActs e r :=
  ⟨h.reacts.trans k.reacts, h.goes.trans k.goes, h.drain.trans k.drain, k.service.trans h.service⟩

theorem SpeedActs.tsm (s : State) (f : Tsm → Tsm) (hparams : ∀ x, (f x).params = x.params)
    (hquality : (f s.tsm).quality = s.tsm.quality) (hspeed : (f s.tsm).speed = s.tsm.speed) : SpeedActs s (s.modTsm f) :=
  ⟨(Prim.tsm f hparams).reacts, s.modTsm_goes f, drainTracked_modTsm s _ f hquality hspeed, rfl⟩

theorem SpeedActs.deactivate (s : State) (g : Group) (c : Cause) : SpeedActs s (s.deactivate g c) :=
  ⟨s.deactivate_reacts g c, s.deactivate_goes g c, (tracks_drain _).deactivate s trivial c, (tracks_speedService _).deactivate s trivial c⟩

theorem SpeedActs.loseSpeed (s : State) : SpeedActs s s.loseSpeed := by
  refine (SpeedActs.tsm s (fun x => { x with speedLost := true }) (fun _ => rfl) rfl rfl).trans ?_
  exact ⟨State.arriveAlarm_reacts _ _ _ rfl rfl, State.arriveAlarm_goes _ _ _, (tracks_drain _).arriveAlarm _ trivial trivial,
    (tracks_speedService _).arriveAlarm _ trivial trivial⟩

theorem State.loseSpeed_tsm (s : State) : s.loseSpeed.tsm = { s.tsm with speedLost := true } :=
  untouched_tsm.arriveAlarm _ _ _

theorem State.loseSpeed_holds (s : State) : (s.loseSpeed.group .turbine).Holds .speedLost :=
  (State.arriveAlarm_holds (s.modTsm fun x => { x with speedLost := true }) .turbine rfl).1

theorem State.stopOverspeed_acts (s : State) : SpeedActs s s.stopOverspeed := by
  have htsm := SpeedActs.tsm s (fun x => { x with overspeed := false, run := 0 }) (fun _ => rfl) rfl rfl
  unfold State.stopOverspeed
  dsimp only
  split
  · exact htsm.trans (SpeedActs.deactivate _ _ _)
  · exact htsm

/-- R116: OVERSPEED ends at the entry of PI11 to NO_SIGNAL. -/
theorem State.stopOverspeed_spec (s : State) : s.stopOverspeed.tsm = { s.tsm with overspeed := false, run := 0 } ∧
    (s.tsm.overspeed = true → s.LogsOk → ¬(s.stopOverspeed.group .turbine).Holds .overspeed) := by
  unfold State.stopOverspeed
  dsimp only
  split
  case isTrue =>
    exact ⟨untouched_tsm.deactivate _ _ _, fun _ hlogs =>
      State.deactivate_not_holds (s.modTsm fun x => { x with overspeed := false, run := 0 }) .turbine .overspeed hlogs⟩
  case isFalse hno => exact ⟨rfl, fun h => absurd h hno⟩

/-- R116, R118: SPEED_LOST arrives where TG is in speed service. -/
def State.loseInService (s : State) : State := if (s.unit unitTG).inSpeedService then s.loseSpeed else s

theorem State.loseInService_acts (s : State) : SpeedActs s s.loseInService := by
  unfold State.loseInService
  split
  · exact .loseSpeed s
  · exact .refl s

theorem State.loseInService_true (h : (s.unit unitTG).inSpeedService = true) : s.loseInService = s.loseSpeed := if_pos h

theorem State.loseInService_false (h : (s.unit unitTG).inSpeedService = false) : s.loseInService = s := by
  unfold State.loseInService
  rw [h]
  rfl

theorem State.loseInService_logsKeep (s : State) : LogsKeep (fun g c => onlyAt .turbine .speedLost g c ∨ c.isGuardLost) s s.loseInService := by
  unfold State.loseInService
  split
  · exact LogsKeep.trans (t := s.modTsm fun x => { x with speedLost := true }) (logsKeep_of_groups rfl)
      (State.arriveAlarm_logsKeep _ .turbine .speedLost)
  · exact .refl s

/-- R40, R113: the state in which OVERSPEED and SPEED_LOST are taken up at the entry of PI11 to NO_SIGNAL. -/
def State.speedStopped (s : State) : State := s.modTsm fun x => { x with speed := 0, quality := .noSignal }

theorem State.speedLoss_eq (s : State) : s.speedLoss = s.speedStopped.stopOverspeed.loseInService := rfl

theorem State.speedLoss_acts (s : State) : SpeedActs s.speedStopped s.speedLoss :=
  (State.stopOverspeed_acts _).trans (State.loseInService_acts _)

theorem UnitRec.inSpeedService_iff (x : UnitRec) : x.inSpeedService = true ↔
    (x.phase = .none ∧ (x.state = .running ∨ x.state = .paused)) ∨ x.phase = .starting := by
  simp [UnitRec.inSpeedService, UnitRec.inUse]

/-- R113, R116, R118: the speed monitor at the entry of PI11 to NO_SIGNAL. -/
theorem State.speedLoss_spec (s : State) :
    ((s.unit unitTG).inSpeedService = true → s.speedLoss.tsm = { s.tsm with
      speed := 0, quality := .noSignal, overspeed := false, run := 0, speedLost := true } ∧
      (s.speedLoss.group .turbine).Holds .speedLost) ∧
    ((s.unit unitTG).inSpeedService = false → s.speedLoss.tsm = { s.tsm with
      speed := 0, quality := .noSignal, overspeed := false, run := 0 }) ∧
    (s.tsm.overspeed = true → s.LogsOk → ¬(s.speedLoss.group .turbine).Holds .overspeed) := by
  obtain ⟨htsm, hover⟩ := s.speedStopped.stopOverspeed_spec
  have hservice := s.speedStopped.stopOverspeed_acts.service
  have hkeep := (s.speedStopped.stopOverspeed).loseInService_logsKeep
  rw [State.speedLoss_eq]
  generalize s.speedStopped.stopOverspeed = q at *
  refine ⟨fun h => ?_, fun h => ?_, fun hactive hlogs hholds => ?_⟩
  · rw [State.loseInService_true (hservice.trans h), State.loseSpeed_tsm, htsm]
    exact ⟨rfl, q.loseSpeed_holds⟩
  · rw [State.loseInService_false (hservice.trans h), htsm]
    rfl
  · exact hover hactive hlogs ((hkeep .turbine).only .overspeed (by simp [onlyAt, Cause.isGuardLost]) hholds)

/-! ### The state after (R40, R41) -/

/-- The drains and GOs at the end of what a pulse input sets off, from the state `e` in which the input has changed. -/
theorem State.testPulse_since {q : State} (hgoes : Goes e q) (hdrain : ∀ u, drainInput j u → DrainTracked u e q) :
    (∀ u, drainInput j u → (e.unit u).phase = .draining ∨ (e.unit u).phase = .isolating →
      ((e.unit u).timer ≠ none → (q.testPulse j).Drained u → DrainEnded e (q.testPulse j) u) ∧
      ((e.unit u).timer = none ∨ ¬(q.testPulse j).Drained u → (q.testPulse j).unit u = e.unit u)) ∧
    GoEnds e (q.testPulse j) :=
  ⟨fun u hj hp => State.testPulse_drain (hdrain u hj) hj hp, (hgoes.trans (q.testPulse_goes j)).go⟩

theorem drainInput_speed (h : drainInput 11 u) : u = unitTG := drainInput_unique h (.inr (.inr ⟨rfl, rfl⟩))

theorem SpeedActs.tracked (h : SpeedActs e t) : ∀ u, drainInput 11 u → DrainTracked u e t := fun _ hu =>
  drainInput_speed hu ▸ h.drain

/-- R40: what the entry of an input to NO_SIGNAL leaves before the drain test. -/
def State.pulseLost (s : State) (j : PulseId) : State :=
  if j = piSpeed then (s.modPulse j Pulse.lose).speedLoss else s.modPulse j Pulse.lose

theorem State.losePulse_eq (s : State) (j : PulseId) : s.losePulse j = (s.pulseLost j).testPulse j := rfl

theorem State.pulseLost_speed (s : State) : s.pulseLost 11 = (s.modPulse 11 Pulse.lose).speedLoss := if_pos rfl

theorem State.pulseLost_other (s : State) (h : j ≠ 11) : s.pulseLost j = s.modPulse j Pulse.lose := if_neg h

theorem State.pulseLost_same (s : State) (j : PulseId) : Same (s.modPulse j Pulse.lose) (s.pulseLost j) := by
  by_cases hj : j = 11
  · subst hj
    rw [s.pulseLost_speed]
    exact (Raw.tsm (fun x => { x with speed := 0, quality := .noSignal }) rfl).raws.same.trans
      (State.speedLoss_acts _).reacts.same
  · rw [s.pulseLost_other hj]
    exact .refl _

theorem State.losePulse_same (s : State) (j : PulseId) : Same (s.modPulse j Pulse.lose) (s.losePulse j) :=
  (s.pulseLost_same j).trans (State.testPulse_reacts _ j).same

theorem State.losePulse_since (s : State) (j : PulseId) :
    (∀ u, drainInput j u → (s.unit u).phase = .draining ∨ (s.unit u).phase = .isolating →
      ((s.unit u).timer ≠ none → (s.losePulse j).Drained u → DrainEnded s (s.losePulse j) u) ∧
      ((s.unit u).timer = none ∨ ¬(s.losePulse j).Drained u → (s.losePulse j).unit u = s.unit u)) ∧
    GoEnds s (s.losePulse j) := by
  rw [s.losePulse_eq j]
  by_cases hj : j = 11
  · subst hj
    rw [s.pulseLost_speed]
    have hacts := (s.modPulse 11 Pulse.lose).speedLoss_acts
    have hgo := ((s.modPulse 11 Pulse.lose).modTsm_goes fun x => { x with speed := 0, quality := .noSignal }).trans hacts.goes
    obtain ⟨hdrain, -⟩ := State.testPulse_since hacts.goes hacts.tracked
    refine ⟨fun u hu hp => ?_, (hgo.trans (State.testPulse_goes _ _)).go⟩
    obtain ⟨hend, hstay⟩ := hdrain u hu hp
    exact ⟨fun htimer hdrained => (hend htimer hdrained).congr rfl rfl rfl, hstay⟩
  · rw [s.pulseLost_other hj]
    obtain ⟨hdrain, hgo⟩ := State.testPulse_since (e := s.modPulse j Pulse.lose) (j := j) (.refl _) fun u _ => (tracks_drain u).refl _
    refine ⟨fun u hu hp => ?_, hgo⟩
    obtain ⟨hend, hstay⟩ := hdrain u hu hp
    exact ⟨fun htimer hdrained => (hend htimer hdrained).congr rfl rfl rfl, hstay⟩

theorem State.losePulse_other (s : State) (hj : j ≠ 11) : Same (s.modPulse j Pulse.lose) (s.losePulse j) ∧
    Settled (s.modPulse j Pulse.lose) (s.losePulse j) (fun _ => False) ∧
    ∀ u, ¬drainInput j u → (s.losePulse j).unit u = s.unit u := by
  refine ⟨s.losePulse_same j, ?_, fun u hu => ?_⟩
  all_goals rw [s.losePulse_eq j, s.pulseLost_other hj]
  · exact State.testPulse_settled _ j
  · exact State.testPulse_unit _ hu

theorem State.losePulse_speed (s : State) :
    ((s.unit unitTG).inSpeedService = true → (s.losePulse 11).tsm = { s.tsm with
      speed := 0, quality := .noSignal, overspeed := false, run := 0, speedLost := true } ∧
      ((s.losePulse 11).group .turbine).Holds .speedLost) ∧
    ((s.unit unitTG).inSpeedService = false → (s.losePulse 11).tsm = { s.tsm with
      speed := 0, quality := .noSignal, overspeed := false, run := 0 }) ∧
    (s.tsm.overspeed = true → s.LogsOk → ¬((s.losePulse 11).group .turbine).Holds .overspeed) := by
  obtain ⟨hin, hout, hover⟩ := (s.modPulse 11 Pulse.lose).speedLoss_spec
  have hkeep : LogsKeep (fun _ _ => False) (s.pulseLost 11) (s.losePulse 11) := State.testPulse_logsKeep _ 11
  have htsm : (s.losePulse 11).tsm = (s.pulseLost 11).tsm := State.testPulse_tsm _ 11
  rw [htsm]
  rw [s.pulseLost_speed] at hkeep ⊢
  refine ⟨fun h => ?_, hout, fun hactive hlogs hholds => hover hactive hlogs ((hkeep .turbine).only _ not_false hholds)⟩
  obtain ⟨htsm, hholds⟩ := hin h
  exact ⟨htsm, (hkeep .turbine).holds not_false hholds⟩

/-- R40, R41, R113, R116, R118: an input has entered NO_SIGNAL. -/
theorem State.losePulse_lost (s : State) (j : PulseId) : ∃ r : State, Host.Outcome.next (s.losePulse j) = (.next r : Out) ∧
    r.pulse j = (s.pulse j).lose ∧
    (∀ k, k ≠ j → r.pulse k = s.pulse k) ∧ r.map = s.map ∧ r.hmt = s.hmt ∧ r.di = s.di ∧ r.ai = s.ai ∧
    (∀ u, drainInput j u → (s.unit u).phase = .draining ∨ (s.unit u).phase = .isolating →
      ((s.unit u).timer ≠ none → r.Drained u → DrainEnded s r u) ∧
      ((s.unit u).timer = none ∨ ¬r.Drained u → r.unit u = s.unit u)) ∧ GoEnds s r ∧
    (j ≠ 11 → Same { s with pi := r.pi } r ∧ Settled s r (fun _ => False) ∧ ∀ u, ¬drainInput j u → r.unit u = s.unit u) ∧
    (j = 11 →
      let u := s.unit unitTG
      let service := (u.phase = .none ∧ (u.state = .running ∨ u.state = .paused)) ∨ u.phase = .starting
      (service → r.tsm = { s.tsm with
        speed := 0, quality := .noSignal, overspeed := false, run := 0, speedLost := true } ∧
        (r.group .turbine).Holds .speedLost) ∧
      (¬service → r.tsm = { s.tsm with speed := 0, quality := .noSignal, overspeed := false, run := 0 }) ∧
      (s.tsm.overspeed = true → s.LogsOk → ¬(r.group .turbine).Holds .overspeed)) := by
  have hsame := s.losePulse_same j
  have hpulse (k : PulseId) : (s.losePulse j).pulse k = (s.modPulse j Pulse.lose).pulse k := by
    unfold State.pulse
    rw [hsame.pi]
  obtain ⟨hdrain, hgo⟩ := s.losePulse_since j
  refine ⟨_, rfl, ?_, fun k hk => ?_, hsame.map, hsame.hmt, hsame.di, hsame.ai, hdrain, hgo, fun hj => ?_, ?_⟩
  · rw [hpulse, State.pulse_modPulse, if_pos rfl]
  · rw [hpulse, State.pulse_modPulse, if_neg hk]
  · obtain ⟨-, hset, hunit⟩ := s.losePulse_other hj
    exact ⟨by rw [hsame.pi]; exact hsame,
      ⟨hset.swu, hset.tsm, hset.unit, hset.group, hset.chan, hset.stack, hset.target, hset.oneShot, hset.go, hset.queue, hset.quiet⟩,
      hunit⟩
  · rintro rfl u service
    obtain ⟨hin, hout, hover⟩ := s.losePulse_speed
    have hiff : (s.unit unitTG).inSpeedService = true ↔ service := UnitRec.inSpeedService_iff _
    exact ⟨fun h => hin (hiff.mpr h), fun h => hout (by rwa [← hiff, Bool.not_eq_true] at h), hover⟩

/-- Settles O55. -/
theorem signalLost : Obligations.SignalLost := by
  unfold Obligations.SignalLost
  intro s j x lost
  have hlost := s.losePulse_lost j
  constructor
  · split
    case isTrue h =>
      refine congrArg Host.Outcome.next (if_neg fun ⟨htimer, hq⟩ => ?_)
      exact h.elim (fun hnone => by rw [hnone] at htimer; exact absurd htimer (by decide)) hq
    case isFalse h =>
      rw [not_or] at h
      have hrun : exec (.signalTimeout j) s = .next (s.losePulse j) :=
        congrArg Host.Outcome.next (if_pos ⟨Option.isSome_iff_ne_none.mpr h.1, h.2⟩)
      rw [hrun]
      exact hlost
  · split
    case isTrue h =>
      refine congrArg Host.Outcome.next (if_neg fun ⟨hrun, hq⟩ => ?_)
      exact h.elim (fun hno => Bool.false_ne_true (hno.symm.trans hrun)) hq
    case isFalse h =>
      rw [not_or] at h
      have hrun : exec (.periodCounterOverflow j) s = .next (s.losePulse j) :=
        congrArg Host.Outcome.next (if_pos ⟨Bool.not_eq_false _ ▸ h.1, h.2⟩)
      rw [hrun]
      exact hlost

end Sys2Proof.Machine
end

section
/-! Active edges of the pulse inputs (R38, R39, R41), and the speed monitor (R113, R115, R118). -/

namespace Sys2Proof.Machine

variable {s t r e : State} {u : UnitId} {j : PulseId} {g : Group} {c : Cause}

/-! ### Relations that trips keep -/

/-- Everything, with the causes that become active. -/
abbrev Reach.all (P : Group → Cause → Prop) : Reach := ⟨fun _ => True, fun _ => True, fun _ => True, P⟩

section
variable {K : State → State → Prop} {P : Group → Cause → Prop}

theorem Tracks.anyTripSteps (h : Tracks (.all P) K) (s : State) (g : Group) : K s (s.tripSteps g) :=
  h.tripSteps s trivial (fun _ _ => ⟨trivial, trivial⟩) fun _ _ _ => trivial

variable (hP : ∀ g c, c.isPropagated → P g c)
include hP

theorem Tracks.propagateAlarm (h : Tracks (.all P) K) (s : State) (g : Group) : K s (s.propagateAlarm g) := by
  cases g with
  | field => exact h.refl s
  | turbine => exact h.arriveAlarm s trivial (hP _ _ trivial)
  | heat => exact h.arriveAlarm s trivial (hP _ _ trivial)

theorem Tracks.tripAlarm (h : Tracks (.all P) K) (s : State) (g : Group) : K s (s.tripAlarm g) :=
  h.trans _ _ _ (h.anyTripSteps s g) (h.propagateAlarm hP _ g)

omit hP in
theorem Tracks.arriveWith (h : Tracks (.all P) K) (s : State) {f : State → State} (hf : ∀ q, K q (f q)) (g : Group) (c : Cause)
    (hc : P g c) : K s (s.arriveWith f g c) := by
  unfold State.arriveWith
  split
  · exact h.arriveAlarm s trivial hc
  · have hrecord : K s (s.record g c .trip) := h.recordWith s trivial c .trip false (GroupRec.arrive_quiet _ _ _ hc)
    refine h.trans _ _ _ ?_ (h.relevel _ trivial)
    split
    · exact hrecord
    · exact h.trans _ _ _ hrecord (hf _)

theorem Tracks.propagate (h : Tracks (.all P) K) (s : State) (g : Group) : K s (s.propagate g) := by
  unfold State.propagate
  split
  · exact h.trans _ _ _ (h.arriveWith s (fun q => h.tripAlarm hP q .turbine) .turbine .fieldTripped (hP _ _ trivial))
      (h.arriveWith _ (fun q => h.tripAlarm hP q .heat) .heat .fieldTripped (hP _ _ trivial))
  · exact h.propagateAlarm hP s g

theorem Tracks.arrive (h : Tracks (.all P) K) (s : State) (g : Group) (c : Cause) (hc : P g c) : K s (s.arrive g c) :=
  h.arriveWith s (fun q => h.trans _ _ _ (h.anyTripSteps q g) (h.propagate hP _ g)) g c hc

end

/-- Where SPEED_LOST is not active, the speed monitor stays. -/
def TsmKept (s t : State) : Prop := s.tsm.speedLost = false → t.tsm = s.tsm

/-- R118: where SPEED_LOST is not active, no arrival moves the speed monitor. -/
theorem tracks_tsm (P : Group → Cause → Prop) : Tracks (.all P) TsmKept where
  refl _ _ := rfl
  trans s t r h k hs := (k (by rw [h hs]; exact hs)).trans (h hs)
  queue _ _ _ _ := rfl
  group _ _ _ _ _ _ := rfl
  clear s k _ _ := by cases k <;> rfl
  put _ _ _ _ _ _ _ := rfl
  take _ _ _ _ _ _ := rfl
  refold _ _ _ _ := rfl
  test s u _ _ := (s.testUnit_within u).tsm
  jump _ _ _ _ _ _ := rfl
  enter _ _ _ _ _ _ := rfl
  altered _ _ _ _ _ := rfl
  calcite _ _ _ _ _ := rfl
  speed s _ _ hs := by
    have heta (x : Tsm) (h : x.speedLost = false) : { x with speedLost := false } = x := by rw [← h]
    exact heta s.tsm hs

theorem State.arrive_tsm (s : State) (g : Group) (c : Cause) (h : s.tsm.speedLost = false) : (s.arrive g c).tsm = s.tsm :=
  (tracks_tsm fun _ _ => True).arrive (fun _ _ _ => trivial) s g c trivial h

/-- No cause but those of `P` becomes active from `s` to `t`. -/
def QuietBut (P : Group → Cause → Prop) (s t : State) : Prop := ∀ g c, (t.group g).Holds c → (s.group g).Holds c ∨ P g c

/-- Only the causes that arrive within a reach become active. -/
theorem tracks_quiet (R : Reach) : Tracks R (QuietBut R.arrives) where
  refl _ _ _ h := .inl h
  trans _ _ _ h k g c hc := (k g c hc).elim (h g c) .inr
  queue _ _ _ _ _ h := .inl h
  group s g f _ hf k c h := by
    rw [State.group_modGroup] at h
    split at h
    case isTrue hk => exact hk ▸ hf c h
    case isFalse => exact .inl h
  clear s k _ _ _ h := by cases k <;> exact .inl h
  put _ _ _ _ _ _ _ _ h := .inl h
  take _ _ _ _ _ _ _ h := .inl h
  refold _ _ _ _ _ h := .inl h
  test s u _ g c h := by
    rw [(s.testUnit_within u).group g] at h
    exact .inl h
  jump _ _ _ _ _ _ _ h := .inl h
  enter _ _ _ _ _ _ _ h := .inl h
  altered _ _ _ _ _ _ h := .inl h
  calcite _ _ _ _ _ _ h := .inl h
  speed _ _ _ _ _ h := .inl h

/-- A cause that is not propagated becomes active by its own arrival alone. -/
theorem State.handOver_quiet (s : State) (g : Group) {c d : Cause} (hdc : d ≠ c) (hd : ¬d.isPropagated) {k : Group} (b : Bool)
    (h : ((s.handOver g c b).group k).Holds d) : (s.group k).Holds d := by
  have htracks := tracks_quiet (.all fun _ x => x ≠ d)
  have hprop (k : Group) (x : Cause) (hx : x.isPropagated) : x ≠ d := fun heq => hd (heq ▸ hx)
  have hboth : QuietBut (fun _ x => x ≠ d) s (s.handOver g c b) := by
    unfold State.handOver
    split
    · exact htracks.arrive hprop s g c hdc.symm
    · exact htracks.deactivate s trivial c
  exact (hboth k d h).resolve_right fun hne => hne rfl

/-! ### A period on PI11 -/

theorem State.regainSpeed_acts (s : State) : SpeedActs s s.regainSpeed := by
  unfold State.regainSpeed
  split
  · exact (SpeedActs.tsm s (fun x => { x with speedLost := false }) (fun _ => rfl) rfl rfl).trans (.deactivate _ _ _)
  · exact .refl s

/-- R115: a period goes toward a turn of OVERSPEED. -/
def Tsm.turns (x : Tsm) (period : Nat) : Prop :=
  if x.overspeed = true then ¬period ≤ x.params.tripPeriod else period ≤ x.params.tripPeriod

theorem Tsm.turns_iff (x : Tsm) (period : Nat) :
    x.turns period ↔ x.overspeed ≠ decide (period ≤ x.params.tripPeriod) := by
  unfold Tsm.turns
  cases x.overspeed <;> simp

/-- Table 6-1: OVERSPEED turns at the third period in a row that goes toward it. -/
theorem overspeedNext_cases (x : Tsm) (period : Nat) :
    (¬x.turns period → overspeedNext x.overspeed x.run (decide (period ≤ x.params.tripPeriod)) = (x.overspeed, 0)) ∧
    (x.turns period → x.run < 2 →
      overspeedNext x.overspeed x.run (decide (period ≤ x.params.tripPeriod)) = (x.overspeed, x.run + 1)) ∧
    (x.turns period → 2 ≤ x.run →
      overspeedNext x.overspeed x.run (decide (period ≤ x.params.tripPeriod)) = (!x.overspeed, 0)) := by
  rw [Tsm.turns_iff]
  unfold overspeedNext
  refine ⟨fun h => if_pos (not_not.mp h), fun h hrun => (if_neg h).trans (if_pos hrun), fun h hrun => ?_⟩
  rw [if_neg h, if_neg (Nat.not_lt.mpr hrun), Bool.eq_not_iff.mpr h, Bool.not_not]

/-- R115: OVERSPEED and its counter as a period leaves them. -/
def State.counted (s : State) (next : Bool × Nat) : State := s.modTsm fun x => { x with overspeed := next.1, run := next.2 }

theorem State.comparePeriod_eq (s : State) (period : Nat) :
    let next := overspeedNext s.tsm.overspeed s.tsm.run (decide (period ≤ s.tsm.params.tripPeriod))
    s.comparePeriod period = if next.1 = s.tsm.overspeed then s.counted next
      else (s.counted next).handOver .turbine .overspeed next.1 := rfl

theorem State.comparePeriod_keep (s : State) {period : Nat} (h : ¬s.tsm.turns period) :
    s.comparePeriod period = s.counted (s.tsm.overspeed, 0) := by
  rw [State.comparePeriod_eq, (overspeedNext_cases s.tsm period).1 h, if_pos rfl]

theorem State.comparePeriod_count (s : State) {period : Nat} (h : s.tsm.turns period) (hrun : s.tsm.run < 2) :
    s.comparePeriod period = s.counted (s.tsm.overspeed, s.tsm.run + 1) := by
  rw [State.comparePeriod_eq, (overspeedNext_cases s.tsm period).2.1 h hrun, if_pos rfl]

theorem State.comparePeriod_turn (s : State) {period : Nat} (h : s.tsm.turns period) (hrun : 2 ≤ s.tsm.run) :
    s.comparePeriod period = (s.counted (!s.tsm.overspeed, 0)).handOver .turbine .overspeed (!s.tsm.overspeed) := by
  rw [State.comparePeriod_eq, (overspeedNext_cases s.tsm period).2.2 h hrun, if_neg (by simp)]

theorem State.comparePeriod_stop (s : State) {period : Nat} (h : s.tsm.turns period) (hrun : 2 ≤ s.tsm.run)
    (hover : s.tsm.overspeed = true) :
    s.comparePeriod period = (s.counted (false, 0)).deactivate .turbine .overspeed := by
  rw [s.comparePeriod_turn h hrun, hover]
  rfl

theorem State.comparePeriod_trip (s : State) {period : Nat} (h : s.tsm.turns period) (hrun : 2 ≤ s.tsm.run)
    (hover : s.tsm.overspeed = false) :
    s.comparePeriod period = (s.counted (true, 0)).arrive .turbine .overspeed := by
  rw [s.comparePeriod_turn h hrun, hover]
  rfl

theorem State.counted_acts (s : State) (next : Bool × Nat) : SpeedActs s (s.counted next) :=
  .tsm s (fun x => { x with overspeed := next.1, run := next.2 }) (fun _ => rfl) rfl rfl

/-- R115: the comparison ends OVERSPEED, or trips the Turbine group, or moves the speed monitor alone. -/
theorem State.comparePeriod_acts (s : State) (period : Nat) :
    SpeedActs s (s.comparePeriod period) ∨ ((s.comparePeriod period).group .turbine).level = .trip := by
  by_cases h : s.tsm.turns period
  · by_cases hrun : s.tsm.run < 2
    · exact .inl (s.comparePeriod_count h hrun ▸ s.counted_acts _)
    · rw [s.comparePeriod_turn h (Nat.not_lt.mp hrun)]
      cases s.tsm.overspeed with
      | true => exact .inl ((s.counted_acts _).trans (.deactivate _ _ _))
      | false =>
        exact .inr ((State.arrive_holds (s.counted (true, 0)) .turbine (c := .overspeed) rfl id id).2 rfl)
  · exact .inl (s.comparePeriod_keep h ▸ s.counted_acts _)

/-- R113, R118: the speed monitor with a period, before its comparison. -/
def State.speedTaken (s : State) (period : Nat) : State := (s.setSpeed (s.pulse piSpeed).params.k period).regainSpeed

theorem State.speedTaken_tsm (s : State) (period : Nat) : (s.speedTaken period).tsm =
    { s.tsm with speed := roundHalfUp (s.pulse piSpeed).params.k period, quality := .good, speedLost := false } :=
  (State.regainSpeed_spec _).1

theorem State.speedTaken_acts (s : State) (period : Nat) :
    SpeedActs (s.setSpeed (s.pulse piSpeed).params.k period) (s.speedTaken period) := State.regainSpeed_acts _

theorem State.speedPeriod_eq (s : State) (period : Nat) : s.speedPeriod period = (s.speedTaken period).comparePeriod period := rfl

/-- R113, R115, R118: the speed monitor takes a period. -/
theorem State.speedPeriod_tsm (s : State) (period : Nat) :
    let x : Tsm := { s.tsm with speed := roundHalfUp (s.pulse piSpeed).params.k period, quality := .good, speedLost := false }
    (¬s.tsm.turns period → (s.speedPeriod period).tsm = { x with run := 0 }) ∧
    (s.tsm.turns period → s.tsm.run < 2 → (s.speedPeriod period).tsm = { x with run := s.tsm.run + 1 }) ∧
    (s.tsm.turns period → 2 ≤ s.tsm.run → (s.speedPeriod period).tsm = { x with run := 0, overspeed := !s.tsm.overspeed } ∧
      (s.tsm.overspeed = false → ((s.speedPeriod period).group .turbine).level = .trip ∧
        ((s.speedPeriod period).group .turbine).Holds .overspeed) ∧
      (s.tsm.overspeed = true → s.LogsOk → ¬((s.speedPeriod period).group .turbine).Holds .overspeed)) := by
  intro x
  have htsm : (s.speedTaken period).tsm = x := s.speedTaken_tsm period
  have hreacts : Reacts s (s.speedTaken period) :=
    (Prim.tsm (fun y => { y with speed := roundHalfUp (s.pulse piSpeed).params.k period, quality := .good })
      fun _ => rfl).reacts.trans (State.regainSpeed_reacts _)
  rw [State.speedPeriod_eq]
  generalize s.speedTaken period = q at htsm hreacts ⊢
  have hturns : q.tsm.turns period ↔ s.tsm.turns period := by rw [htsm]; rfl
  have hrun : q.tsm.run = s.tsm.run := by rw [htsm]
  have hover : q.tsm.overspeed = s.tsm.overspeed := by rw [htsm]
  refine ⟨fun h => ?_, fun h hlt => ?_, fun h hle => ?_⟩
  · rw [q.comparePeriod_keep (mt hturns.mp h), State.counted, State.modTsm_tsm, htsm]
  · rw [q.comparePeriod_count (hturns.mpr h) (by omega), State.counted, State.modTsm_tsm, htsm]
  · replace h := hturns.mpr h
    replace hle : 2 ≤ q.tsm.run := by omega
    cases hactive : s.tsm.overspeed with
    | true =>
      rw [q.comparePeriod_stop h hle (hover.trans hactive)]
      have hcounted : (q.counted (false, 0)).tsm = { x with run := 0, overspeed := false } := by
        rw [State.counted, State.modTsm_tsm, htsm]
      exact ⟨(untouched_tsm.deactivate _ _ _).trans hcounted, fun h => absurd h (by decide), fun _ hlogs =>
        State.deactivate_not_holds (q.counted (false, 0)) .turbine .overspeed (hreacts.logsOk hlogs)⟩
    | false =>
      rw [q.comparePeriod_trip h hle (hover.trans hactive)]
      have hcounted : (q.counted (true, 0)).tsm = { x with run := 0, overspeed := true } := by
        rw [State.counted, State.modTsm_tsm, htsm]
      have hlost : (q.counted (true, 0)).tsm.speedLost = false := by rw [hcounted]
      obtain ⟨hholds, hlevel⟩ := State.arrive_holds (q.counted (true, 0)) .turbine (c := .overspeed) rfl id id
      exact ⟨(State.arrive_tsm _ _ _ hlost).trans hcounted, fun _ => ⟨hlevel rfl, hholds⟩, fun h => absurd h (by decide)⟩

/-- R118: SPEED_LOST ends with a period. -/
theorem State.speedPeriod_regains (s : State) (period : Nat) (h : s.tsm.speedLost = true) (hlogs : s.LogsOk) :
    ¬((s.speedPeriod period).group .turbine).Holds .speedLost := by
  have hregain : ¬((s.speedTaken period).group .turbine).Holds .speedLost :=
    (State.regainSpeed_spec (s.setSpeed (s.pulse piSpeed).params.k period)).2.2 h hlogs
  rw [State.speedPeriod_eq]
  generalize s.speedTaken period = q at hregain ⊢
  intro hholds
  by_cases hturns : q.tsm.turns period
  · by_cases hrun : q.tsm.run < 2
    · rw [q.comparePeriod_count hturns hrun] at hholds
      exact hregain hholds
    · rw [q.comparePeriod_turn hturns (Nat.not_lt.mp hrun)] at hholds
      exact hregain ((State.handOver_quiet (q.counted (!q.tsm.overspeed, 0)) .turbine (c := .overspeed) (d := .speedLost) nofun id (!q.tsm.overspeed) hholds))
  · rw [q.comparePeriod_keep hturns] at hholds
    exact hregain hholds

theorem State.speedPeriod_blocks (s : State) (period : Nat) : SameBlocks s (s.speedPeriod period) := by
  have htaken : Reacts s (s.speedTaken period) :=
    (Prim.tsm (fun y => { y with speed := roundHalfUp (s.pulse piSpeed).params.k period, quality := .good })
      fun _ => rfl).reacts.trans (State.regainSpeed_reacts _)
  rw [State.speedPeriod_eq]
  generalize s.speedTaken period = q at htaken ⊢
  refine htaken.same.blocks.trans ?_
  have hcounted (x : Bool × Nat) : SameBlocks q (q.counted x) := (q.counted_acts x).reacts.same.blocks
  by_cases hturns : q.tsm.turns period
  · by_cases hrun : q.tsm.run < 2
    · rw [q.comparePeriod_count hturns hrun]
      exact hcounted _
    · rw [q.comparePeriod_turn hturns (Nat.not_lt.mp hrun)]
      exact (hcounted _).trans (State.handOver_blocks _ _ rfl _)
  · rw [q.comparePeriod_keep hturns]
    exact hcounted _

/-- R113, R115, R118: a period trips the Turbine group, or the speed monitor tracks the drain of TG. -/
theorem State.speedPeriod_acts (s : State) (period : Nat) :
    SpeedActs (s.setSpeed (s.pulse piSpeed).params.k period) (s.speedPeriod period) ∨
      ((s.speedPeriod period).group .turbine).level = .trip :=
  (State.comparePeriod_acts (s.speedTaken period) period).imp_left (s.speedTaken_acts period).trans

/-! ### An edge -/

/-- R38: the state with a period latched on an input. -/
def State.latched (s : State) (j : PulseId) (period : Nat) : State :=
  { s.modPulse j (fun p => p.latch period) with draws := s.draws + 1 }

theorem State.latchPulse_eq (s : State) (j : PulseId) :
    let period := (s.pulse j).period s.draws
    s.latchPulse j = (if j = piSpeed then (s.latched j period).speedPeriod period else s.latched j period).testPulse j := rfl

/-- R38: what an edge leaves before the drain test. -/
def State.pulseTaken (s : State) (j : PulseId) (period : Nat) : State :=
  if j = piSpeed then (s.latched j period).speedPeriod period else s.latched j period

theorem State.pulseTaken_speed (s : State) (period : Nat) : s.pulseTaken 11 period = (s.latched 11 period).speedPeriod period :=
  if_pos rfl

theorem State.pulseTaken_other (s : State) (h : j ≠ 11) (period : Nat) : s.pulseTaken j period = s.latched j period := if_neg h

theorem State.pulseTaken_blocks (s : State) (j : PulseId) (period : Nat) :
    SameBlocks (s.latched j period) ((s.pulseTaken j period).testPulse j) := by
  refine SameBlocks.trans ?_ (State.testPulse_reacts _ j).same.blocks
  by_cases hj : j = 11
  · subst hj
    rw [s.pulseTaken_speed]
    exact State.speedPeriod_blocks _ _
  · rw [s.pulseTaken_other hj]
    exact .refl _

/-- R41, R75, R78: the drains and GOs after an edge. -/
theorem State.pulseTaken_since (s : State) (j : PulseId) (period : Nat)
    (h : j = 11 → (((s.pulseTaken j period).testPulse j).group .turbine).level ≠ .trip) :
    GoEnds s ((s.pulseTaken j period).testPulse j) ∧
    ∀ u, drainInput j u → (s.unit u).phase = .draining ∨ (s.unit u).phase = .isolating →
      ((s.unit u).timer ≠ none → ((s.pulseTaken j period).testPulse j).Drained u →
        DrainEnded s ((s.pulseTaken j period).testPulse j) u) ∧
      ((s.unit u).timer = none ∨ ¬((s.pulseTaken j period).testPulse j).Drained u →
        ((s.pulseTaken j period).testPulse j).unit u = s.unit u) := by
  by_cases hj : j = 11
  · subst hj
    replace h := h rfl
    rw [s.pulseTaken_speed] at h ⊢
    have hlevel := mt ((State.testPulse_reacts ((s.latched 11 period).speedPeriod period) 11).same.level .turbine).mpr h
    have hacts := ((s.latched 11 period).speedPeriod_acts period).resolve_right hlevel
    obtain ⟨hdrain, hgo⟩ := State.testPulse_since hacts.goes hacts.tracked
    refine ⟨hgo, fun u hu hp => ?_⟩
    obtain ⟨hend, hstay⟩ := hdrain u hu hp
    exact ⟨fun htimer hdrained => (hend htimer hdrained).congr rfl rfl rfl, hstay⟩
  · rw [s.pulseTaken_other hj]
    obtain ⟨hdrain, hgo⟩ := State.testPulse_since (e := s.latched j period) (j := j) (.refl _) fun u _ => (tracks_drain u).refl _
    refine ⟨hgo, fun u hu hp => ?_⟩
    obtain ⟨hend, hstay⟩ := hdrain u hu hp
    exact ⟨fun htimer hdrained => (hend htimer hdrained).congr rfl rfl rfl, hstay⟩

theorem State.pulseTaken_settled (s : State) (hj : j ≠ 11) (period : Nat) :
    Settled s ((s.pulseTaken j period).testPulse j) (fun _ => False) ∧
    ∀ u, ¬drainInput j u → ((s.pulseTaken j period).testPulse j).unit u = s.unit u := by
  rw [s.pulseTaken_other hj]
  have hset := (s.latched j period).testPulse_settled j
  exact ⟨⟨hset.swu, hset.tsm, hset.unit, hset.group, hset.chan, hset.stack, hset.target, hset.oneShot, hset.go, hset.queue,
    hset.quiet⟩, fun u hu => State.testPulse_unit _ hu⟩

theorem Pulse.period_spec (p : Pulse) (draw : Nat) : 1 ≤ p.period draw ∧ (p.count < 16777216 → p.period draw = max 1 p.count) := by
  unfold Pulse.period
  refine ⟨?_, fun h => if_neg (Nat.not_le.mpr h)⟩
  split <;> exact Nat.le_max_left ..

/-- R113, R115, R118: the speed monitor after an edge on PI11. -/
theorem State.pulseTaken_monitor (s : State) (period : Nat) :
    let r := (s.pulseTaken 11 period).testPulse 11
    let t := s.tsm
    let raw : Nat := (2 * (s.pulse 11).params.k + period) / (2 * period)
    let fast := period ≤ t.params.tripPeriod
    let far := if t.overspeed = true then ¬fast else fast
    (¬far → r.tsm = { t with speed := raw, quality := .good, run := 0, speedLost := false }) ∧
    (far → t.run < 2 → r.tsm = { t with speed := raw, quality := .good, run := t.run + 1, speedLost := false }) ∧
    (far → 2 ≤ t.run → r.tsm = { t with
      speed := raw, quality := .good, run := 0, speedLost := false, overspeed := !t.overspeed }) ∧
    (far → 2 ≤ t.run → t.overspeed = false →
      (r.group .turbine).level = .trip ∧ (r.group .turbine).Holds .overspeed) ∧
    (far → 2 ≤ t.run → t.overspeed = true → s.LogsOk → ¬(r.group .turbine).Holds .overspeed) ∧
    (t.speedLost = true → s.LogsOk → ¬(r.group .turbine).Holds .speedLost) := by
  intro r t raw fast far
  have hkeep : LogsKeep (fun _ _ => False) (s.pulseTaken 11 period) r := State.testPulse_logsKeep _ 11
  have htsm : r.tsm = (s.pulseTaken 11 period).tsm := State.testPulse_tsm _ 11
  have hk : (s.latched 11 period).pulse piSpeed = (s.pulse 11).latch period :=
    (s.pulse_modPulse 11 11 fun p => p.latch period).trans (if_pos rfl)
  have hspec := (s.latched 11 period).speedPeriod_tsm period
  rw [hk] at hspec
  obtain ⟨hstay, hcount, hturn⟩ := hspec
  have hregain := (s.latched 11 period).speedPeriod_regains period
  rw [← s.pulseTaken_speed] at hstay hcount hturn hregain
  clear_value r
  refine ⟨fun h => htsm.trans (hstay h), fun h hrun => htsm.trans (hcount h hrun), fun h hrun => htsm.trans (hturn h hrun).1,
    fun h hrun hover => ?_, fun h hrun hover hlogs hholds => ?_, fun hlost hlogs hholds => ?_⟩
  · obtain ⟨hlevel, hholds⟩ := (hturn h hrun).2.1 hover
    exact ⟨(hkeep .turbine).level hlevel, (hkeep .turbine).holds not_false hholds⟩
  · exact (hturn h hrun).2.2 hover hlogs ((hkeep .turbine).only _ not_false hholds)
  · exact hregain hlost hlogs ((hkeep .turbine).only _ not_false hholds)

/-- Settles O54. -/
theorem activeEdge : Obligations.ActiveEdge := by
  unfold Obligations.ActiveEdge
  intro s j o x t
  refine ⟨fun hrun => congrArg Host.Outcome.next (if_pos hrun), fun hrun hstop => ?_, fun hrun hgo => ?_⟩
  · have ho : o = .next (s.modPulse j Pulse.first) :=
      congrArg Host.Outcome.next ((if_neg (not_not.mpr hrun)).trans (if_neg (Bool.eq_false_iff.mp hstop)))
    refine ⟨_, ho, ?_, fun k hk => ?_, rfl⟩
    · rw [State.pulse_modPulse, if_pos rfl]
      rfl
    · rw [State.pulse_modPulse, if_neg hk]
  · have ho : o = .next ((s.pulseTaken j (x.period s.draws)).testPulse j) :=
      congrArg Host.Outcome.next ((if_neg (not_not.mpr hrun)).trans (if_pos hgo))
    obtain ⟨hpos, hcount⟩ := x.period_spec s.draws
    generalize x.period s.draws = period at ho hpos hcount
    have hblocks := s.pulseTaken_blocks j period
    have hpulse (k : PulseId) : ((s.pulseTaken j period).testPulse j).pulse k = (s.modPulse j fun p => p.latch period).pulse k :=
      congrArg (fun v : Vector Pulse 12 => v[k]) hblocks.pi
    refine ⟨period, _, ho, hpos, hcount, ?_⟩
    intro raw acc
    refine ⟨?_, fun k hk => ?_, hblocks.map, hblocks.hmt, hblocks.di, ?_, s.pulseTaken_since j period,
      fun hj => s.pulseTaken_settled hj period, ?_⟩
    · rw [hpulse, State.pulse_modPulse, if_pos rfl]
      rfl
    · rw [hpulse, State.pulse_modPulse, if_neg hk]
    · exact (hblocks s.groups).ai
    · rintro rfl
      exact s.pulseTaken_monitor period

end Sys2Proof.Machine
end

section
/-! The return of a port to ACTIVE, and PORT_RESET (R27, R62, R63, R171, R172). -/

namespace Sys2Proof.Machine

variable {s t r e : State} {m : Master} {g : Group} {c : Cause}

/-! ### Runs over lists -/

/-- What one item of a list brings about, and the others keep, stands after them all. -/
theorem State.each_reaches {α : Type} {P Q : State → Prop} {l : List α} {f : α → State → State} {x : α} (hx : x ∈ l)
    (hQ : ∀ y ∈ l, ∀ s, Q s → Q (f y s)) (hreach : ∀ s, Q s → P (f x s)) (hkeep : ∀ y ∈ l, ∀ s, P s → P (f y s)) (s : State)
    (hs : Q s) : P (s.each l f) := by
  obtain ⟨before, after, rfl⟩ := List.append_of_mem hx
  have hbefore := State.each_induct (P := Q) before f (fun y hy => hQ y (by simp [hy])) s hs
  have hsplit : s.each (before ++ x :: after) f = (f x (s.each before f)).each after f := by simp only [State.each, List.foldl_append, List.foldl_cons]
  rw [hsplit]
  exact State.each_induct (P := P) after f (fun y hy => hkeep y (by simp [hy])) _ (hreach _ hbefore)

/-! ### Removals from the channels a master writes -/

theorem mem_written (s : State) (m : Master) (c : ChanId) : c ∈ s.written m ↔ (s.entry c).writer = some m := by
  unfold State.written
  rw [List.mem_filter, State.writes_iff]
  exact and_iff_right (mem_channels c)

theorem mem_writtenGroups (s : State) (m : Master) (g : Group) :
    g ∈ s.writtenGroups m ↔ ∃ c ∈ groupChannels g, (s.entry c).writer = some m := by
  unfold State.writtenGroups
  rw [List.mem_filter, State.writesAny_iff]
  exact and_iff_right (by cases g <;> decide)

/-- One identity is taken out of the stacks of a list of channels. -/
def State.removes (s : State) (l : List ChanId) (x : Source) : State := s.each l fun c q => q.remove c x

theorem State.removes_same (s : State) (l : List ChanId) (x : Source) : Same s (s.removes l x) :=
  State.each_induct (P := Same s) _ _ (fun c _ q hq => hq.trans (q.remove_same c x)) s (.refl s)

theorem State.removes_calm (s : State) (l : List ChanId) (x : Source) : Calm s (s.removes l x) (· ∈ l) :=
  State.each_induct (P := (Calm s · (· ∈ l))) _ _ (fun c hc q hq => hq.trans (q.remove_calm c x hc)) s (.refl s _)

theorem State.removes_onlyRemoves (s : State) (l : List ChanId) (x : Source) : OnlyRemoves s (s.removes l x) :=
  State.each_induct (P := OnlyRemoves s) _ _ (fun c _ q hq => hq.trans (q.remove_onlyRemoves c x)) s (.refl s)

theorem State.removes_goes (s : State) (l : List ChanId) (x : Source) : Goes s (s.removes l x) :=
  Goes.each (fun c _ q => q.remove_goes c x) s

/-! ### The return to ACTIVE (R62, R171) -/

/-- R62: LINK_SILENT of a master is deactivated in a list of groups. -/
def State.linkHeard (s : State) (m : Master) (l : List Group) : State := s.each l fun g q => q.deactivate g (.linkSilent m)

theorem State.recoverMap_eq (s : State) (m : Master) :
    s.recoverMap m = (s.removes (s.written m) .link).linkHeard m (s.writtenGroups m) := by
  have hgroups : (s.removes (s.written m) .link).writtenGroups m = s.writtenGroups m := by
    unfold State.writtenGroups State.writesAny State.writes State.entry
    rw [(s.removes_same _ _).map]
  rw [← hgroups]
  rfl

section
variable (s : State) (m : Master) (l : List Group)

theorem State.linkHeard_reacts : Reacts s (s.linkHeard m l) := Reacts.each _ _ (fun g q => q.deactivate_reacts g _) s

theorem State.linkHeard_onlyRemoves : OnlyRemoves s (s.linkHeard m l) :=
  State.each_induct (P := OnlyRemoves s) _ _ (fun g _ q hq => hq.trans (q.deactivate_onlyRemoves g _)) s (.refl s)

theorem State.linkHeard_goes : Goes s (s.linkHeard m l) := Goes.each (fun g _ q => q.deactivate_goes g _) s

/-- A group in which LINK_SILENT was not deactivated stays, but for a GO that ends. -/
theorem State.linkHeard_group (hg : g ∉ l) : (s.linkHeard m l).group g = { s.group g with busy := ((s.linkHeard m l).group g).busy } := by
  refine State.each_induct (P := fun q => q.group g = { s.group g with busy := (q.group g).busy }) _ _ (fun k hk q hq => ?_) s rfl
  have hne : g ≠ k := fun heq => hg (heq ▸ hk)
  rw [q.deactivate_group_other _ hne, hq]

/-- The records of a cause in a group are all inactive. -/
def GroupRec.Inactive (x : GroupRec) (c : Cause) : Prop := ∀ r ∈ x.log, r.cause = c → r.active = false

theorem GroupRec.deactivate_inactive (x : GroupRec) (c : Cause) (now : Word) : (x.deactivate c now).Inactive c := by
  unfold GroupRec.deactivate
  split
  · intro r hr hcause
    obtain ⟨z, hz, rfl⟩ := List.mem_map.mp hr
    split at hcause
    case isTrue hc =>
      rw [if_pos hc]
      dsimp only
      split
      case isTrue => rfl
      case isFalse hactive => exact Bool.eq_false_iff.mpr hactive
    case isFalse hc => exact absurd hcause hc
  case isFalse hno =>
    intro r hr hcause
    exact absurd (List.any_eq_true.mpr ⟨r, hr, decide_eq_true hcause⟩) hno

theorem State.deactivate_log (c : Cause) : ((s.deactivate g c).group g).log = ((s.group g).deactivate c s.ms).log := by
  rw [(s.deactivate_ended g c).record, GroupRec.deactivate_eq]

theorem State.linkHeard_inactive (hg : g ∈ l) : ((s.linkHeard m l).group g).Inactive (.linkSilent m) := by
  refine State.each_reaches (P := fun q => (q.group g).Inactive (.linkSilent m)) (Q := fun _ => True) hg (fun _ _ _ => id)
    (fun q _ => ?_) (fun k _ q hq => ?_) s trivial
  · unfold GroupRec.Inactive
    rw [q.deactivate_log]
    exact GroupRec.deactivate_inactive _ _ _
  · by_cases hk : g = k
    · subst hk
      unfold GroupRec.Inactive
      rw [q.deactivate_log]
      exact GroupRec.deactivate_inactive _ _ _
    · unfold GroupRec.Inactive at hq ⊢
      rw [congrArg GroupRec.log (q.deactivate_group_other (.linkSilent m) hk)]
      exact hq

theorem State.linkHeard_not_holds (hg : g ∈ l) (hlogs : s.LogsOk) : ¬((s.linkHeard m l).group g).Holds (.linkSilent m) := by
  refine State.each_reaches (P := fun q => ¬(q.group g).Holds (.linkSilent m)) (Q := State.LogsOk) hg
    (fun k _ q hq => (q.deactivate_reacts k _).logsOk hq) (fun q hq => q.deactivate_not_holds g _ hq) (fun k _ q hq hholds => ?_) s hlogs
  exact hq (((tracks_quiet ⟨fun _ => True, fun _ => False, fun _ => False, fun _ _ => False⟩).deactivate q trivial
    (.linkSilent m) g (.linkSilent m) hholds).resolve_right id)

theorem State.linkHeard_keeps {x : Entry} (hx : x.source ≠ .alarm (.linkSilent m)) (d : ChanId) (h : x ∈ (s.chan d).stack) :
    x ∈ ((s.linkHeard m l).chan d).stack := by
  refine State.each_induct (P := fun q => x ∈ (q.chan d).stack) _ _ (fun k _ q hq => ?_) s h
  rw [(q.deactivate_ended k _).stack]
  split
  · exact List.mem_filter.mpr ⟨hq, decide_eq_true hx⟩
  · exact hq

end

/-- R171: the state in which the map hears of the return of a port. -/
def State.reported (s : State) (m : Master) : State :=
  (s.modPort m fun p => { p with silent := false }).queueOthers m (.portHeard m (s.ms - (s.port m).silentSince))

theorem State.hear_eq (s : State) (m : Master) : s.hear m =
    ((s.reported m).removes (s.written m) .link).linkHeard m (s.writtenGroups m) := State.recoverMap_eq (s.reported m) m

/-- R171: the silence timer of a port is not among what reactions change. -/
theorem Same.reload (h : Same s t) (m : Master) : Same (s.modPort m Port.reload) (t.modPort m Port.reload) := by
  have hfields (k : Master) : ∃ q l, s.port k = { t.port k with queue := q, lost := l } := ⟨_, _, (h.port k).symm⟩
  refine { h with port := fun k => ?_, queues := fun k => ?_ }
  all_goals rw [State.port_modPort, State.port_modPort]
  · split
    case isTrue =>
      obtain ⟨q, l, hport⟩ := hfields m
      rw [hport]
      rfl
    case isFalse => exact h.port k
  · split
    case isTrue => exact h.queues m
    case isFalse => exact h.queues k

theorem State.reload_grows (s : State) (m : Master) : Grows s (s.modPort m Port.reload) := fun k => by
  rw [State.port_modPort]
  split
  case isTrue hk => rw [hk]; exact ⟨List.prefix_refl _, id⟩
  case isFalse => exact ⟨List.prefix_refl _, id⟩

theorem State.modPort_modPort (s : State) (m : Master) (f k : Port → Port) :
    (s.modPort m f).modPort m k = s.modPort m fun p => k (f p) := by
  have hport := s.port_modPort_same m f
  unfold State.modPort at hport ⊢
  rw [hport]
  simp

theorem State.modPort_congr {f k : Port → Port} (h : f (s.port m) = k (s.port m)) : s.modPort m f = s.modPort m k := by
  unfold State.modPort
  rw [h]

/-- R171: a port as a valid frame leaves it. -/
def Port.heard (p : Port) : Port := { p with
  received := p.received.tail, silent := false, timer := if p.timeout = 0 then none else some (p.timeout * 100) }

theorem State.heard_active (s : State) (m : Master) (h : (s.port m).silent = false) : s.heard m = s.modPort m Port.heard := by
  have htaken : ((s.takeFrame m).port m).silent = false := by rw [State.takeFrame, State.port_modPort_same]; exact h
  unfold State.heard State.validFrame
  rw [htaken, if_neg Bool.false_ne_true]
  refine (s.modPort_modPort m _ Port.reload).trans (State.modPort_congr ?_)
  unfold Port.heard Port.reload
  rw [← h]
  rfl

/-- R62, R171: the state before the silence timer of a port that returns to ACTIVE is reloaded. -/
theorem State.heard_silent (s : State) (m : Master) (h : (s.port m).silent = true) :
    s.heard m = ((s.takeFrame m).hear m).modPort m Port.reload := by
  have htaken : ((s.takeFrame m).port m).silent = true := by rw [State.takeFrame, State.port_modPort_same]; exact h
  unfold State.heard State.validFrame
  rw [htaken]
  rfl

/-- R171: the state in which a port is ACTIVE, its return not yet told. -/
def State.roused (s : State) (m : Master) : State := (s.takeFrame m).modPort m fun p => { p with silent := false }

theorem State.roused_reload (s : State) (m : Master) : (s.roused m).modPort m Port.reload = s.modPort m Port.heard := by
  unfold State.roused State.takeFrame
  rw [State.modPort_modPort, State.modPort_modPort]
  rfl

theorem State.roused_hear (s : State) (m : Master) : (s.takeFrame m).hear m =
    (((s.roused m).queueOthers m (.portHeard m (s.ms - (s.port m).silentSince))).removes (s.written m) .link).linkHeard m
      (s.writtenGroups m) := by
  have hsince : ((s.takeFrame m).port m).silentSince = (s.port m).silentSince := by
    rw [State.takeFrame, State.port_modPort_same]
  rw [State.hear_eq]
  unfold State.reported
  rw [hsince]
  rfl

theorem State.queue_same (s : State) (who : Master → Bool) (b : EventBody) : Same s (s.queue who b) := (Raw.queue who b).raws.same

/-- R62: what the return of a port to ACTIVE does, from the state in which it is told. -/
theorem State.hear_returns (s : State) (m : Master) :
    let r := (s.takeFrame m).hear m
    let q := (s.roused m).queueOthers m (.portHeard m (s.ms - (s.port m).silentSince))
    Same (s.roused m) r ∧ OnlyRemoves q r ∧ Grows q r := by
  intro r q
  have hr : r = (q.removes (s.written m) .link).linkHeard m (s.writtenGroups m) := s.roused_hear m
  have hlinks := (q.removes (s.written m) .link).linkHeard_reacts m (s.writtenGroups m)
  rw [hr]
  exact ⟨((State.queue_same _ _ _).trans (q.removes_same _ _)).trans hlinks.same,
    (q.removes_onlyRemoves _ _).trans (State.linkHeard_onlyRemoves _ m _), (q.removes_goes _ _).grows.trans hlinks.grows⟩

theorem State.hear_stack (s : State) (m : Master) (c : ChanId) :
    let r := (s.takeFrame m).hear m
    ((s.entry c).writer = some m → hasSource .link (r.chan c).stack = false) ∧
    (∀ x ∈ (s.chan c).stack, ((s.entry c).writer = some m → x.source ≠ .link) →
      x.source ≠ .alarm (.linkSilent m) → x ∈ (r.chan c).stack) := by
  intro r
  let q := (s.roused m).queueOthers m (.portHeard m (s.ms - (s.port m).silentSince))
  have hr : r = (q.removes (s.written m) .link).linkHeard m (s.writtenGroups m) := s.roused_hear m
  have hstack : ((q.removes (s.written m) .link).chan c).stack =
      if c ∈ s.written m then removeEntry .link (s.chan c).stack else (s.chan c).stack := q.removes_stack _ _ c
  have hsub := ((q.removes (s.written m) .link).linkHeard_onlyRemoves m (s.writtenGroups m)).sublist c
  rw [hr]
  refine ⟨fun hw => ?_, fun x hx hlink halarm => State.linkHeard_keeps _ m _ halarm c ?_⟩
  · rw [hstack, if_pos ((mem_written s m c).mpr hw)] at hsub
    rw [hasSource_false]
    intro x hx
    simpa using (List.mem_filter.mp (hsub.subset hx)).2
  · rw [hstack]
    split
    case isTrue hw => exact List.mem_filter.mpr ⟨hx, decide_eq_true (hlink ((mem_written s m c).mp hw))⟩
    case isFalse => exact hx

theorem State.hear_groups (s : State) (m : Master) (g : Group) :
    let r := (s.takeFrame m).hear m
    ((∃ c ∈ groupChannels g, (s.entry c).writer = some m) →
      (r.group g).Inactive (.linkSilent m) ∧ (s.LogsOk → ¬(r.group g).Holds (.linkSilent m))) ∧
    ((∀ c ∈ groupChannels g, (s.entry c).writer ≠ some m) → r.group g = { s.group g with busy := (r.group g).busy }) := by
  intro r
  let q := (s.roused m).queueOthers m (.portHeard m (s.ms - (s.port m).silentSince))
  have hr : r = (q.removes (s.written m) .link).linkHeard m (s.writtenGroups m) := s.roused_hear m
  have hcalm := q.removes_calm (s.written m) .link
  rw [hr]
  refine ⟨fun hw => ?_, fun hw => ?_⟩
  · have hmem := (mem_writtenGroups s m g).mpr hw
    refine ⟨State.linkHeard_inactive _ m _ hmem, fun hlogs => State.linkHeard_not_holds _ m _ hmem ?_⟩
    have hq : q.LogsOk := hlogs
    exact (Reacts.each _ _ (fun c p => p.remove_reacts c _ (by simp) (by simp)) q).logsOk hq
  · have hmem : g ∉ s.writtenGroups m := fun h => by
      obtain ⟨c, hc, hwriter⟩ := (mem_writtenGroups s m g).mp h
      exact hw c hc hwriter
    rw [State.linkHeard_group _ m _ hmem, hcalm.group g]
    rfl

/-- Settles O24. -/
theorem validFrameHeard : Obligations.ValidFrameHeard := by
  unfold Obligations.ValidFrameHeard
  intro s m e t
  refine ⟨s.heard_active m, fun hsilent => ?_⟩
  have he : e = ((s.takeFrame m).hear m).modPort m Port.reload := s.heard_silent m hsilent
  have ht : t = (s.roused m).modPort m Port.reload := (s.roused_reload m).symm
  obtain ⟨hsame, hremoves, hgrows⟩ := s.hear_returns m
  have hstack (c : ChanId) := s.hear_stack m c
  have hgroup (g : Group) := s.hear_groups m g
  rw [he, ht]
  refine ⟨hsame.reload m, hremoves.swu, hremoves.tsm, fun k hk => ?_, fun c => (hstack c).1,
    fun c => ⟨hremoves.sublist c, (hstack c).2⟩, fun g => (hgroup g).1, fun g => (hgroup g).2, hremoves.unit⟩
  have hlast := hgrows.trans (State.reload_grows _ m)
  have htold := State.queue_told (s.roused m) (fun x => decide (x ≠ m)) (.portHeard m (s.ms - (s.port m).silentSince)) k
    (decide_eq_true hk)
  have hfirst : (s.roused m).port k = s.port k := by
    rw [State.roused, State.takeFrame, State.port_modPort_other _ hk, State.port_modPort_other _ hk]
  exact ⟨hlast.told htold, hfirst ▸ ((State.queue_grows _ _ _).trans hlast).queue k⟩

end Sys2Proof.Machine
end

section
/-! The ends of several offers at once, and PORT_RESET (R27, R60, R63, R172). -/

namespace Sys2Proof.Machine

variable {s t r e : State} {m : Master} {g : Group} {c : ChanId}

/-! ### The ends of offers -/

/-- R60, R63: the offers of a list of channels are ended where their entry asks for it, and the parties it names are told. -/
def State.endOffers (s : State) (who : MapEntry → Option (Option Master → Master → List (Option Master))) (why : ExpiryReason)
    (l : List ChanId) : State := s.each l fun c q => (who (q.entry c)).elim q fun f => q.endOffer c f why

/-- What the ends of the offers of a list of channels leave. -/
structure OffersEnded (s r : State) (who : MapEntry → Option (Option Master → Master → List (Option Master))) (why : ExpiryReason)
    (l : List ChanId) : Prop where
  entry : ∀ c, r.entry c = if c ∈ l ∧ (who (s.entry c)).isSome then { s.entry c with offer := none } else s.entry c
  blocks : { r with map := s.map, ports := s.ports } = s
  same : ∀ x, Same { s with map := x } { r with map := x }
  goes : Goes s r
  told : ∀ c ∈ l, ∀ f o k, who (s.entry c) = some f → (s.entry c).offer = some o → some k ∈ f (s.entry c).writer o.offeree →
    (r.port k).Told ⟨s.ms, .handoverExpired c o.offeree why⟩

theorem State.endOffer_queued (s : State) (c : ChanId) (f : Option Master → Master → List (Option Master)) (why : ExpiryReason) :
    (∀ x, Same { s with map := x } { s.endOffer c f why with map := x }) ∧ Goes s (s.endOffer c f why) ∧
    { s.endOffer c f why with map := s.map, ports := s.ports } = s ∧
    (s.endOffer c f why).entry c = { s.entry c with offer := none } ∧
    (∀ d, d ≠ c → (s.endOffer c f why).entry d = s.entry d) ∧
    ∀ o k, (s.entry c).offer = some o → some k ∈ f (s.entry c).writer o.offeree →
      ((s.endOffer c f why).port k).Told ⟨s.ms, .handoverExpired c o.offeree why⟩ := by
  cases ho : (s.entry c).offer with
  | none =>
    rw [State.endOffer_none c f why ho]
    exact ⟨fun _ => .refl _, .refl s, rfl, by rw [← ho], fun _ _ => rfl, nofun⟩
  | some o =>
    have hdone := s.endOffer_done c f why ho
    refine ⟨fun x => ?_, ?_, hdone.blocks, hdone.entry, hdone.others, fun o' k h hk => ?_⟩
    all_goals rw [State.endOffer_some c f why ho, State.queueParties]
    · exact State.queue_same { s with map := x } (fun k => (f (s.entry c).writer o.offeree).contains (some k))
        (.handoverExpired c o.offeree why)
    · have hset : Goes s (s.modEntry c fun e => { e with offer := none }) := goes_of_eq rfl rfl rfl (grows_of_ports rfl)
      exact hset.queued _ _
    · rw [← Option.some.inj h]
      exact State.queue_told _ _ _ k (List.contains_iff_mem.mpr (Option.some.inj h ▸ hk))

theorem State.endOffers_ended (who : MapEntry → Option (Option Master → Master → List (Option Master))) (why : ExpiryReason) :
    ∀ (l : List ChanId) (s : State), l.Nodup → OffersEnded s (s.endOffers who why l) who why l
  | [], s, _ => ⟨fun c => by simp [State.endOffers], rfl, fun _ => .refl _, .refl s, by simp⟩
  | c :: l, s, hnodup => by
    obtain ⟨hfresh, hnodup⟩ := List.nodup_cons.mp hnodup
    let q := (who (s.entry c)).elim s fun f => s.endOffer c f why
    have hrest : OffersEnded q (s.endOffers who why (c :: l)) who why l := State.endOffers_ended who why l q hnodup
    have hq : (∀ x, Same { s with map := x } { q with map := x }) ∧ Goes s q ∧
        { q with map := s.map, ports := s.ports } = s ∧
        (q.entry c = if (who (s.entry c)).isSome then { s.entry c with offer := none } else s.entry c) ∧
        (∀ d, d ≠ c → q.entry d = s.entry d) ∧
        ∀ f o k, who (s.entry c) = some f → (s.entry c).offer = some o → some k ∈ f (s.entry c).writer o.offeree →
          (q.port k).Told ⟨s.ms, .handoverExpired c o.offeree why⟩ := by
      cases hwho : who (s.entry c) with
      | none =>
        have hqs : q = s := by simp only [q, hwho, Option.elim_none]
        rw [hqs]
        exact ⟨fun _ => .refl _, .refl s, rfl, rfl, fun _ _ => rfl, nofun⟩
      | some f =>
        have hqs : q = s.endOffer c f why := by simp only [q, hwho, Option.elim_some]
        obtain ⟨hsame, hgoes, hblocks, hentry, hothers, htold⟩ := s.endOffer_queued c f why
        rw [hqs]
        exact ⟨hsame, hgoes, hblocks, hentry, hothers, fun f' o k hf ho hk => htold o k ho (Option.some.inj hf ▸ hk)⟩
    obtain ⟨hsame, hgoes, hblocks, hentry, hothers, htold⟩ := hq
    clear_value q
    refine ⟨fun d => ?_, ?_, fun x => (hsame x).trans (hrest.same x), hgoes.trans hrest.goes, fun d hd f o k hf ho hk => ?_⟩
    · rw [hrest.entry d]
      by_cases hdc : d = c
      · subst hdc
        rw [if_neg fun h => hfresh h.1, hentry]
        simp
      · rw [hothers d hdc]
        simp [hdc]
    · exact (congrArg (fun x : State => { x with map := s.map, ports := s.ports }) hrest.blocks :).trans hblocks
    · have hms : q.ms = s.ms := hgoes.ms
      by_cases hdc : d = c
      · subst hdc
        exact hrest.goes.grows.told (htold f o k hf ho hk)
      · have hmem : d ∈ l := (List.mem_cons.mp hd).resolve_left hdc
        rw [← hms]
        have hold := hothers d hdc
        rw [← hold] at hf ho hk
        exact hrest.told d hmem f o k hf ho hk

theorem channels_nodup : channels.Nodup := by decide

theorem OffersEnded.written {who : MapEntry → Option (Option Master → Master → List (Option Master))} {why : ExpiryReason}
    {l : List ChanId} (h : OffersEnded s r who why l) (m : Master) : r.written m = s.written m ∧ r.writtenGroups m = s.writtenGroups m := by
  have hwrites : r.writes m = s.writes m := funext fun c => by
    unfold State.writes
    rw [h.entry c]
    split <;> rfl
  unfold State.written State.writtenGroups State.writesAny
  rw [hwrites]
  exact ⟨rfl, rfl⟩

/-! ### PORT_RESET -/

/-- R63: which offers a PORT_RESET of `m` ends, and whom it tells. -/
def withdrawals (m : Master) (x : MapEntry) : Option (Option Master → Master → List (Option Master)) :=
  if x.writer = some m then some fun _ o => [some o]
  else if x.offer.any (fun o => decide (o.offeree = m)) then some fun w _ => [w] else none

theorem State.withdrawOffers_eq (s : State) (m : Master) : s.withdrawOffers m = s.endOffers (withdrawals m) .portReset channels := by
  refine congrArg (s.each channels) (funext fun c => funext fun q => ?_)
  unfold withdrawals
  split_ifs <;> rfl

theorem Option.any_offeree (x : Option Offer) (m : Master) :
    x.any (fun o => decide (o.offeree = m)) = true ↔ ∃ o, x = some o ∧ o.offeree = m := by
  cases x <;> simp

theorem withdrawals_isSome (m : Master) (x : MapEntry) :
    (withdrawals m x).isSome ↔ x.writer = some m ∨ ∃ o, x.offer = some o ∧ o.offeree = m := by
  rw [← Option.any_offeree]
  unfold withdrawals
  split_ifs <;> simp_all

/-- R63: the other party of an offer that is withdrawn is told. -/
theorem withdrawals_party {m k : Master} {x : MapEntry} {o : Offer} (ho : x.offer = some o) (hk : k ≠ m)
    (h : (x.writer = some m ∧ k = o.offeree) ∨ (x.writer = some k ∧ o.offeree = m)) :
    ∃ f, withdrawals m x = some f ∧ some k ∈ f x.writer o.offeree := by
  rcases h with ⟨hw, rfl⟩ | ⟨hw, hm⟩
  · exact ⟨fun _ o => [some o], if_pos hw, List.mem_singleton.mpr rfl⟩
  · refine ⟨fun w _ => [w], ?_, by simp [hw]⟩
    have hne : x.writer ≠ some m := fun heq => hk (Option.some.inj (hw.symm.trans heq))
    exact (if_neg hne).trans (if_pos ((Option.any_offeree _ _).mpr ⟨o, ho, hm⟩))

theorem Same.modPort_const {p : Port} (h : Same s t) (m : Master) :
    Same (s.modPort m fun _ => p) (t.modPort m fun _ => p) := by
  refine { h with port := fun k => ?_, queues := fun k => ?_ }
  all_goals rw [State.port_modPort, State.port_modPort]
  · split
    case isTrue => rfl
    case isFalse => exact h.port k
  · split
    case isTrue => exact id
    case isFalse => exact h.queues k

/-- R172: what a restart leaves does not depend on the event queue. -/
theorem Port.restart_of_same {p q : Port} (h : { q with queue := p.queue, lost := p.lost } = p) : q.restart = { p with
    queue := [], lost := false, silent := false, timer := if p.timeout = 0 then none else some (p.timeout * 100) } := by
  rw [← h]
  rfl

/-- Settles O28. -/
theorem portReset : Obligations.PortReset := by
  unfold Obligations.PortReset
  intro s m tag hrun e
  let w := e.withdrawOffers m
  let v := w.removes (w.written m) .force
  have hended : OffersEnded e w (withdrawals m) .portReset channels := by
    have h := State.endOffers_ended (withdrawals m) .portReset channels e channels_nodup
    rwa [← State.withdrawOffers_eq] at h
  have hsame : Same w v := w.removes_same _ _
  have hcalm : Calm w v (· ∈ w.written m) := w.removes_calm _ _
  have hgrows : Grows w v := (w.removes_goes _ _).grows
  have hwritten : w.written m = e.written m := (hended.written m).1
  have hstack (c : ChanId) := w.removes_stack (w.written m) .force c
  have hrun : exec (.portReset m tag) s = .next ((v.modPort m Port.restart).respond m tag .ok []) :=
    exec_of_owner (ownPortReset m) ((v.modPort m Port.restart).answer .ok) hrun rfl rfl
  change ∀ c, (v.chan c).stack = _ at hstack
  clear_value v w e
  have hblock {β : Type} (p : State → β) (hp : ∀ x y, p { w with map := x, ports := y } = p w) : p w = p e :=
    (hp e.map e.ports).symm.trans (congrArg p hended.blocks)
  have hport : (v.modPort m Port.restart).port m = (v.port m).restart := v.port_modPort_same m _
  have hother {k : Master} (hk : k ≠ m) : (v.modPort m Port.restart).port k = v.port k := v.port_modPort_other hk _
  have hall : Same { e with map := v.map } v := by
    have hfirst := hended.same v.map
    have hmap : { w with map := v.map } = w := by rw [hsame.map]
    rw [hmap] at hfirst
    exact hfirst.trans hsame
  refine ⟨v.modPort m Port.restart, hrun, ?port, fun c => ?entry, fun c o k ho hk hparty => ?told, fun c => ?stack, ?same, ?swu, ?tsm,
    fun g => ?group, fun u hu => ?unit, fun k hk => ?queue⟩
  case port =>
    have hfields := hall.port m
    rw [hport]
    exact Port.restart_of_same hfields
  case entry =>
    have hentry : v.entry c = w.entry c := congrArg (fun x : Vector MapEntry 16 => x[c]) hsame.map
    refine hentry.trans ((hended.entry c).trans (if_congr ?_ rfl rfl))
    rw [and_iff_right (mem_channels c)]
    exact withdrawals_isSome m _
  case told =>
    obtain ⟨f, hf, hmem⟩ := withdrawals_party ho hk hparty
    rw [hother hk]
    exact hgrows.told (hended.told c (mem_channels c) f o k hf ho hmem)
  case stack =>
    have hchan : w.chan c = e.chan c := hblock (fun x => x.chan c) fun _ _ => rfl
    have hforces := hstack c
    rw [hwritten, hchan] at hforces
    exact hforces.trans (if_congr (mem_written e m c) rfl rfl)
  case same =>
    have hlast : v.modPort m (fun _ => (v.modPort m Port.restart).port m) = v.modPort m Port.restart :=
      State.modPort_congr hport
    have hconst := hall.modPort_const (p := (v.modPort m Port.restart).port m) m
    rw [hlast] at hconst
    exact hconst
  case swu => exact hcalm.swu.trans (hblock (·.swu) fun _ _ => rfl)
  case tsm => exact hcalm.tsm.trans (hblock (·.tsm) fun _ _ => rfl)
  case group =>
    have hgroup : w.group g = e.group g := hblock (fun x => x.group g) fun _ _ => rfl
    exact hgroup ▸ hcalm.group g
  case unit =>
    have hunit : w.unit u = e.unit u := hblock (fun x => x.unit u) fun _ _ => rfl
    exact (hcalm.unit u (hunit.symm ▸ hu)).trans hunit
  case queue =>
    rw [hother hk]
    exact (hended.goes.grows.trans hgrows).queue k

end Sys2Proof.Machine
end

section
/-! The silence of a port (R60, R61, R170). -/

namespace Sys2Proof.Machine

variable {s t r e : State} {m : Master} {g : Group} {c : ChanId} {u : UnitId} {R : Reach}

/-! ### What runs leave alone -/

/-- A unit out of a phase stays. -/
def UnitStays (u : UnitId) (s t : State) : Prop := (s.unit u).phase = .none → t.unit u = s.unit u

/-- A unit out of a phase stays where it is not forced (R73, R76). -/
theorem tracks_unit (h : ¬R.unit u) : Tracks R (UnitStays u) where
  refl _ _ := rfl
  trans s t r h k hs := (k ((h hs).symm ▸ hs)).trans (h hs)
  queue _ _ _ _ := rfl
  group _ _ _ _ _ _ := rfl
  clear s k _ _ := by rw [s.setGuard_unit]
  put _ _ _ _ _ _ _ := rfl
  take _ _ _ _ _ _ := rfl
  refold _ _ _ _ := rfl
  test s v _ hs := by
    by_cases hv : u = v
    · subst hv
      rw [s.testUnit_none u hs]
    · exact s.testUnit_unit_other hv
  jump _ _ _ _ _ _ := rfl
  enter s v _ hv _ _ := (s.unit_modUnit v u _).trans (if_neg fun heq : u = v => h (heq ▸ hv))
  altered s v _ hv _ := (s.unit_modUnit v u _).trans (if_neg fun heq : u = v => h (heq ▸ hv))
  calcite _ _ _ _ _ := rfl
  speed _ _ _ _ := rfl

theorem State.testUnit_group_other (s : State) (h : g ≠ unitGroup u) : (s.testUnit u).group g = s.group g := by
  rcases s.testUnit_cases u with hstay | ⟨_, _, hend⟩ | ⟨_, _, _, hend⟩
  · rw [hstay]
  all_goals rw [hend]
  · unfold State.endStarting
    dsimp only
    rw [State.clearPath_group_other _ h]
    split <;> simp only [State.group, State.stepTo_groups]
  · unfold State.endDrain
    dsimp only [id]
    rw [State.clearPath_group_other _ h]
    split <;> simp only [State.group, State.stepTo_groups] <;> rfl

/-- A group's record stays. -/
def GroupStays (g : Group) (s t : State) : Prop := t.group g = s.group g

/-- A group out of reach stays. -/
theorem tracks_group (h : ¬R.group g) : Tracks R (GroupStays g) where
  refl _ := rfl
  trans _ _ _ h k := k.trans h
  queue _ _ _ := rfl
  group s k f hk _ := (s.group_modGroup k g f).trans (if_neg fun heq : g = k => h (heq ▸ hk))
  clear s k _ := by cases k <;> rfl
  put _ _ _ _ _ _ := rfl
  take _ _ _ _ _ := rfl
  refold _ _ _ := rfl
  test s v hv := by
    have hne : g ≠ unitGroup v := fun heq => h (by rwa [heq])
    exact s.testUnit_group_other hne
  jump _ _ _ _ _ := rfl
  enter _ _ _ _ _ := rfl
  altered _ _ _ _ := rfl
  calcite _ _ _ _ := rfl
  speed _ _ _ := rfl

/-- Alarms in the groups of a set. -/
abbrev Reach.within (G : Group → Prop) : Reach := ⟨G, fun _ => False, fun _ => False, fun _ _ => True⟩

/-! ### The entries of a silent port (R60) -/

/-- R60: the offers that end when the port of `m` becomes SILENT, and who is told. -/
def offersTo (m : Master) (x : MapEntry) : Option (Option Master → Master → List (Option Master)) :=
  if x.offer.any (fun o => decide (o.offeree = m)) then some fun w _ => [w] else none

theorem State.dropOffersTo_eq (s : State) (m : Master) : s.dropOffersTo m = s.endOffers (offersTo m) .silent channels := by
  refine congrArg (s.each channels) (funext fun c => funext fun q => ?_)
  unfold offersTo
  split_ifs <;> rfl

theorem offersTo_isSome (m : Master) (x : MapEntry) : (offersTo m x).isSome ↔ ∃ o, x.offer = some o ∧ o.offeree = m := by
  rw [← Option.any_offeree]
  unfold offersTo
  split_ifs <;> simp_all

theorem offersTo_of {m : Master} {x : MapEntry} {o : Offer} (ho : x.offer = some o) (hm : o.offeree = m) :
    offersTo m x = some fun w _ => [w] := if_pos ((Option.any_offeree _ _).mpr ⟨o, ho, hm⟩)

theorem offersTo_entry (m : Master) (x : MapEntry) {p : Prop} [Decidable p] (hp : p) :
    (if p ∧ (offersTo m x).isSome then { x with offer := none } else x) = match x.offer with
      | none => x
      | some q => if q.offeree = m then { x with offer := none } else x := by
  have hiff := offersTo_isSome m x
  obtain ⟨w, readers, locked, offer⟩ := x
  cases offer with
  | none => exact ite_self _
  | some q =>
    refine if_congr ((and_iff_right hp).trans (hiff.trans ?_)) rfl rfl
    simp

theorem State.dropOffersTo_ended (s : State) (m : Master) : OffersEnded s (s.dropOffersTo m) (offersTo m) .silent channels := by
  rw [State.dropOffersTo_eq]
  exact State.endOffers_ended _ _ _ s channels_nodup

/-- R60: the LINK entries of a list of channels are pushed. -/
def State.linkAll (s : State) (l : List ChanId) : State :=
  s.each l fun c q => q.push c ⟨.link, .value, (q.chan c).params.fallback, q.ms⟩

/-- R61: LINK_SILENT arrives in a list of groups. -/
def State.linkSilences (s : State) (m : Master) (l : List Group) : State := s.each l fun g q => q.arriveAlarm g (.linkSilent m)

section
variable (s : State) (m : Master)

theorem Tracks.linkAll {K : State → State → Prop} (h : Tracks R K) (l : List ChanId) (hl : ∀ c ∈ l, R.group (chanGroup c)) :
    K s (s.linkAll l) := h.each l _ (fun c hc q => h.push q (hl c hc) (by simp) (by simp)) s

theorem Tracks.linkSilences {K : State → State → Prop} (h : Tracks R K) (l : List Group)
    (hl : ∀ g ∈ l, R.group g ∧ R.arrives g (.linkSilent m)) : K s (s.linkSilences m l) :=
  h.each l _ (fun g hg q => h.arriveAlarm q (hl g hg).1 (hl g hg).2) s

theorem State.linkAll_reacts (l : List ChanId) : Reacts s (s.linkAll l) :=
  Reacts.each _ _ (fun c q => q.push_reacts c _ (by simp) (by simp)) s

theorem State.linkSilences_reacts (l : List Group) : Reacts s (s.linkSilences m l) :=
  Reacts.each _ _ (fun g q => q.arriveAlarm_reacts g (.linkSilent m) rfl rfl) s

theorem State.linkAll_goes (l : List ChanId) : Goes s (s.linkAll l) := Goes.each (fun c _ q => q.push_goes c _) s

theorem State.linkSilences_goes (l : List Group) : Goes s (s.linkSilences m l) :=
  Goes.each (fun g _ q => q.arriveAlarm_goes g (.linkSilent m)) s

theorem State.linkAll_stack (c : ChanId) : ∀ (l : List ChanId) (s : State), l.Nodup → ((s.linkAll l).chan c).stack =
    if c ∈ l then pushEntry ⟨.link, .value, (s.chan c).params.fallback, s.ms⟩ (s.chan c).stack else (s.chan c).stack
  | [], s, _ => rfl
  | d :: l, s, hnodup => by
    obtain ⟨hfresh, hnodup⟩ := List.nodup_cons.mp hnodup
    let q := s.push d ⟨.link, .value, (s.chan d).params.fallback, s.ms⟩
    have hsame : Same s q := (s.push_reacts d _ (by simp) (by simp)).same
    have hrest : ((s.linkAll (d :: l)).chan c).stack = _ := State.linkAll_stack c l q hnodup
    have hstack : (q.chan c).stack = if c = d then pushEntry ⟨.link, .value, (s.chan d).params.fallback, s.ms⟩ (s.chan d).stack
      else (s.chan c).stack := s.push_stack d c _
    rw [hrest, hstack, (hsame.chan c).1, hsame.ms]
    by_cases hcd : c = d
    · subst hcd
      simp [hfresh]
    · simp [hcd]

theorem State.alarmed_other {g : Group} {d : ChanId} (h : chanGroup d ≠ g) (c : Cause) (l : List Entry) : s.alarmed g c d l = l := by
  unfold State.alarmed
  have hnone : ∀ a ∈ s.actionsIn g c, a.channel ≠ d := fun a ha heq => h (heq ▸ State.mem_actionsIn ha)
  generalize s.actionsIn g c = actions at hnone
  induction actions with
  | nil => rfl
  | cons a actions ih =>
    rw [List.foldl_cons, if_neg (hnone a List.mem_cons_self)]
    exact ih fun b hb => hnone b (List.mem_cons_of_mem _ hb)

theorem State.arriveAlarm_stack (g : Group) (c : Cause) (d : ChanId) :
    ((s.arriveAlarm g c).chan d).stack = s.alarmed g c d (s.chan d).stack := by
  have hrecord : (s.record g c .alarm).chan d = s.chan d := s.recordWith_chan g c .alarm false _ d
  have hms : (s.record g c .alarm).ms = s.ms := (s.record_goes g c .alarm).ms
  unfold State.arriveAlarm
  rw [State.relevel_chan, State.applyActions_stack, hrecord, State.alarmed_congr (s.record_raws g c .alarm).same.actions hms]

theorem State.linkSilences_stack (d : ChanId) : ∀ (l : List Group) (s : State), l.Nodup → ((s.linkSilences m l).chan d).stack =
    if chanGroup d ∈ l then s.alarmed (chanGroup d) (.linkSilent m) d (s.chan d).stack else (s.chan d).stack
  | [], s, _ => rfl
  | g :: l, s, hnodup => by
    obtain ⟨hfresh, hnodup⟩ := List.nodup_cons.mp hnodup
    let q := s.arriveAlarm g (.linkSilent m)
    have hsame : Same s q := (s.arriveAlarm_reacts g (.linkSilent m) rfl rfl).same
    have hrest : ((s.linkSilences m (g :: l)).chan d).stack = _ := State.linkSilences_stack d l q hnodup
    have hstack : (q.chan d).stack = s.alarmed g (.linkSilent m) d (s.chan d).stack := s.arriveAlarm_stack g _ d
    rw [hrest, hstack, State.alarmed_congr hsame.actions hsame.ms]
    by_cases hg : chanGroup d = g
    · subst hg
      simp [hfresh]
    · rw [s.alarmed_other hg]
      simp [hg]

/-- R88: a record that an arrival has made or reactivated: unacknowledged, its last change at a time. -/
def GroupRec.Renewed (x : GroupRec) (c : Cause) (now : Word) : Prop :=
  ∀ z ∈ x.log, z.cause = c → z.acknowledged = false ∧ z.lastChange = now

theorem GroupRec.arrive_renewed (x : GroupRec) (c : Cause) (cls : CauseClass) (now : Word) : (x.arrive c cls now).1.Renewed c now := by
  unfold GroupRec.arrive
  split
  · intro z hz hcause
    obtain ⟨y, hy, rfl⟩ := List.mem_map.mp hz
    split at hcause
    case isTrue hc => rw [if_pos hc]; exact ⟨rfl, rfl⟩
    case isFalse hc => exact absurd hcause hc
  case isFalse hnew =>
    have hold : ∀ z ∈ x.log, z.cause ≠ c := fun z hz hc => hnew (List.any_eq_true.mpr ⟨z, hz, decide_eq_true hc⟩)
    split
    · intro z hz hcause
      rcases List.mem_append.mp hz with hz | hz
      · exact absurd hcause (hold z hz)
      · rw [List.mem_singleton.mp hz]
        exact ⟨rfl, rfl⟩
    · exact fun z hz hcause => absurd hcause (hold z hz)

theorem State.arriveAlarm_renewed (g : Group) {c : Cause} (hm : c.isMomentary = false) :
    ((s.arriveAlarm g c).group g).Renewed c s.ms := by
  have hrest : LogsKeep (fun _ => Cause.isGuardLost) (s.record g c .alarm) (s.arriveAlarm g c) :=
    (State.applyActions_logsKeep _ g c).trans (State.relevel_logsKeep _ g)
  intro z hz hcause
  have hrecord := (hrest g).recs z hz (hcause ▸ Cause.not_guardLost_of_not_momentary hm)
  rw [State.record, State.recordWith_group, if_pos rfl] at hrecord
  exact GroupRec.arrive_renewed _ c .alarm s.ms z hrecord hcause

/-- R61: LINK_SILENT of a master has arrived in a group at a time. -/
structure SilentIn (m : Master) (g : Group) (now : Word) (q : State) : Prop where
  ms : q.ms = now
  holds : (q.group g).Holds (.linkSilent m)
  level : (q.group g).level = .trip ∨ (q.group g).level = .alarm
  renewed : (q.group g).Renewed (.linkSilent m) now

theorem State.arriveAlarm_silent (q : State) (m : Master) (g : Group) : SilentIn m g q.ms (q.arriveAlarm g (.linkSilent m)) := by
  obtain ⟨hholds, hlevel⟩ := q.arriveAlarm_holds g (c := .linkSilent m) rfl
  refine ⟨(q.arriveAlarm_goes g _).ms, hholds, ?_, q.arriveAlarm_renewed g rfl⟩
  rw [hlevel]
  split
  · exact .inl rfl
  · exact .inr rfl

theorem SilentIn.kept {q : State} {now : Word} (h : SilentIn m g now q) (k : Group) :
    SilentIn m g now (q.arriveAlarm k (.linkSilent m)) := by
  by_cases hk : k = g
  · exact hk ▸ h.ms ▸ q.arriveAlarm_silent m k
  · have hstay : (q.arriveAlarm k (.linkSilent m)).group g = q.group g :=
      (tracks_group (R := .within (· ≠ g)) (g := g) fun h => h rfl).arriveAlarm q hk trivial
    exact ⟨(q.arriveAlarm_goes k _).ms.trans h.ms, hstay ▸ h.holds, hstay ▸ h.level, hstay ▸ h.renewed⟩

/-- R61: LINK_SILENT in a group of the list. -/
theorem State.linkSilences_group {l : List Group} {g : Group} (hg : g ∈ l) : SilentIn m g s.ms (s.linkSilences m l) := by
  refine State.each_reaches (P := SilentIn m g s.ms) (Q := fun q => q.ms = s.ms) hg
    (fun k _ q hq => (q.arriveAlarm_goes k _).ms.trans hq) (fun q hq => hq ▸ q.arriveAlarm_silent m g)
    (fun k _ q hq => hq.kept m k) s rfl

end

/-! ### The expiry of the silence timer (R170) -/

/-- R170: a port whose silence timer has expired. -/
def Port.silenced (p : Port) (now : Word) : Port := { p with silent := true, timer := none, silentSince := now }

/-- R170: the state in which the other ports are told. -/
def State.silenceTold (s : State) (m : Master) : State :=
  (s.modPort m fun p => p.silenced s.ms).queueOthers m (.portSilent m (s.port m).timeout)

theorem State.fallSilent_eq (s : State) (m : Master) :
    s.fallSilent m = ((((s.silenceTold m).dropOffersTo m).linkAll (s.written m)).linkSilences m (s.writtenGroups m)) := by
  have hended := (s.silenceTold m).dropOffersTo_ended m
  obtain ⟨hwritten, hgroups⟩ := hended.written m
  have hlinks := (((s.silenceTold m).dropOffersTo m).linkAll_reacts (s.written m)).same
  have hlast : (((s.silenceTold m).dropOffersTo m).linkAll (s.written m)).writtenGroups m = s.writtenGroups m := by
    refine Eq.trans ?_ hgroups
    unfold State.writtenGroups State.writesAny State.writes State.entry
    rw [hlinks.map]
  rw [← hlast]
  have hw : s.written m = ((s.silenceTold m).dropOffersTo m).written m := hwritten.symm
  rw [hw]
  rfl

theorem State.written_nodup (s : State) (m : Master) : (s.written m).Nodup := channels_nodup.filter _

theorem State.writtenGroups_nodup (s : State) (m : Master) : (s.writtenGroups m).Nodup :=
  List.Nodup.filter _ (by decide : allGroups.Nodup)

theorem mem_groupChannels_iff (c : ChanId) (g : Group) : c ∈ groupChannels g ↔ chanGroup c = g :=
  ⟨chanGroup_of_mem, fun h => h ▸ mem_groupChannels c⟩

/-- R60, R61: the channels that a port writes lie in the groups in which LINK_SILENT arrives. -/
theorem State.chanGroup_written {s : State} (h : c ∈ s.written m) : chanGroup c ∈ s.writtenGroups m :=
  (mem_writtenGroups s m _).mpr ⟨c, mem_groupChannels c, (mem_written s m c).mp h⟩

section
variable (s : State) (m : Master)

/-- What the silence of a port does, from the end of the offers on. -/
theorem Tracks.silences {K : State → State → Prop} (h : Tracks R K) (s q : State) (m : Master)
    (hl : ∀ g ∈ s.writtenGroups m, R.group g ∧ R.arrives g (.linkSilent m)) :
    K q ((q.linkAll (s.written m)).linkSilences m (s.writtenGroups m)) :=
  h.trans _ _ _ (h.linkAll q _ fun _ hc => (hl _ (State.chanGroup_written hc)).1) (h.linkSilences _ m _ hl)

theorem State.fallSilent_offers : OffersEnded (s.silenceTold m) ((s.silenceTold m).dropOffersTo m) (offersTo m) .silent channels :=
  State.dropOffersTo_ended _ m

theorem State.fallSilent_same (w : State) : Same w ((w.linkAll (s.written m)).linkSilences m (s.writtenGroups m)) :=
  (w.linkAll_reacts _).same.trans (State.linkSilences_reacts _ m _).same

theorem State.fallSilent_goes (w : State) : Goes w ((w.linkAll (s.written m)).linkSilences m (s.writtenGroups m)) :=
  (w.linkAll_goes _).trans (State.linkSilences_goes _ m _)

theorem State.fallSilent_stack (w : State) (c : ChanId) (hfallback : (w.chan c) = s.chan c) (hms : w.ms = s.ms)
    (hactions : w.actions = s.actions) :
    let linked := if (s.entry c).writer = some m then
      pushEntry ⟨.link, .value, (s.chan c).params.fallback, s.ms⟩ (s.chan c).stack else (s.chan c).stack
    (((w.linkAll (s.written m)).linkSilences m (s.writtenGroups m)).chan c).stack =
      if ∃ d ∈ groupChannels (chanGroup c), (s.entry d).writer = some m then
        s.alarmed (chanGroup c) (.linkSilent m) c linked else linked := by
  intro linked
  have hlinks := (w.linkAll_reacts (s.written m)).same
  have hlinked : ((w.linkAll (s.written m)).chan c).stack = linked := by
    rw [State.linkAll_stack c _ w (s.written_nodup m), hfallback, hms]
    exact if_congr (mem_written s m c) rfl rfl
  rw [State.linkSilences_stack m c _ _ (s.writtenGroups_nodup m), hlinked,
    State.alarmed_congr (hlinks.actions.trans hactions) (hlinks.ms.trans hms)]
  exact if_congr (mem_writtenGroups s m _) rfl rfl

end

theorem State.silenceTold_base (s : State) (m : Master) (x : Vector MapEntry 16) :
    Same ({ s with map := x }.modPort m fun p => p.silenced s.ms) { s.silenceTold m with map := x } :=
  State.queue_same ({ s with map := x }.modPort m fun p => p.silenced s.ms) (fun k => decide (k ≠ m))
    (.portSilent m (s.port m).timeout)

theorem State.silenceTold_grows (s : State) (m : Master) : Grows s (s.silenceTold m) := by
  have hport : Grows s (s.modPort m fun p => p.silenced s.ms) := fun k => by
    rw [State.port_modPort]
    split
    case isTrue hk => rw [hk]; exact ⟨List.prefix_refl _, id⟩
    case isFalse => exact ⟨List.prefix_refl _, id⟩
  exact hport.queued _ _

/-- Settles O44. -/
theorem silenceExpires : Obligations.SilenceExpires := by
  unfold Obligations.SilenceExpires
  intro s m o
  refine ⟨fun h => congrArg Host.Outcome.next (if_neg ?_), fun htimer hsilent => ?_⟩
  · rcases h with h | h <;> simp [h]
  have ho : o = .next (s.fallSilent m) :=
    congrArg Host.Outcome.next (if_pos (by simp [Option.isSome_iff_ne_none.mpr htimer, hsilent]))
  rw [s.fallSilent_eq] at ho
  have htold : ∀ k, k ≠ m → ((s.silenceTold m).port k).Told ⟨s.ms, .portSilent m (s.port m).timeout⟩ := fun k hk =>
    State.queue_told _ _ _ k (decide_eq_true hk)
  have hbase := s.silenceTold_base m
  have hgrows := s.silenceTold_grows m
  have hended := s.fallSilent_offers m
  have hgoes : Goes s (s.silenceTold m) := goes_of_eq rfl rfl rfl hgrows
  have hfields : (∀ c, (s.silenceTold m).chan c = s.chan c) ∧ (∀ c, (s.silenceTold m).entry c = s.entry c) ∧
      (∀ g, (s.silenceTold m).group g = s.group g) ∧ (∀ u, (s.silenceTold m).unit u = s.unit u) ∧
      (s.silenceTold m).ms = s.ms ∧ (s.silenceTold m).actions = s.actions := ⟨fun _ => rfl, fun _ => rfl, fun _ => rfl, fun _ => rfl, rfl, rfl⟩
  generalize (s.silenceTold m).dropOffersTo m = w at ho hended
  generalize s.silenceTold m = q at htold hbase hgrows hended hgoes hfields
  obtain ⟨hchan, hentry, hgroup, hunit, hms, hactions⟩ := hfields
  have hblock {β : Type} (p : State → β) (hp : ∀ x y, p { w with map := x, ports := y } = p w) : p w = p q :=
    (hp q.map q.ports).symm.trans (congrArg p hended.blocks)
  have hwchan (c : ChanId) : w.chan c = s.chan c := (hblock (fun x => x.chan c) fun _ _ => rfl).trans (hchan c)
  have hwgroup (g : Group) : w.group g = s.group g := (hblock (fun x => x.group g) fun _ _ => rfl).trans (hgroup g)
  have hwunit (u : UnitId) : w.unit u = s.unit u := (hblock (fun x => x.unit u) fun _ _ => rfl).trans (hunit u)
  have hwms : w.ms = s.ms := hended.goes.ms.trans hms
  have hwactions : w.actions = s.actions := (hblock (·.actions) fun _ _ => rfl).trans hactions
  have hsame := s.fallSilent_same m w
  have hlast := s.fallSilent_goes m w
  have hunits (u : UnitId) := (tracks_unit (R := .alarms) (u := u) id).silences s w m fun _ _ => ⟨trivial, trivial⟩
  have hothers (g : Group) (hg : g ∉ s.writtenGroups m) := (tracks_group (R := .within (· ≠ g)) (g := g) fun h => h rfl).silences s w m
    fun k hk => ⟨fun heq : k = g => hg (heq ▸ hk), trivial⟩
  have hstack (c : ChanId) := s.fallSilent_stack m w c (hwchan c) hwms hwactions
  have hlinked (g : Group) (hg : g ∈ s.writtenGroups m) := (w.linkAll (s.written m)).linkSilences_group m hg
  have hlinkms : (w.linkAll (s.written m)).ms = s.ms := (w.linkAll_reacts _).same.ms.trans hwms
  generalize (w.linkAll (s.written m)).linkSilences m (s.writtenGroups m) = r at ho hsame hlast hunits hothers hstack hlinked
  refine ⟨r, ho, ?same, fun k hk => ?_, fun k => ?_, ?go, fun c => ?entry, fun c off k hoff hm hw => ?told, hstack, fun g hg => ?linked,
    fun g hg => ?group, fun u hu => ?unit⟩
  case same =>
    have hfirst := (hbase r.map).trans (hended.same r.map)
    have hmap : { w with map := r.map } = w := by rw [hsame.map]
    rw [hmap] at hfirst
    exact hfirst.trans hsame
  · exact (hended.goes.grows.trans hlast.grows).told (htold k hk)
  · exact ((hgrows.trans hended.goes.grows).trans hlast.grows).queue k
  case go => exact ((hgoes.trans hended.goes).trans hlast).go
  case entry =>
    have hr : r.entry c = w.entry c := congrArg (fun x : Vector MapEntry 16 => x[c]) hsame.map
    rw [hr, hended.entry c, hentry c]
    exact offersTo_entry m (s.entry c) (mem_channels c)
  case told =>
    subst hm
    rw [← hms]
    rw [← hentry c] at hoff hw
    exact hlast.grows.told (hended.told c (mem_channels c) _ off k (offersTo_of hoff rfl) hoff (by simp [hw]))
  case linked =>
    have hin := hlinked g ((mem_writtenGroups s m g).mpr hg)
    refine ⟨hin.holds, fun hnot => hin.level.resolve_left fun htrip => hnot ?_, hlinkms ▸ hin.renewed⟩
    rw [← hwgroup g]
    exact (hsame.level g).mp htrip
  case group =>
    have hmem : g ∉ s.writtenGroups m := fun h => by
      obtain ⟨c, hc, hwriter⟩ := (mem_writtenGroups s m g).mp h
      exact hg c hc hwriter
    have hstay : r.group g = s.group g := (hothers g hmem).trans (hwgroup g)
    rw [hstay]
  case unit => exact (hunits u ((hwunit u).symm ▸ hu)).trans (hwunit u)

end Sys2Proof.Machine
end

section
/-! The ramp tick (R11, R13, R73, R75, R76). -/

namespace Sys2Proof.Machine

variable {s t r e : State} {u : UnitId} {c : ChanId}

/-- What one item of a list without repeats brings about, and the others leave, stands after them all. -/
theorem State.each_once {α : Type} {P Q : State → Prop} {l : List α} {f : α → State → State} {x : α} (hnodup : l.Nodup) (hx : x ∈ l)
    (hQ : ∀ y ∈ l, y ≠ x → ∀ s, Q s → Q (f y s)) (hreach : ∀ s, Q s → P (f x s)) (hkeep : ∀ y ∈ l, y ≠ x → ∀ s, P s → P (f y s))
    (s : State) (hs : Q s) : P (s.each l f) := by
  obtain ⟨before, after, rfl⟩ := List.append_of_mem hx
  have hdistinct := List.nodup_middle.mp hnodup
  obtain ⟨hfresh, -⟩ := List.nodup_cons.mp hdistinct
  have hne {y : α} (hy : y ∈ before ++ after) : y ≠ x := fun heq => hfresh (heq ▸ hy)
  have hbefore := State.each_induct (P := Q) before f
    (fun y hy => hQ y (by simp [hy]) (hne (List.mem_append_left _ hy))) s hs
  have hsplit : s.each (before ++ x :: after) f = (f x (s.each before f)).each after f := by
    simp only [State.each, List.foldl_append, List.foldl_cons]
  rw [hsplit]
  exact State.each_induct (P := P) after f (fun y hy => hkeep y (by simp [hy]) (hne (List.mem_append_right _ hy))) _
    (hreach _ hbefore)

/-! ### The channels -/

/-- R11: the applied value after one ramp tick. -/
def Channel.rampStep (ch : Channel) (u : UnitRec) : Nat :=
  if u.phase = .none ∧ (u.state = .standby ∨ u.state = .isolated) then ch.applied
  else if ch.target < ch.applied then max ch.target (ch.applied - ch.params.slew)
  else if u.phase = .none ∧ u.state = .paused then ch.applied
  else min ch.target (ch.applied + ch.params.slew)

theorem UnitRec.atRest_iff (x : UnitRec) : x.atRest = true ↔ x.phase = .none ∧ (x.state = .standby ∨ x.state = .isolated) := by
  simp [UnitRec.atRest]

theorem Channel.rampStep_rest (ch : Channel) {u : UnitRec} (h : u.atRest = true) : ch.rampStep u = ch.applied :=
  if_pos ((UnitRec.atRest_iff u).mp h)

theorem Channel.rampStep_eq (ch : Channel) {u : UnitRec} (h : ¬u.atRest = true) :
    ch.rampValue (decide ¬(u.phase = .none ∧ u.state = .paused)) = ch.rampStep u := by
  rw [UnitRec.atRest_iff] at h
  unfold Channel.rampValue Channel.rampStep
  rw [if_neg h]
  by_cases hup : ch.applied < ch.target
  · rw [if_pos hup, if_neg (Nat.lt_asymm hup)]
    by_cases hp : u.phase = .none ∧ u.state = .paused <;> simp [hp]
  · rw [if_neg hup]
    by_cases hdown : ch.target < ch.applied
    · rw [if_pos hdown, if_pos hdown]
    · rw [if_neg hdown, if_neg hdown]
      split <;> omega

/-- R11: a channel after one ramp tick. -/
def Channel.ramped (ch : Channel) (u : UnitRec) : Channel :=
  if ch.params.mode = .oneshot ∨ ch.rampStep u = ch.applied then ch else ch.setApplied (ch.rampStep u)

theorem Channel.ramped_spec (ch : Channel) (u : UnitRec) : (ch.ramped u).params = ch.params ∧ (ch.ramped u).base = ch.base ∧
    (ch.ramped u).stack = ch.stack ∧ (ch.ramped u).target = ch.target := by
  unfold Channel.ramped
  split
  · exact ⟨rfl, rfl, rfl, rfl⟩
  · obtain ⟨hparams, hbase, hstack, htarget, -, -⟩ := ch.setApplied_spec (ch.rampStep u)
    exact ⟨hparams, hbase, hstack, htarget⟩

theorem State.modChan_self {f : Channel → Channel} (h : f (s.chan c) = s.chan c) : s.modChan c f = s := by
  have hset : s.ch.set c (s.chan c) = s.ch := Vector.set_getElem_self _
  unfold State.modChan
  rw [h, hset]

theorem State.modChan_congr {f k : Channel → Channel} (h : f (s.chan c) = k (s.chan c)) : s.modChan c f = s.modChan c k := by
  unfold State.modChan
  rw [h]

/-- R11, R13: one channel moves, and its readers are told where it reaches its target. -/
theorem State.rampChannel_eq (s : State) (c : ChanId) :
    let x := s.chan c
    let v := x.rampStep (s.unit (unitOf c))
    let t := s.modChan c fun ch => ch.ramped (s.unit (unitOf c))
    s.rampChannel c = if x.params.mode = .oneshot ∨ v = x.applied then t else if v = x.target then t.queueReaders c (.rampDone c v) else t := by
  intro x v t
  have hstay (h : x.params.mode = .oneshot ∨ v = x.applied) : t = s := State.modChan_self (if_pos h)
  unfold State.rampChannel
  dsimp only
  by_cases hrest : (s.unit (unitOf c)).atRest = true
  · have hv : v = x.applied := Channel.rampStep_rest _ hrest
    rw [if_pos (.inr (.inl hrest)), if_pos (.inr hv), hstay (.inr hv)]
  · rw [Channel.rampStep_eq _ hrest]
    by_cases h : x.params.mode = .oneshot ∨ v = x.applied
    · rw [if_pos h, hstay h, if_pos (h.imp_right .inr)]
    · have hmove : t = s.modChan c fun ch => ch.setApplied v := State.modChan_congr (if_neg h)
      rw [if_neg h, if_neg fun hor => h (hor.imp_right fun hor => hor.resolve_left hrest), hmove]

/-- What the ramp tick leaves of the channels of a list. -/
structure Ramped (s t : State) (l : List ChanId) : Prop where
  chan : ∀ d, t.chan d = if d ∈ l then (s.chan d).ramped (s.unit (unitOf d)) else s.chan d
  blocks : { t with ch := s.ch, ports := s.ports } = s
  raws : Raws s t
  told : ∀ d ∈ l, (s.chan d).params.mode ≠ .oneshot → (s.chan d).rampStep (s.unit (unitOf d)) ≠ (s.chan d).applied →
    (s.chan d).rampStep (s.unit (unitOf d)) = (s.chan d).target → ∀ m, (s.entry d).readers.has m = true →
    (t.port m).Told ⟨s.ms, .rampDone d (s.chan d).target⟩

theorem State.rampChannel_ramped (s : State) (c : ChanId) : Ramped s (s.rampChannel c) [c] := by
  have heq := s.rampChannel_eq c
  dsimp only at heq
  have hchan (d : ChanId) : (s.modChan c fun ch => ch.ramped (s.unit (unitOf c))).chan d =
      if d ∈ [c] then (s.chan d).ramped (s.unit (unitOf d)) else s.chan d := by
    refine (s.chan_modChan c d _).trans ?_
    by_cases hd : d = c
    · rw [if_pos hd, if_pos (List.mem_singleton.mpr hd), hd]
    · rw [if_neg hd, if_neg fun h => hd (List.mem_singleton.mp h)]
  have hraw : Raws s (s.modChan c fun ch => ch.ramped (s.unit (unitOf c))) :=
    (Raw.chan c _ ⟨(Channel.ramped_spec _ _).1, (Channel.ramped_spec _ _).2.1⟩).raws
  split_ifs at heq with hstay hdone
  all_goals rw [heq]
  · exact ⟨hchan, rfl, hraw, fun d hd hm hne => absurd hstay (by rw [List.mem_singleton.mp hd] at hm hne; exact not_or.mpr ⟨hm, hne⟩)⟩
  · refine ⟨hchan, rfl, hraw.trans (Raw.queue _ _).raws, fun d hd hm hne hv m hread => ?_⟩
    obtain rfl := List.mem_singleton.mp hd
    rw [hv]
    exact State.queue_told _ _ _ m hread
  · exact ⟨hchan, rfl, hraw, fun d hd _ _ hv => absurd (List.mem_singleton.mp hd ▸ hv) hdone⟩

theorem State.rampAll_ramped : ∀ (l : List ChanId) (s : State), l.Nodup → Ramped s (s.each l fun c q => q.rampChannel c) l
  | [], s, _ => ⟨fun _ => by simp, rfl, .refl, by simp⟩
  | c :: l, s, hnodup => by
    obtain ⟨hfresh, hnodup⟩ := List.nodup_cons.mp hnodup
    have hfirst := s.rampChannel_ramped c
    have hrest := State.rampAll_ramped l (s.rampChannel c) hnodup
    rw [State.each_cons]
    generalize s.rampChannel c = q at hfirst hrest
    have hblock {β : Type} (p : State → β) (hp : ∀ x y, p { q with ch := x, ports := y } = p q) : p q = p s :=
      (hp s.ch s.ports).symm.trans (congrArg p hfirst.blocks)
    have hunit (u : UnitId) : q.unit u = s.unit u := hblock (fun x => x.unit u) fun _ _ => rfl
    have hentry (d : ChanId) : q.entry d = s.entry d := hblock (fun x => x.entry d) fun _ _ => rfl
    have hms : q.ms = s.ms := hblock (·.ms) fun _ _ => rfl
    have hother {d : ChanId} (hd : d ≠ c) : q.chan d = s.chan d := by
      rw [hfirst.chan d, if_neg fun h => hd (List.mem_singleton.mp h)]
    refine ⟨fun d => ?_, ?_, hfirst.raws.trans hrest.raws, fun d hd hm hne hv m hread => ?_⟩
    · rw [hrest.chan d]
      by_cases hdc : d = c
      · subst hdc
        rw [if_neg hfresh, hfirst.chan d]
        simp
      · rw [hother hdc, hunit]
        simp [hdc]
    · exact (congrArg (fun x : State => { x with ch := s.ch, ports := s.ports }) hrest.blocks :).trans hfirst.blocks
    · by_cases hdc : d = c
      · exact hrest.raws.grows.told (hfirst.told d (List.mem_singleton.mpr hdc) hm hne hv m hread)
      · have hmem := (List.mem_cons.mp hd).resolve_left hdc
        have htold := hrest.told d hmem
        rw [hother hdc, hunit, hms, hentry] at htold
        exact htold hm hne hv m hread

/-! ### The ends of the phases -/

/-- R73, R76: how the phase of a unit stands after its test in the state `q`. -/
structure PhaseTested (q t : State) (u : UnitId) : Prop where
  none : (q.unit u).phase = .none → t.unit u = q.unit u
  starting : (q.unit u).phase = .starting → (¬q.RampsDone u → t.unit u = q.unit u) ∧ (q.RampsDone u → t.unit u = { q.unit u with
      state := if (q.unit u).dest = some .paused then .paused else .running, phase := .none, dest := Option.none, timer := Option.none } ∧
    ∀ m, (q.entry (principal u)).readers.has m = true → (t.port m).Told ⟨q.ms, .unitState u .running .go⟩ ∧
      ((q.unit u).dest = some .paused → (t.port m).Told ⟨q.ms, .unitState u .paused .go⟩))
  drain : (q.unit u).phase = .draining ∨ (q.unit u).phase = .isolating →
    ((q.unit u).timer ≠ Option.none → q.Drained u → DrainEnded q t u) ∧
    ((q.unit u).timer = Option.none ∨ ¬q.Drained u → t.unit u = q.unit u)

theorem State.testUnit_tested (s : State) (u : UnitId) : PhaseTested s (s.testUnit u) u := by
  refine ⟨fun hp => by rw [s.testUnit_none u hp], fun hp => ?_, fun hp => ?_⟩
  · have htest := State.testUnit_starting hp
    constructor <;> intro hdone <;> rw [← s.unitRampDone_iff] at hdone
    · rw [htest, if_neg hdone]
    · rw [htest, if_pos hdone]
      exact ⟨s.endStarting_unit u, fun m hm => s.endStarting_told u hm⟩
  · have htest := State.testUnit_drain hp
    have hiff : ((s.unit u).timer.isSome && s.drainMet u) = true ↔ (s.unit u).timer ≠ none ∧ s.Drained u := by
      rw [Bool.and_eq_true, Option.isSome_iff_ne_none, State.drainMet_iff]
    constructor
    · intro htimer hdrained
      rw [htest, if_pos (hiff.mpr ⟨htimer, hdrained⟩)]
      exact s.endDrain_ended u
    · intro hno
      rw [htest, if_neg fun h => hno.elim (hiff.mp h).1 fun hnot => hnot (hiff.mp h).2]

theorem PhaseTested.later (h : PhaseTested s t u) (hunit : r.unit u = t.unit u) (hgrow : Grows t r) : PhaseTested s r u where
  none hp := hunit.trans (h.none hp)
  starting hp := by
    obtain ⟨hstay, hend⟩ := h.starting hp
    refine ⟨fun hno => hunit.trans (hstay hno), fun hdone => ?_⟩
    obtain ⟨hunit', htold⟩ := hend hdone
    exact ⟨hunit.trans hunit', fun m hm => ⟨hgrow.told (htold m hm).1, fun hd => hgrow.told ((htold m hm).2 hd)⟩⟩
  drain hp := by
    obtain ⟨hend, hstay⟩ := h.drain hp
    exact ⟨fun htimer hdrained => (hend htimer hdrained).later hgrow hunit, fun hno => hunit.trans (hstay hno)⟩

theorem PhaseTested.congr (h : PhaseTested s t u) (hunit : s.unit u = e.unit u) (hmap : s.map = e.map) (hms : s.ms = e.ms)
    (hramps : s.RampsDone u ↔ e.RampsDone u) (hdrained : s.Drained u ↔ e.Drained u) : PhaseTested e t u where
  none hp := by rw [← hunit] at hp ⊢; exact h.none hp
  starting hp := by
    rw [← hunit] at hp ⊢
    rw [← hramps, State.entry, ← hmap, ← hms]
    exact h.starting hp
  drain hp := by
    rw [← hunit] at hp ⊢
    rw [← hdrained]
    obtain ⟨hend, hstay⟩ := h.drain hp
    exact ⟨fun htimer hdone => (hend htimer hdone).congr hunit hmap hms, hstay⟩

/-- The state but for the phases of its units and the records told: what tests that find every fold in place keep. -/
structure Rested (q t : State) : Prop where
  chan : ∀ c, t.chan c = q.chan c
  folded : ∀ c, t.Folded c
  same : Same q t
  tsm : t.tsm = q.tsm
  swu : t.swu = q.swu
  group : ∀ g, t.group g = { q.group g with busy := (t.group g).busy }
  goes : Goes q t

theorem Rested.ramps (h : Rested s t) (u : UnitId) : t.RampsDone u ↔ s.RampsDone u := by
  unfold State.RampsDone
  simp only [h.chan]

theorem Rested.drained (h : Rested s t) (u : UnitId) : t.Drained u ↔ s.Drained u := by
  unfold State.Drained State.pulse
  rw [h.ramps, h.same.pi, h.tsm, (h.same.unit u).1]

theorem Rested.test (h : Rested s t) (v : UnitId) : Rested s (t.testUnit v) := by
  have hwithin := t.testUnit_within v
  have hchan := t.testUnit_chan v fun c _ => h.folded c
  refine ⟨fun c => (hchan c).trans (h.chan c), fun c => ?_, h.same.trans (t.testUnit_reacts v).same, hwithin.tsm.trans h.tsm,
    hwithin.swu.trans h.swu, fun g => ?_, h.goes.trans (t.testUnit_goes v)⟩
  · by_cases hc : unitOf c = v
    · exact hc ▸ t.testUnit_folded c (h.folded c)
    · unfold State.Folded
      rw [hchan, hwithin.unit _ hc]
      exact h.folded c
  · rw [hwithin.group g, h.group g]

theorem mem_allUnits (u : UnitId) : u ∈ allUnits := by
  revert u
  decide

/-- Every unit is tested. -/
def State.testAll (s : State) : State := s.each allUnits fun u q => q.testUnit u

theorem State.testAll_rested (h : ∀ c, s.Folded c) : Rested s s.testAll :=
  State.each_induct (P := Rested s) _ _ (fun v _ _ ht => ht.test v) s
    ⟨fun _ => rfl, h, .refl s, rfl, rfl, fun _ => rfl, .refl s⟩

theorem State.testAll_tested (h : ∀ c, s.Folded c) (u : UnitId) : PhaseTested s s.testAll u := by
  refine State.each_once (P := fun t => PhaseTested s t u) (Q := fun t => Rested s t ∧ t.unit u = s.unit u)
    (by decide : allUnits.Nodup) (mem_allUnits u) (fun v _ hv t ⟨ht, hunit⟩ => ?_) (fun t ⟨ht, hunit⟩ => ?_) (fun v _ hv t ht => ?_) s
    ⟨⟨fun _ => rfl, h, .refl s, rfl, rfl, fun _ => rfl, .refl s⟩, rfl⟩
  · exact ⟨ht.test v, (t.testUnit_unit_other hv.symm).trans hunit⟩
  · exact (t.testUnit_tested u).congr hunit ht.same.map ht.same.ms (ht.ramps u) (ht.drained u)
  · exact ht.later (t.testUnit_unit_other hv.symm) (t.testUnit_reacts v).grows

/-! ### The tick -/

/-- R11: every channel moves by one ramp tick. -/
def State.rampAll (s : State) : State := s.each channels fun c q => q.rampChannel c

theorem Ramped.folded (h : Ramped s t channels) (hs : s.ChannelsFollow) (c : ChanId) : t.Folded c := by
  have hunit : t.unit (unitOf c) = s.unit (unitOf c) := by
    have h := congrArg (fun x : State => x.unit (unitOf c)) h.blocks
    exact h
  obtain ⟨hparams, hbase, hstack, htarget⟩ := (s.chan c).ramped_spec (s.unit (unitOf c))
  unfold State.Folded
  rw [h.chan c, if_pos (mem_channels c), hunit, htarget, Channel.fold_congr hparams hbase hstack]
  exact (hs c).1

/-- R6, R11: what a ramp tick leaves of a channel. -/
theorem Channel.ramped_cases (ch : Channel) (u : UnitRec) :
    let v := ch.rampStep u
    let next := { ch with applied := v, lowLimit := ch.params.lowLimitOf v }
    let pair := ch.params.pairOf v
    (ch.params.mode = .oneshot ∨ v = ch.applied → ch.ramped u = ch) ∧
    (ch.params.mode ≠ .oneshot → v ≠ ch.applied →
      (ch.wave ≠ .static → ch.ramped u = { next with pendingPair := some pair }) ∧
      (ch.wave = .static → ch.ramped u = { next with
        pair := pair, pendingPair := none, count := 0, sub := 0
        wave := match pair with
          | .counts _ _ => .high
          | _ => .static })) := by
  intro v next pair
  refine ⟨fun h => if_pos h, fun hm hv => ?_⟩
  have hset : ch.ramped u = ch.setApplied v := if_neg (not_or.mpr ⟨hm, hv⟩)
  rw [hset]
  exact ⟨fun hw => (if_neg hv).trans (if_neg hw), fun hw => (if_neg hv).trans (if_pos hw)⟩

/-- Settles O39. -/
theorem rampTick : Obligations.RampTick := by
  unfold Obligations.RampTick
  intro s hs
  have hramped : Ramped s s.rampAll channels := State.rampAll_ramped channels s channels_nodup
  have hexec : exec .rampTick s = .next s.rampAll.testAll := rfl
  generalize s.rampAll = q at hramped hexec
  have hrested := State.testAll_rested (hramped.folded hs)
  have htested := State.testAll_tested (hramped.folded hs)
  generalize q.testAll = r at hexec hrested htested
  have hblock {β : Type} (p : State → β) (hp : ∀ x y, p { q with ch := x, ports := y } = p q) : p q = p s :=
    (hp s.ch s.ports).symm.trans (congrArg p hramped.blocks)
  have hunit (u : UnitId) : q.unit u = s.unit u := hblock (fun x => x.unit u) fun _ _ => rfl
  have hgroup (g : Group) : q.group g = s.group g := hblock (fun x => x.group g) fun _ _ => rfl
  have hgo : Goes s q := goes_of_eq (hblock (·.ms) fun _ _ => rfl) (hblock (·.units) fun _ _ => rfl)
    (hblock (·.groups) fun _ _ => rfl) hramped.raws.grows
  have hentry (c : ChanId) : q.entry c = s.entry c := congrArg (fun x : Vector MapEntry 16 => x[c]) hramped.raws.same.map
  refine ⟨r, hexec, hramped.raws.same.trans hrested.same, hrested.swu.trans (hblock (·.swu) fun _ _ => rfl),
    hrested.tsm.trans (hblock (·.tsm) fun _ _ => rfl), (hgo.trans hrested.goes).go, fun g => hgroup g ▸ hrested.group g, ?chan,
    (hgo.trans hrested.goes).grows.queue, ?units⟩
  case chan =>
    intro c ch u v next pair
    obtain ⟨hstay, hmove⟩ := ch.ramped_cases u
    have hchan : r.chan c = ch.ramped u := by rw [hrested.chan, hramped.chan, if_pos (mem_channels c)]
    rw [hchan]
    refine ⟨hstay, fun hm hv => ?_⟩
    obtain ⟨hwave, hstatic⟩ := hmove hm hv
    refine ⟨hwave, hstatic, fun htarget m hm' => ?_⟩
    have htold := hramped.told c (mem_channels c) hm hv htarget m hm'
    rw [← htarget] at htold
    exact hrested.goes.grows.told htold
  case units =>
    intro u x
    have hpulse : q.Drained u ↔ r.Drained u := (hrested.drained u).symm
    obtain ⟨hnone, hstart, hdrain⟩ := htested u
    rw [hunit] at hnone hstart hdrain
    rw [hgo.ms, hentry, ← hrested.ramps] at hstart
    refine ⟨hnone, hstart, fun hp => ?_⟩
    obtain ⟨hend, hstay⟩ := hdrain hp
    rw [hpulse] at hend hstay
    exact ⟨fun htimer hdone => (hend htimer hdone).congr (hunit u) hramped.raws.same.map hgo.ms, hstay⟩

end Sys2Proof.Machine
end

section
/-! GO while the turbine-generator enters service with its speed lost: the actions of SPEED_LOST end STARTING between two pushes
(R72, R73, R94, R118). -/

namespace Sys2Proof.Machine

/-- The turbine-generator stands in STANDBY with NEXT at RUNNING and its speed in NO_SIGNAL. SPEED_LOST has two actions on GV1, of
which the first brings its target onto the applied value and the second is the entry, of this millisecond, that GV1 holds. -/
def twiceActed : State :=
  let s := { State.reset with run := .running, actions := [⟨.speedLost, [⟨8, .value, 500⟩, ⟨8, .value, 700⟩]⟩] }
  let s := s.modEntry 8 fun x => { x with writer := some .turbine }
  let s := s.modUnit unitTG fun x => { x with state := .standby, next := .running }
  let s := s.modGroup .turbine fun x => { x with level := .normal }
  let s := s.modTsm fun x => { x with quality := .noSignal }
  s.modChan 8 fun ch => { ch with applied := 500, stack := [⟨.alarm .speedLost, .value, 700, 0⟩] }

/-- That state when the GO is decided. -/
abbrev twiceActedHeard : State := twiceActed.heard .turbine

/-- That state after the GO. -/
abbrev twiceActedGone : State := twiceActedHeard.startGo .turbine

/-- The checks of the GO pass. -/
theorem twiceActed_passes :
    ¬(∀ c ∈ groupPrincipals .turbine, (twiceActedHeard.entry c).writer ≠ some .turbine) ∧
    (twiceActedHeard.group .turbine).busy = false ∧ (twiceActedHeard.group .turbine).level = .normal ∧
    exec (.go .turbine 0 (BitVec.ofNat 8 (groupCode .turbine))) twiceActed = .next (twiceActedGone.respond .turbine 0 .ok []) :=
  ⟨by decide, by decide, by decide, exec_of_owner (ownGo .turbine (BitVec.ofNat 8 (groupCode .turbine)))
    (twiceActedGone.answer .ok) rfl rfl rfl⟩

/-- The unit is RUNNING, no stack of it is changed, and GV1 has not reached its target. -/
theorem twiceActed_running :
    (twiceActedHeard.unit unitTG).state = .standby ∧ (twiceActedHeard.unit unitTG).next = .running ∧
    (twiceActedHeard.unit unitTG).phase = .none ∧ (twiceActedGone.unit unitTG).phase = .none ∧
    (∀ c, unitOf c = unitTG → (twiceActedGone.chan c).stack = (twiceActedHeard.chan c).stack) ∧ ¬twiceActedGone.RampsDone unitTG := by
  refine ⟨by decide, by decide, by decide, by decide, by decide, fun hramps => ?_⟩
  exact absurd (hramps 8 rfl (by decide)) (by decide)

/-- Refutes O46: a GO can bring a unit into RUNNING with its stacks as they were and a channel off its target, because the phase is
tested between the pushes of one action record. -/
theorem not_goDecided : ¬Obligations.GoDecided := by
  unfold Obligations.GoDecided
  intro h
  obtain ⟨hwriter, hbusy, hlevel, hexec⟩ := twiceActed_passes
  obtain ⟨hstate, hnext, hphase, hdone, hstacks, hramps⟩ := twiceActed_running
  have hgo := h twiceActed .turbine 0 .turbine rfl
  rw [if_neg hwriter, if_neg (by rw [hbusy]; decide), if_neg fun hno => by rw [hlevel] at hno; exact absurd hno.1 (by decide),
    hexec] at hgo
  obtain ⟨r, hr, -, -, hpaths, -⟩ := hgo
  have hresponse := Host.Outcome.next.inj hr
  have hch : r.ch = twiceActedGone.ch := (congrArg State.ch hresponse).symm
  have hunits : r.units = twiceActedGone.units := (congrArg State.units hresponse).symm
  have hchan (c : ChanId) : r.chan c = twiceActedGone.chan c := congrArg (fun v : Vector Channel 16 => v[c]) hch
  have hunit : r.unit unitTG = twiceActedGone.unit unitTG := congrArg (fun v : Vector UnitRec 12 => v[unitTG]) hunits
  have hpath := hpaths unitTG (by decide) hphase (by rw [hstate, hnext]; decide)
  have hnot : ¬r.RampsDone unitTG := fun hr => hramps fun c hc hm => by
    rw [← hchan] at hm ⊢
    exact hr c hc hm
  have hrphase : (r.unit unitTG).phase = .none := by rw [hunit, hdone]
  have hout : ¬((twiceActedHeard.unit unitTG).state = .running ∨ (twiceActedHeard.unit unitTG).state = .paused) := by
    rw [hstate]
    decide
  rcases hpath with ⟨hsame, -⟩ | ⟨-, -, ⟨-, -, -, hends⟩ | ⟨hstarts, -⟩⟩ | ⟨⟨huse, -⟩, -⟩
  · exact hout (hsame.mpr (.inl hnext))
  · exact hnot (hends fun c hc => by rw [hchan]; exact hstacks c hc)
  · rw [hstarts] at hrphase
    cases hrphase
  · exact hout huse

end Sys2Proof.Machine
end

section
/-! What a trip entry leaves in the groups that it trips, and in the others (R79, R97, R98). -/

namespace Sys2Proof.Machine

variable {s t r e : State} {u : UnitId} {c : ChanId} {g h : Group} {R : Reach}

/-! ### Runs by what they reach -/

/-- A run of reactions within a reach: whatever such runs keep relates its two states. -/
def Reaches (R : Reach) (s t : State) : Prop := ∀ K, Tracks R K → K s t

theorem tracks_reaches (R : Reach) : Tracks R (Reaches R) where
  refl s _ hK := hK.refl s
  trans s t r hst htr _ hK := hK.trans s t r (hst _ hK) (htr _ hK)
  queue s who b _ hK := hK.queue s who b
  group s g f hg hf _ hK := hK.group s g f hg hf
  clear s k hk _ hK := hK.clear s k hk
  put s c x hc ht hs _ hK := hK.put s c x hc ht hs
  take s c x hc hx _ hK := hK.take s c x hc hx
  refold s c hc _ hK := hK.refold s c hc
  test s u hu _ hK := hK.test s u hu
  jump s c v hc ht _ hK := hK.jump s c v hc ht
  enter s u hg hu hrest _ hK := hK.enter s u hg hu hrest
  altered s u hg hu _ hK := hK.altered s u hg hu
  calcite s i hg hu _ hK := hK.calcite s i hg hu
  speed s hg hu _ hK := hK.speed s hg hu

theorem Reaches.trans (h : Reaches R s t) (k : Reaches R t r) : Reaches R s r := (tracks_reaches R).trans s t r h k

/-- Every group, the trips of those of `T` and the units of `U`; no cause of a unit in service becomes active. -/
abbrev Reach.sparing (T : Group → Prop) (U : UnitId → Prop) : Reach := ⟨fun _ => True, T, U, fun _ c => ¬c.isService⟩

/-- Every group, with a trip of any but one. -/
abbrev Reach.untripped (h : Group) : Reach := .sparing (· ≠ h) fun u => unitGroup u ≠ h

/-- Every group but one. -/
abbrev Reach.outside (h : Group) : Reach := ⟨(· ≠ h), fun _ => True, fun _ => True, fun _ c => ¬c.isService⟩

/-! ### What runs leave -/

/-- The time and the map stay, and the queues grow. -/
structure Onward (s t : State) : Prop where
  ms : t.ms = s.ms
  map : t.map = s.map
  grows : Grows s t

theorem Onward.refl (s : State) : Onward s s := ⟨rfl, rfl, .refl s⟩

theorem Onward.trans (h : Onward s t) (k : Onward t r) : Onward s r := ⟨k.ms.trans h.ms, k.map.trans h.map, h.grows.trans k.grows⟩

theorem Onward.of_ports (hms : t.ms = s.ms) (hmap : t.map = s.map) (hports : t.ports = s.ports) : Onward s t :=
  ⟨hms, hmap, grows_of_ports hports⟩

theorem tracks_onward (R : Reach) : Tracks R Onward where
  refl := Onward.refl
  trans _ _ _ := Onward.trans
  queue s who b := ⟨rfl, rfl, s.queue_grows who b⟩
  group _ _ _ _ _ := .of_ports rfl rfl rfl
  clear s k _ := by cases k <;> exact .of_ports rfl rfl rfl
  put _ _ _ _ _ _ := .of_ports rfl rfl rfl
  take _ _ _ _ _ := .of_ports rfl rfl rfl
  refold _ _ _ := .of_ports rfl rfl rfl
  test s u _ := ⟨(s.testUnit_reacts u).same.ms, (s.testUnit_reacts u).same.map, (s.testUnit_reacts u).grows⟩
  jump _ _ _ _ _ := .of_ports rfl rfl rfl
  enter _ _ _ _ _ := .of_ports rfl rfl rfl
  altered _ _ _ _ := .of_ports rfl rfl rfl
  calcite _ _ _ _ := .of_ports rfl rfl rfl
  speed _ _ _ := .of_ports rfl rfl rfl

/-- A guard that is CLEAR without a ceiling stays. -/
def ClearStays (k : GuardId) (s t : State) : Prop := (s.guard k).cleared = s.guard k → t.guard k = s.guard k

theorem tracks_clear (R : Reach) (k : GuardId) : Tracks R (ClearStays k) where
  refl _ _ := rfl
  trans s t r h h' hs := (h' (by rw [h hs]; exact hs)).trans (h hs)
  queue _ _ _ _ := rfl
  group _ _ _ _ _ _ := rfl
  clear s q _ hs := by
    rw [State.guard_setGuard]
    split
    case isTrue hk => rw [← hk]; exact hs
    case isFalse => rfl
  put _ _ _ _ _ _ _ := rfl
  take _ _ _ _ _ _ := rfl
  refold _ _ _ _ := rfl
  test s u _ _ := State.guard_of_swu (s.testUnit_within u).swu k
  jump _ _ _ _ _ _ := rfl
  enter _ _ _ _ _ _ := rfl
  altered _ _ _ _ _ := rfl
  calcite _ _ _ _ _ := by cases k <;> rfl
  speed _ _ _ _ := rfl

/-- A channel without a SCALE entry takes none. -/
def Unscaled (c : ChanId) (s t : State) : Prop := hasSource .scale (s.chan c).stack = false → hasSource .scale (t.chan c).stack = false

theorem Unscaled.of_stack (h : (t.chan c).stack = (s.chan c).stack) : Unscaled c s t := fun hs => h ▸ hs

theorem unscaled_modChan (s : State) (d : ChanId) {f : Channel → Channel}
    (h : hasSource .scale (s.chan d).stack = false → hasSource .scale (f (s.chan d)).stack = false) : Unscaled c s (s.modChan d f) := by
  intro hs
  rw [State.chan_modChan]
  split
  case isTrue hc => exact h (hc ▸ hs)
  case isFalse => exact hs

theorem hasSource_pushEntry_of_ne {x : Entry} {y : Source} {l : List Entry} (hne : x.source ≠ y) (hl : hasSource y l = false) :
    hasSource y (pushEntry x l) = false :=
  (hasSource_false _ _).mpr fun z hz => by
    rcases mem_pushEntry hz with rfl | hmem
    · exact hne
    · exact (hasSource_false _ _).mp hl z hmem

theorem tracks_unscaled (R : Reach) (c : ChanId) : Tracks R (Unscaled c) where
  refl _ h := h
  trans _ _ _ h k hs := k (h hs)
  queue _ _ _ h := h
  group _ _ _ _ _ h := h
  clear s k _ := .of_stack (by rw [s.setGuard_chan])
  put s d x _ _ hx := unscaled_modChan s d (hasSource_pushEntry_of_ne hx)
  take s d x _ _ := unscaled_modChan s d fun hl =>
    (hasSource_false _ _).mpr fun z hz => (hasSource_false _ _).mp hl z (List.mem_filter.mp hz).1
  refold s d _ := by
    rw [State.refold_eq]
    exact unscaled_modChan s d fun hl => by rwa [(Channel.retarget_spec ..).2.2.1]
  test s u _ := .of_stack ((s.testUnit_within u).stack c)
  jump s d v _ _ := unscaled_modChan s d fun hl => by rwa [(Channel.tripJump_spec _ v).2.2.1]
  enter _ _ _ _ _ h := h
  altered _ _ _ _ h := h
  calcite _ _ _ _ h := h
  speed _ _ _ h := h

/-- The calcite record of a well stays. -/
def CalStays (i : Fin 8) (s t : State) : Prop := t.swu.cal[i] = s.swu.cal[i]

/-- R139: the calcite record of a well stays where its unit is not forced. -/
theorem tracks_cal {i : Fin 8} (h : ¬R.unit (wellUnit i)) : Tracks R (CalStays i) where
  refl _ := rfl
  trans _ _ _ h k := k.trans h
  queue _ _ _ := rfl
  group _ _ _ _ _ := rfl
  clear s k _ := by cases k <;> rfl
  put _ _ _ _ _ _ := rfl
  take _ _ _ _ _ := rfl
  refold _ _ _ := rfl
  test s u _ := congrArg (fun w : Swu => w.cal[i]) (s.testUnit_within u).swu
  jump _ _ _ _ _ := rfl
  enter _ _ _ _ _ := rfl
  altered _ _ _ _ := rfl
  calcite s j _ hj := by
    have hij : j ≠ i := fun heq => h (heq ▸ hj)
    show (s.swu.cal.set j _)[i] = s.swu.cal[i]
    exact Vector.getElem_set_ne j.isLt i.isLt fun heq => hij (Fin.ext heq)
  speed _ _ _ := rfl

/-- The speed monitor stays. -/
def TsmStays (s t : State) : Prop := t.tsm = s.tsm

/-- R118: the speed monitor stays where the turbine-generator is not forced. -/
theorem tracks_tsmStays (h : ¬R.unit unitTG) : Tracks R TsmStays where
  refl _ := rfl
  trans _ _ _ h k := k.trans h
  queue _ _ _ := rfl
  group _ _ _ _ _ := rfl
  clear s k _ := by cases k <;> rfl
  put _ _ _ _ _ _ := rfl
  take _ _ _ _ _ := rfl
  refold _ _ _ := rfl
  test s u _ := (s.testUnit_within u).tsm
  jump _ _ _ _ _ := rfl
  enter _ _ _ _ _ := rfl
  altered _ _ _ _ := rfl
  calcite _ _ _ _ := rfl
  speed _ _ hu := (h hu).elim

/-! ### Channels under a TRIP entry -/

/-- A channel that stands at the value of a TRIP entry on top keeps it there; only its stack beneath may change. -/
def TripStands (c : ChanId) (s t : State) : Prop := ∀ l x, x.source = .trip → x.kind = .value → (s.chan c).stack = l ++ [x] →
  (s.chan c).target = x.value → (s.chan c).applied = x.value → ∃ l', t.chan c = { s.chan c with stack := l' ++ [x] }

theorem TripStands.of_chan (h : t.chan c = s.chan c) : TripStands c s t := fun l _ _ _ hstack _ _ =>
  ⟨l, by rw [h, ← hstack]⟩

theorem TripStands.trans (h : TripStands c s t) (k : TripStands c t r) : TripStands c s r := by
  intro l x hx hkind hstack htarget happlied
  obtain ⟨l', ht⟩ := h l x hx hkind hstack htarget happlied
  obtain ⟨l'', hr⟩ := k l' x hx hkind (by rw [ht]) (by rw [ht]; exact htarget) (by rw [ht]; exact happlied)
  exact ⟨l'', by rw [hr, ht]⟩

theorem tripStands_modChan (s : State) (d : ChanId) {f : List Entry → List Entry}
    (hf : ∀ l x, x.source = .trip → ∃ l', f (l ++ [x]) = l' ++ [x]) :
    TripStands c s (s.modChan d fun ch => { ch with stack := f ch.stack }) := by
  intro l x hx _ hstack _ _
  rw [State.chan_modChan]
  split
  case isTrue hc =>
    subst hc
    obtain ⟨l', hl'⟩ := hf l x hx
    exact ⟨l', by rw [hstack, hl']⟩
  case isFalse => exact ⟨l, by rw [← hstack]⟩

theorem insertBelowTrip_top (y x : Entry) : ∀ l : List Entry, x.source = .trip → ∃ l', insertBelowTrip y (l ++ [x]) = l' ++ [x]
  | [], hx => ⟨[y], by simp [insertBelowTrip, hx]⟩
  | z :: l, hx => by
    rw [List.cons_append, insertBelowTrip]
    split
    · exact ⟨y :: z :: l, rfl⟩
    · obtain ⟨l', hl'⟩ := insertBelowTrip_top y x l hx
      exact ⟨z :: l', by rw [hl']; rfl⟩

/-- R16: a push of another identity leaves a TRIP entry on top. -/
theorem pushEntry_under {y x : Entry} (l : List Entry) (hy : y.source ≠ .trip) (hx : x.source = .trip) :
    ∃ l', pushEntry y (l ++ [x]) = l' ++ [x] := by
  have hinsert (l : List Entry) : ∃ l', insertEntry y (l ++ [x]) = l' ++ [x] := by
    rw [insertEntry, if_neg hy]
    exact insertBelowTrip_top y x l hx
  unfold pushEntry
  split
  · exact ⟨replaceEntry y l, by simp [replaceEntry, hx, hy.symm]⟩
  · split
    case isTrue hfull =>
      cases l with
      | nil => exact absurd (show 4 ≤ 1 from hfull) (by decide)
      | cons z l => exact hinsert l
    case isFalse => exact hinsert l

theorem Channel.fold_under {ch : Channel} {l : List Entry} {x : Entry} (hstack : ch.stack = l ++ [x]) (hx : x.source = .trip)
    (hkind : x.kind = .value) (b : Bool) : ch.fold b = x.value := by
  unfold Channel.fold
  rw [hstack, foldStack_concat, if_pos (by simp [hx])]
  simp only [Entry.apply, hkind]

/-- R14: a channel under a TRIP entry stays at its value where no trip reaches it. -/
theorem tracks_tripStands (h : ¬R.trip (chanGroup c)) : Tracks R (TripStands c) where
  refl _ := .of_chan rfl
  trans _ _ _ := TripStands.trans
  queue _ _ _ := .of_chan rfl
  group _ _ _ _ _ := .of_chan rfl
  clear s k _ := .of_chan (s.setGuard_chan k _ c)
  put s d x _ ht _ := by
    by_cases hd : c = d
    · subst hd
      exact tripStands_modChan s c fun l y => pushEntry_under l fun hx => h (ht hx)
    · exact .of_chan ((s.chan_modChan d c _).trans (if_neg hd))
  take s d x _ hx := tripStands_modChan s d fun l y hy => ⟨removeEntry x l, by simp [removeEntry, hy, hx.symm]⟩
  refold s d _ := by
    intro l x hx hkind hstack htarget happlied
    have hfold := Channel.fold_under hstack hx hkind
    refine TripStands.of_chan (s.refold_keep c d ?_ fun _ _ => happlied.trans htarget.symm) l x hx hkind hstack htarget happlied
    exact htarget.trans (hfold _).symm
  test s v _ := by
    intro l x hx hkind hstack htarget happlied
    refine TripStands.of_chan ?_ l x hx hkind hstack htarget happlied
    by_cases hv : unitOf c = v
    · exact hv ▸ s.testUnit_keep c (htarget.trans (Channel.fold_under hstack hx hkind _).symm)
    · exact (s.testUnit_within v).chan c hv
  jump s d v _ ht := by
    have hd : c ≠ d := fun heq => h (heq ▸ ht)
    exact .of_chan ((s.chan_modChan d c _).trans (if_neg hd))
  enter _ _ _ _ _ := .of_chan rfl
  altered _ _ _ _ := .of_chan rfl
  calcite _ _ _ _ := .of_chan rfl
  speed _ _ _ := .of_chan rfl

end Sys2Proof.Machine
end

section
/-! The run of a trip-class arrival (R88, R97, R98): which groups it trips, and what it leaves of the others. -/

namespace Sys2Proof.Machine

variable {s t r q : State} {u : UnitId} {c : Cause} {g h k : Group} {R : Reach}

/-! ### What the trip of a group finds -/

/-- What the trip entry of a group reads is as it was, but for the record of its cause. -/
structure Before (h : Group) (s t : State) : Prop where
  unit : ∀ u, unitGroup u = h → t.unit u = s.unit u
  chan : ∀ c, chanGroup c = h → t.chan c = s.chan c
  guard : ∀ k : GuardId, chanGroup k.chan = h → t.guard k = s.guard k
  cal : h = .field → t.swu.cal = s.swu.cal
  tsm : h = .turbine → t.tsm = s.tsm
  tripList : (t.group h).tripList = (s.group h).tripList
  busy : (t.group h).busy = (s.group h).busy
  started : (t.group h).started = (s.group h).started
  onward : Onward s t

theorem Before.trans (a : Before h s t) (b : Before h t r) : Before h s r where
  unit u hu := (b.unit u hu).trans (a.unit u hu)
  chan c hc := (b.chan c hc).trans (a.chan c hc)
  guard k hk := (b.guard k hk).trans (a.guard k hk)
  cal hh := (b.cal hh).trans (a.cal hh)
  tsm hh := (b.tsm hh).trans (a.tsm hh)
  tripList := b.tripList.trans a.tripList
  busy := b.busy.trans a.busy
  started := b.started.trans a.started
  onward := a.onward.trans b.onward

/-- What changes the ports alone, and of the group its log and its level. -/
theorem Before.of_blocks (hunit : t.units = s.units) (hchan : t.ch = s.ch) (hswu : t.swu = s.swu) (htsm : t.tsm = s.tsm)
    (hgroup : ((t.group h).tripList, (t.group h).busy, (t.group h).started) =
      ((s.group h).tripList, (s.group h).busy, (s.group h).started)) (honward : Onward s t) : Before h s t := by
  obtain ⟨hlist, hbusy, hstarted⟩ := by simpa only [Prod.mk.injEq] using hgroup
  exact ⟨fun u _ => by simp only [State.unit, hunit], fun c _ => by simp only [State.chan, hchan],
    fun k _ => State.guard_of_swu hswu k, fun _ => by rw [hswu], fun _ => htsm, hlist, hbusy, hstarted, honward⟩

theorem Before.refl (s : State) : Before h s s := .of_blocks rfl rfl rfl rfl rfl (.refl s)

theorem before_modChan (s : State) {c : ChanId} (hc : chanGroup c ≠ h) (f : Channel → Channel) : Before h s (s.modChan c f) where
  unit _ _ := rfl
  chan d hd := (s.chan_modChan c d f).trans (if_neg fun heq : d = c => hc (heq ▸ hd))
  guard _ _ := rfl
  cal _ := rfl
  tsm _ := rfl
  tripList := rfl
  busy := rfl
  started := rfl
  onward := .of_ports rfl rfl rfl

theorem before_modUnit (s : State) {u : UnitId} (hu : unitGroup u ≠ h) (f : UnitRec → UnitRec) : Before h s (s.modUnit u f) where
  unit v hv := (s.unit_modUnit u v f).trans (if_neg fun heq : v = u => hu (heq ▸ hv))
  chan _ _ := rfl
  guard _ _ := rfl
  cal _ := rfl
  tsm _ := rfl
  tripList := rfl
  busy := rfl
  started := rfl
  onward := .of_ports rfl rfl rfl

/-- A run outside a group leaves what its trip entry reads. -/
theorem tracks_before (h : Group) : Tracks (.outside h) (Before h) where
  refl := Before.refl
  trans _ _ _ := Before.trans
  queue s who b := .of_blocks rfl rfl rfl rfl rfl ((tracks_onward .alarms).queue s who b)
  group s k f hk _ := by
    have hgroup : (s.modGroup k f).group h = s.group h := (s.group_modGroup k h f).trans (if_neg fun heq : h = k => hk heq.symm)
    exact .of_blocks rfl rfl rfl rfl (by rw [hgroup]) (.of_ports rfl rfl rfl)
  clear s k hk := by
    refine ⟨fun u _ => s.setGuard_unit k _ u, fun c _ => s.setGuard_chan k _ c, fun q hq => ?_, fun _ => ?_, fun _ => ?_, ?_, ?_,
      ?_, (tracks_onward .alarms).clear s k trivial⟩
    · rw [State.guard_setGuard, if_neg fun heq : q = k => hk (heq ▸ hq)]
    all_goals cases k <;> rfl
  put s c x hc _ _ := before_modChan s hc _
  take s c x hc _ := before_modChan s hc _
  refold s c hc := by
    rw [State.refold_eq]
    exact before_modChan s hc _
  jump s c v hc _ := before_modChan s hc _
  enter s u hu _ _ := before_modUnit s hu _
  altered s u hu _ := before_modUnit s hu _
  test s u hu := by
    have hwithin := s.testUnit_within u
    have hgroup : (s.testUnit u).group h = s.group h := s.testUnit_group_other fun heq => hu heq.symm
    refine ⟨fun v hv => hwithin.unit v fun heq => hu (heq ▸ hv), fun c hc => hwithin.chan c fun heq => hu (heq ▸ hc),
      fun k _ => State.guard_of_swu hwithin.swu k, fun _ => by rw [hwithin.swu], fun _ => hwithin.tsm, by rw [hgroup],
      by rw [hgroup], by rw [hgroup], (tracks_onward .alarms).test s u trivial⟩
  calcite s i hfield _ := ⟨fun _ _ => rfl, fun _ _ => rfl, fun k _ => by cases k <;> rfl, fun heq => absurd heq.symm hfield,
    fun _ => rfl, rfl, rfl, rfl, .of_ports rfl rfl rfl⟩
  speed s hturbine _ := ⟨fun _ _ => rfl, fun _ _ => rfl, fun _ _ => rfl, fun _ => rfl, fun heq => absurd heq.symm hturbine,
    rfl, rfl, rfl, .of_ports rfl rfl rfl⟩

theorem State.recordWith_ch (s : State) (g : Group) (c : Cause) (cls : CauseClass) (mom : Bool) (x : GroupRec × Recorded) :
    (s.recordWith g c cls mom x).ch = s.ch :=
  State.recordWith_frame (·.ch) (fun _ _ _ => rfl) (fun _ _ _ => rfl) s g c cls mom x

theorem GroupRec.arrive_rest (x : GroupRec) (c : Cause) (cls : CauseClass) (now : Word) :
    { (x.arrive c cls now).1 with log := x.log, unrecorded := x.unrecorded, logFull := x.logFull } = x := by
  unfold GroupRec.arrive
  split
  · rfl
  · split <;> rfl

theorem State.record_before (s : State) (h : Group) (c : Cause) (cls : CauseClass) : Before h s (s.record h c cls) := by
  have hframe {β : Type} (p : State → β) (hqueue : ∀ q who b, p (State.queue q who b) = p q)
      (hgroup : ∀ q g f, p (State.modGroup q g f) = p q) : p (s.record h c cls) = p s :=
    State.recordWith_frame p hqueue hgroup s h c cls false _
  have hrest := (s.group h).arrive_rest c cls s.ms
  refine .of_blocks (hframe (·.units) (fun _ _ _ => rfl) fun _ _ _ => rfl) (hframe (·.ch) (fun _ _ _ => rfl) fun _ _ _ => rfl)
    (hframe (·.swu) (fun _ _ _ => rfl) fun _ _ _ => rfl) (hframe (·.tsm) (fun _ _ _ => rfl) fun _ _ _ => rfl) ?_
    ⟨(s.record_goes h c cls).ms, s.recordWith_map h c cls false _, (s.record_goes h c cls).grows⟩
  rw [State.record, State.recordWith_group, if_pos rfl]
  exact (congrArg (fun x : GroupRec => (x.tripList, x.busy, x.started)) hrest :)

theorem State.setLevel_before (s : State) (h : Group) (l : Level) : Before h s (s.setLevel h l) :=
  .of_blocks rfl rfl rfl rfl (by rw [State.setLevel_group, if_pos rfl])
    ⟨(s.setLevel_goes h l).ms, rfl, (s.setLevel_goes h l).grows⟩

/-! ### Arrivals of trip class -/

theorem State.relevel_trip (s : State) {g : Group} (hl : (s.group g).level = .trip) : s.relevel g = s := if_pos (.inl hl)

theorem State.arriveWith_known (s : State) {f : State → State} (hc : s.classOf c = .trip) (hl : (s.group g).level = .trip) :
    s.arriveWith f g c = s.record g c .trip := by
  have hlevel := ((s.record_raws g c .trip).same.level g).mpr hl
  unfold State.arriveWith
  rw [hc]
  dsimp only
  rw [if_pos hlevel, State.relevel_trip _ hlevel]

theorem State.arriveWith_trips (s : State) {f : State → State} (hc : s.classOf c = .trip) (hl : (s.group g).level ≠ .trip)
    (hf : ((f (s.record g c .trip)).group g).level = .trip) : s.arriveWith f g c = f (s.record g c .trip) := by
  have hlevel := mt ((s.record_raws g c .trip).same.level g).mp hl
  unfold State.arriveWith
  rw [hc]
  dsimp only
  rw [if_neg hlevel, State.relevel_trip _ hf]

theorem State.tripSteps_level (s : State) (g : Group) : ((s.tripSteps g).group g).level = .trip :=
  ((s.tripSteps_reacts g).same.level g).mpr (by rw [State.setLevel_group, if_pos rfl])

theorem State.tripAlarm_level (s : State) (g : Group) : ((s.tripAlarm g).group g).level = .trip :=
  (State.propagateAlarm_logsKeep _ g g).level (s.tripSteps_level g)

/-- R98: FIELD_TRIPPED arrives in a group. -/
def State.fieldTrips (s : State) (k : Group) : State := s.arriveWith (fun q => q.tripAlarm k) k .fieldTripped

theorem State.fieldTrips_known (s : State) (hl : (s.group k).level = .trip) : s.fieldTrips k = s.record k .fieldTripped .trip :=
  s.arriveWith_known rfl hl

theorem State.fieldTrips_trips (s : State) (hl : (s.group k).level ≠ .trip) :
    s.fieldTrips k = ((s.record k .fieldTripped .trip).tripSteps k).propagateAlarm k :=
  s.arriveWith_trips rfl hl (State.tripAlarm_level _ k)

theorem State.arrive_known (s : State) (hc : s.classOf c = .trip) (hl : (s.group g).level = .trip) :
    s.arrive g c = s.record g c .trip := s.arriveWith_known hc hl

theorem State.arrive_trips (s : State) (hc : s.classOf c = .trip) (hl : (s.group g).level ≠ .trip) :
    s.arrive g c = ((s.record g c .trip).tripSteps g).propagate g :=
  s.arriveWith_trips hc hl (State.tripEntry_level _ g)

theorem State.arrive_field (s : State) (hc : s.classOf c = .trip) (hl : (s.group .field).level ≠ .trip) :
    s.arrive .field c = (((s.record .field c .trip).tripSteps .field).fieldTrips .turbine).fieldTrips .heat :=
  (s.arrive_trips hc hl).trans (if_pos rfl)

theorem State.arrive_other (s : State) (hc : s.classOf c = .trip) (hl : (s.group g).level ≠ .trip) (hg : g ≠ .field) :
    s.arrive g c = ((s.record g c .trip).tripSteps g).propagateAlarm g :=
  (s.arrive_trips hc hl).trans (if_neg hg)

/-! ### Their reach -/

theorem Tracks.record {K : State → State → Prop} (hK : Tracks R K) (s : State) (hg : R.group g) (hc : R.arrives g c)
    (cls : CauseClass) : K s (s.record g c cls) :=
  hK.recordWith s hg c cls false (GroupRec.arrive_quiet _ _ _ hc)

/-- R97: what the trip entry of a group reaches. -/
theorem Tracks.trips {K : State → State → Prop} (hK : Tracks R K) (s : State) (hlists : s.TripListsOk) (hg : R.group g)
    (ht : R.trip g) (hc : R.arrives g c) (hu : ∀ u ∈ groupUnits g, (s.unit u).atRest = false → R.unit u) :
    K s ((s.record g c .trip).tripSteps g) := by
  have hbefore := s.record_before g c .trip
  refine hK.trans _ _ _ (hK.record s hg hc .trip) (hK.tripSteps _ hg (fun x hx => ?_) fun u hmem hrest => ?_)
  · rw [hbefore.tripList] at hx
    rw [(hlists g).1 x hx]
    exact ⟨hg, ht⟩
  · rw [hbefore.unit u (unitGroup_of_mem hmem)] at hrest
    exact hu u hmem hrest

theorem Tracks.alarms {K : State → State → Prop} (hK : Tracks R K) (s : State) (hfield : R.group .field)
    (ha : ∀ c, ¬c.isService → R.arrives .field c) (k : Group) : K s (s.propagateAlarm k) := by
  cases k with
  | field => exact hK.refl s
  | turbine => exact hK.arriveAlarm s hfield (ha .tgTripped id)
  | heat => exact hK.arriveAlarm s hfield (ha .hxTripped id)

theorem Tracks.fieldTrips {K : State → State → Prop} (hK : Tracks R K) (s : State) (hlists : s.TripListsOk) (hfield : R.group .field)
    (hk : R.group k) (ht : (s.group k).level ≠ .trip → R.trip k) (ha : ∀ g c, ¬c.isService → R.arrives g c)
    (hu : (s.group k).level ≠ .trip → ∀ u ∈ groupUnits k, (s.unit u).atRest = false → R.unit u) : K s (s.fieldTrips k) := by
  by_cases hl : (s.group k).level = .trip
  · rw [s.fieldTrips_known hl]
    exact hK.record s hk (ha _ _ id) .trip
  · rw [s.fieldTrips_trips hl]
    exact hK.trans _ _ _ (hK.trips s hlists hk (ht hl) (ha _ _ id) (hu hl)) (hK.alarms _ hfield (ha .field) k)

theorem Turns.tripListsOk (h : Turns s t) (hs : s.TripListsOk) : t.TripListsOk :=
  h.keep (P := State.TripListsOk) (fun _ _ turn hq g => by rw [turn.tripList g]; exact hq g) hs

theorem Turns.logsOk (h : Turns s t) (hs : s.LogsOk) : t.LogsOk := h.keep (P := State.LogsOk) (fun _ _ => Turn.logsOk) hs

theorem State.trip_turns (s : State) (hc : s.classOf c = .trip) (hm : c.isMomentary = false) (hl : (s.group g).level ≠ .trip) :
    Turns s ((s.record g c .trip).tripSteps g) := (Turn.trip g c hl hc hm).turns

theorem State.fieldTrips_turns (s : State) (k : Group) : Turns s (s.fieldTrips k) := s.arriveTrip_turns k .fieldTripped rfl

/-! ### The trip of one group -/

/-- Among what happens from `s` to `r` a group is tripped: its trip entry finds what it reads as it was, and what follows trips
other groups alone. -/
def Tripped (h : Group) (s r : State) : Prop := (r.group h).level = .trip ∧
  ∃ q, Before h s q ∧ (s.LogsOk → q.LogsOk) ∧ Reaches (.untripped h) (q.tripSteps h) r

theorem Tripped.later (a : Tripped h s t) (b : Reaches (.untripped h) t r) (hl : (t.group h).level = .trip → (r.group h).level = .trip) :
    Tripped h s r := by
  obtain ⟨hlevel, q, hbefore, hlogs, hreach⟩ := a
  exact ⟨hl hlevel, q, hbefore, hlogs, hreach.trans b⟩

theorem Tripped.after (a : Tripped h t r) (b : Before h s t) (hl : s.LogsOk → t.LogsOk) : Tripped h s r := by
  obtain ⟨hlevel, q, hbefore, hlogs, hreach⟩ := a
  exact ⟨hlevel, q, b.trans hbefore, fun hs => hlogs (hl hs), hreach⟩

theorem Tripped.alarms (a : Tripped h s t) (k : Group) : Tripped h s (t.propagateAlarm k) :=
  a.later ((tracks_reaches _).alarms t trivial (fun _ h => h) k) (State.propagateAlarm_logsKeep t k h).level

theorem State.fieldTrips_level (s : State) (h k : Group) (hl : (s.group h).level = .trip) : ((s.fieldTrips k).group h).level = .trip :=
  (s.arriveWith_logsKeep k .fieldTripped (fun q => q.tripAlarm_logsKeep k) h).level hl

theorem Tripped.fieldTrips (a : Tripped h s t) (hlists : t.TripListsOk) (hk : k ≠ h) : Tripped h s (t.fieldTrips k) :=
  a.later ((tracks_reaches _).fieldTrips t hlists trivial trivial (fun _ => hk) (fun _ _ h => h)
    fun _ _ hu _ heq => hk ((unitGroup_of_mem hu).symm.trans heq)) (t.fieldTrips_level h k)

/-- R88: a cause of trip class joins logs in their form. -/
theorem State.record_logsOk (s : State) (k : Group) (hc : s.classOf c = .trip) (hm : c.isMomentary = false) (hs : s.LogsOk) :
    (s.record k c .trip).LogsOk := fun j => by
  rw [s.record_classOf k c .trip, s.record_group k j .trip hm hs, ← hc]
  split
  case isTrue heq => subst heq; exact (hs j).withArrival
  case isFalse => exact hs j

/-- R97: the first steps of a trip entry. -/
theorem State.trip_tripped (s : State) (h : Group) (hc : s.classOf c = .trip) (hm : c.isMomentary = false) :
    Tripped h s ((s.record h c .trip).tripSteps h) :=
  ⟨State.tripSteps_level _ h, s.record h c .trip, s.record_before h c .trip, s.record_logsOk h hc hm, (tracks_reaches _).refl _⟩

theorem State.fieldTrips_tripped (s : State) (hl : (s.group h).level ≠ .trip) : Tripped h s (s.fieldTrips h) := by
  rw [s.fieldTrips_trips hl]
  exact (s.trip_tripped h rfl rfl).alarms h

/-! ### Which groups an arrival trips -/

section
variable (s : State) (g : Group) (c : Cause) (hc : s.classOf c = .trip) (hm : c.isMomentary = false) (hs : ¬c.isService)
  (hlists : s.TripListsOk) (hg : (s.group g).level ≠ .trip)
include hc hm hs hlists hg

/-- R97, R98: what a trip-class arrival reaches where it trips its group: the groups of `T`, and of their units those of `U`. -/
theorem State.arrive_reaches {T : Group → Prop} {U : UnitId → Prop}
    (hT : ∀ k, (k = g ∨ g = .field) → (s.group k).level ≠ .trip → T k)
    (hU : ∀ q, (∀ u, ¬U u → UnitStays u s q) → ∀ k, (k = g ∨ g = .field) → (s.group k).level ≠ .trip →
      ∀ u ∈ groupUnits k, (q.unit u).atRest = false → U u) :
    Reaches (.sparing T U) s (s.arrive g c) := by
  have hK := tracks_reaches (.sparing T U)
  have hstay {q : State} (h : Reaches (.sparing T U) s q) : ∀ u, ¬U u → UnitStays u s q := fun u hu => h _ (tracks_unit hu)
  have hfirst : Reaches (.sparing T U) s ((s.record g c .trip).tripSteps g) :=
    hK.trips s hlists trivial (hT g (.inl rfl) hg) hs (hU s (fun _ _ _ => rfl) g (.inl rfl) hg)
  by_cases hfield : g = .field
  · subst hfield
    rw [s.arrive_field hc hg]
    have hturns := s.trip_turns hc hm hg
    have hlevel (q : State) (k : Group) (hq : GroupStays k s q) : (q.group k).level ≠ .trip → (s.group k).level ≠ .trip := by
      rw [show q.group k = s.group k from hq]; exact id
    have hout (k : Group) (hk : k ≠ .field) : GroupStays k s ((s.record .field c .trip).tripSteps .field) :=
      (tracks_group (R := .outside k) (g := k) fun h => h rfl).trips s hlists hk.symm trivial hs fun _ _ _ => trivial
    have hhere := hout .turbine nofun
    have hheat := hout .heat nofun
    generalize (s.record .field c .trip).tripSteps .field = p at hfirst hturns hhere hheat ⊢
    have hp := hturns.tripListsOk hlists
    have hsecond : Reaches (.sparing T U) s (p.fieldTrips .turbine) :=
      hK.trans _ _ _ hfirst (hK.fieldTrips p hp trivial trivial (fun hl => hT _ (.inr rfl) (hlevel p _ hhere hl))
        (fun _ _ h => h) fun hl => hU p (hstay hfirst) _ (.inr rfl) (hlevel p _ hhere hl))
    have hturns' := hturns.trans (p.fieldTrips_turns .turbine)
    have hheat' : GroupStays .heat s (p.fieldTrips .turbine) :=
      (tracks_group (R := .outside .heat) (g := .heat) fun h => h rfl).trans _ _ _ hheat
        ((tracks_group (R := .outside .heat) (g := .heat) fun h => h rfl).fieldTrips (k := .turbine) p hp nofun nofun (fun _ => trivial)
          (fun _ _ h => h) fun _ _ _ _ => trivial)
    generalize p.fieldTrips .turbine = q at hsecond hturns' hheat' ⊢
    exact hK.trans _ _ _ hsecond (hK.fieldTrips q (hturns'.tripListsOk hlists) trivial trivial
      (fun hl => hT _ (.inr rfl) (hlevel q _ hheat' hl)) (fun _ _ h => h)
      fun hl => hU q (hstay hsecond) _ (.inr rfl) (hlevel q _ hheat' hl))
  · rw [s.arrive_other hc hg hfield]
    exact hK.trans _ _ _ hfirst (hK.alarms _ trivial (fun _ h => h) g)

/-- A group that is not tripped. -/
theorem State.arrive_untripped (h : Group) (hh : ¬((h = g ∨ g = .field) ∧ (s.group h).level ≠ .trip)) :
    Reaches (.untripped h) s (s.arrive g c) := by
  have hne (k : Group) (hk : k = g ∨ g = .field) (hl : (s.group k).level ≠ .trip) : k ≠ h := fun heq =>
    hh ⟨heq ▸ hk, heq ▸ hl⟩
  exact s.arrive_reaches g c hc hm hs hlists hg hne fun _ _ k hk hl u hu _ => by
    rw [unitGroup_of_mem hu]
    exact hne k hk hl

/-- R79: a unit at rest. -/
theorem State.arrive_resting (u : UnitId) (hu : (s.unit u).atRest = true) :
    Reaches (.sparing (fun _ => True) (· ≠ u)) s (s.arrive g c) := by
  refine s.arrive_reaches g c hc hm hs hlists hg (fun _ _ _ => trivial) fun q hq _ _ _ v _ hrest heq => ?_
  have hkept : q.unit u = s.unit u := hq u (fun h => h rfl) (UnitRec.phase_of_atRest hu)
  rw [heq, hkept, hu] at hrest
  cases hrest

/-- R97, R98: a group that is tripped: what its trip entry finds is as it was, and what follows trips other groups alone. -/
theorem State.arrive_tripped (h : Group) (hh : (s.group h).level ≠ .trip) (hr : h = g ∨ g = .field) :
    Tripped h s (s.arrive g c) := by
  have hfirst := s.trip_tripped g hc hm
  by_cases hfield : g = .field
  · subst hfield
    rw [s.arrive_field hc hg]
    have hturns := s.trip_turns hc hm hg
    have hout {k : Group} (hk : k ≠ .field) : Before k s ((s.record .field c .trip).tripSteps .field) ∧
        GroupStays k s ((s.record .field c .trip).tripSteps .field) :=
      ⟨(tracks_before k).trips s hlists hk.symm trivial hs fun _ _ _ => trivial,
        (tracks_group (R := .outside k) (g := k) fun h => h rfl).trips s hlists hk.symm trivial hs fun _ _ _ => trivial⟩
    have hhere := @hout .turbine nofun
    have hheat := @hout .heat nofun
    generalize (s.record .field c .trip).tripSteps .field = p at hfirst hturns hhere hheat ⊢
    have hp := hturns.tripListsOk hlists
    have hlogs := hturns.logsOk
    have hturns' := hturns.trans (p.fieldTrips_turns .turbine)
    cases h with
    | field => exact (hfirst.fieldTrips (k := .turbine) hp nofun).fieldTrips (k := .heat) (hturns'.tripListsOk hlists) nofun
    | turbine =>
      have hlevel : (p.group .turbine).level ≠ .trip := by rw [show p.group .turbine = s.group .turbine from hhere.2]; exact hh
      exact ((p.fieldTrips_tripped hlevel).after hhere.1 hlogs).fieldTrips (k := .heat) (hturns'.tripListsOk hlists) nofun
    | heat =>
      have hnext : Before .heat p (p.fieldTrips .turbine) ∧ GroupStays .heat p (p.fieldTrips .turbine) :=
        ⟨(tracks_before .heat).fieldTrips (k := .turbine) p hp nofun nofun (fun _ => trivial) (fun _ _ h => h) fun _ _ _ _ => trivial,
          (tracks_group (R := .outside .heat) (g := .heat) fun h => h rfl).fieldTrips (k := .turbine) p hp nofun nofun (fun _ => trivial)
            (fun _ _ h => h) fun _ _ _ _ => trivial⟩
      have hlevel : ((p.fieldTrips .turbine).group .heat).level ≠ .trip := by
        rw [show (p.fieldTrips .turbine).group .heat = s.group .heat from hnext.2.trans hheat.2]
        exact hh
      exact (State.fieldTrips_tripped _ hlevel).after (hheat.1.trans hnext.1) hturns'.logsOk
  · obtain rfl : h = g := hr.resolve_right hfield
    rw [s.arrive_other hc hg hfield]
    exact hfirst.alarms h

end

end Sys2Proof.Machine
end

section
/-! The units of a group that is tripped, and what they lose with their service (R79, R81, R118, R139, R143). -/

namespace Sys2Proof.Machine

variable {s t r e q : State} {u : UnitId} {c : ChanId} {g h : Group} {R : Reach} {k : GuardId} {i : Fin 8} {l : List GuardReason}

/-! ### A guard that has been cleared -/

/-- From `s` to `t` a guard has been cleared, for one of the reasons. -/
structure GuardLeft (k : GuardId) (reasons : List GuardReason) (s t : State) : Prop where
  clear : (t.guard k).state = .clear
  guard : (s.guard k).state ≠ .clear → t.guard k = (s.guard k).cleared ∧ hasSource .scale (t.chan k.chan).stack = false ∧
    ∃ why ∈ reasons, ∀ m, (s.entry k.chan).readers.has m = true → (t.port m).Told ⟨s.ms, .guardState k.chan .clear why none⟩

theorem GuardLeft.later (a : GuardLeft k l s t) (b : Reaches R t r) (hstay : r.guard k = t.guard k) : GuardLeft k l s r where
  clear := hstay ▸ a.clear
  guard hs := by
    obtain ⟨hguard, hscale, why, hwhy, htold⟩ := a.guard hs
    exact ⟨hstay.trans hguard, b _ (tracks_unscaled R k.chan) hscale, why, hwhy, fun m hm => (b _ (tracks_onward R)).grows.told (htold m hm)⟩

/-- Where the guard was in service, no reaction moves it again. -/
theorem GuardLeft.lasts (a : GuardLeft k l s t) (b : Reaches R t r) (hs : (s.guard k).state ≠ .clear) : GuardLeft k l s r :=
  a.later b (b _ (tracks_clear R k) (by rw [(a.guard hs).1]; rfl))

theorem GuardLeft.before (a : GuardLeft k l t r) (hguard : t.guard k = s.guard k) (b : Onward s t) : GuardLeft k l s r where
  clear := a.clear
  guard hs := by
    obtain ⟨hcleared, hscale, why, hwhy, htold⟩ := a.guard (hguard ▸ hs)
    refine ⟨hguard ▸ hcleared, hscale, why, hwhy, fun m hm => ?_⟩
    rw [← b.ms]
    exact htold m (by rw [State.entry, b.map]; exact hm)

theorem GuardLeft.mono (a : GuardLeft k l s t) {l' : List GuardReason} (hl : l ⊆ l') : GuardLeft k l' s t :=
  ⟨a.clear, fun hs => by
    obtain ⟨hguard, hscale, why, hwhy, htold⟩ := a.guard hs
    exact ⟨hguard, hscale, why, hl hwhy, htold⟩⟩

/-- A guard that is CLEAR stays CLEAR. -/
def StateClear (k : GuardId) (s t : State) : Prop := (s.guard k).state = .clear → (t.guard k).state = .clear

theorem tracks_stateClear (R : Reach) (k : GuardId) : Tracks R (StateClear k) where
  refl _ h := h
  trans _ _ _ h h' hs := h' (h hs)
  queue _ _ _ h := h
  group _ _ _ _ _ h := h
  clear s q _ hs := by
    rw [State.guard_setGuard]
    split
    · rfl
    · exact hs
  put _ _ _ _ _ _ h := h
  take _ _ _ _ _ h := h
  refold _ _ _ h := h
  test s u _ hs := by rwa [State.guard_of_swu (s.testUnit_within u).swu k]
  jump _ _ _ _ _ h := h
  enter _ _ _ _ _ h := h
  altered _ _ _ _ h := h
  calcite _ _ _ _ h := by cases k <;> exact h
  speed _ _ _ h := h

/-- A guard that has been cleared stays so. -/
theorem GuardLeft.kept (a : GuardLeft k l s t) (b : Reaches R t r) : GuardLeft k l s r := by
  by_cases hs : (s.guard k).state = .clear
  · exact ⟨b _ (tracks_stateClear R k) a.clear, fun hne => absurd hs hne⟩
  · exact a.lasts b hs

theorem State.guardOff_left (s : State) (k : GuardId) : GuardLeft k [.service] s (s.guardOff k) := by
  by_cases hs : (s.guard k).state = .clear
  · have hstay : s.guardOff k = s := if_pos hs
    exact ⟨by rw [hstay]; exact hs, fun hne => absurd hs hne⟩
  · obtain ⟨hguard, hstack, _, _, _, _, htold⟩ := s.guardOff_spec k hs
    have hcleared : (s.guardOff k).guard k = (s.guard k).cleared := by rw [hguard, if_pos rfl]
    refine ⟨by rw [hcleared]; rfl, fun _ => ⟨hcleared, ?_, .service, by simp, htold⟩⟩
    rw [hstack, if_pos rfl]
    exact hasSource_removeEntry

/-! ### A unit that leaves service -/

/-- What a unit that has left service has lost stays lost. -/
theorem LeftService.later (a : LeftService e t u l) (b : Reaches R t r) (hu : ¬R.unit u) (ha : ∀ g c, R.arrives g c → ¬c.isService) :
    LeftService e r u l := by
  have hguard (k : GuardId) (hk : unitGuard u = some k) : GuardLeft k l e r := GuardLeft.kept ⟨a.clear k hk, a.guard k hk⟩ b
  have hquiet : QuietBut R.arrives t r := b _ (tracks_quiet R)
  refine ⟨fun k hk => (hguard k hk).clear, fun k hk => (hguard k hk).guard, fun i hi => ?_, fun htg => ?_⟩
  · obtain ⟨hcal, hholds⟩ := a.calcite i hi
    have hkept : CalStays i t r := b _ (tracks_cal (by rwa [(wellUnit_of_wellOf hi).1]))
    exact ⟨hkept.trans hcal, fun hactive hlogs hr => (hquiet _ _ hr).elim (hholds hactive hlogs) fun h => ha _ _ h trivial⟩
  · obtain ⟨htsm, hholds⟩ := a.speed htg
    have hkept : TsmStays t r := b _ (tracks_tsmStays (by rwa [← htg]))
    exact ⟨hkept.trans htsm, fun hlost hlogs hr => (hquiet _ _ hr).elim (hholds hlost hlogs) fun h => ha _ _ h trivial⟩

/-- R81, R118: the state in which a unit has lost what it loses with its service. -/
def State.outOfService (s : State) (u : UnitId) : State := (s.leaveService u).speedLeave u

/-- Reactions without a trip in which no cause becomes active. -/
abbrev Reach.ends : Reach := ⟨fun _ => True, fun _ => False, fun _ => True, fun _ _ => False⟩

theorem State.regainSpeed_ends (s : State) : Reaches .ends s s.regainSpeed :=
  (tracks_reaches .ends).speedLeave s (u := unitTG) trivial trivial

theorem State.speedLeave_ends (s : State) (u : UnitId) : Reaches .ends s (s.speedLeave u) :=
  (tracks_reaches .ends).speedLeave s trivial trivial

theorem State.speedLeave_swu (s : State) (u : UnitId) : (s.speedLeave u).swu = s.swu := by
  unfold State.speedLeave
  split
  · exact s.regainSpeed_spec.2.1
  · rfl

theorem State.guardOff_blocks (s : State) (k : GuardId) : (s.guardOff k).swu.cal = s.swu.cal ∧ (s.guardOff k).tsm = s.tsm := by
  by_cases hs : (s.guard k).state = .clear
  · have hstay : s.guardOff k = s := if_pos hs
    rw [hstay]
    exact ⟨rfl, rfl⟩
  · obtain ⟨_, _, hcal, htsm, _⟩ := s.guardOff_spec k hs
    exact ⟨hcal, htsm⟩

/-- R81: what a unit that leaves service does to its guard. -/
def State.unitGuardOff (s : State) (u : UnitId) : State :=
  match unitGuard u with
  | some k => s.guardOff k
  | none => s

theorem State.unitGuardOff_some (s : State) (hk : unitGuard u = some k) : s.unitGuardOff u = s.guardOff k := by
  rw [State.unitGuardOff, hk]

theorem State.unitGuardOff_blocks (s : State) (u : UnitId) :
    (s.unitGuardOff u).swu.cal = s.swu.cal ∧ (s.unitGuardOff u).tsm = s.tsm := by
  unfold State.unitGuardOff
  split
  · exact s.guardOff_blocks _
  · exact ⟨rfl, rfl⟩

theorem State.leaveService_well (s : State) (hi : wellOf u = some i) : s.leaveService u = (s.unitGuardOff u).calciteOff i := by
  unfold State.leaveService
  rw [hi]
  rfl

theorem State.leaveService_other (s : State) (hi : wellOf u = none) : s.leaveService u = s.unitGuardOff u := by
  unfold State.leaveService
  rw [hi]
  rfl

theorem State.leaveService_ends (s : State) (u : UnitId) : Reaches .ends (s.unitGuardOff u) (s.leaveService u) := by
  cases hi : wellOf u with
  | none => rw [s.leaveService_other hi]; exact (tracks_reaches .ends).refl _
  | some i => rw [s.leaveService_well hi]; exact (tracks_reaches .ends).calciteOff _ trivial trivial

theorem State.leaveService_tsm (s : State) (u : UnitId) : (s.leaveService u).tsm = s.tsm := by
  cases hi : wellOf u with
  | none => rw [s.leaveService_other hi]; exact (s.unitGuardOff_blocks u).2
  | some i => rw [s.leaveService_well hi]; exact (State.calciteOff_spec _ i).2.1.trans (s.unitGuardOff_blocks u).2

/-- R81, R118, R139, R143: a unit loses its guard, its CALCITE and SPEED_LOST. -/
theorem State.outOfService_left (s : State) (u : UnitId) : LeftService s (s.outOfService u) u [.service] := by
  have hends : Reaches .ends (s.unitGuardOff u) (s.outOfService u) := (s.leaveService_ends u).trans (State.speedLeave_ends _ u)
  have hguard (k : GuardId) (hk : unitGuard u = some k) : GuardLeft k [.service] s (s.outOfService u) :=
    (s.unitGuardOff_some hk ▸ s.guardOff_left k).kept hends
  refine ⟨fun k hk => (hguard k hk).clear, fun k hk => (hguard k hk).guard, fun i hi => ?_, fun htg => ?_⟩
  · obtain ⟨hswu, _, hholds⟩ := (s.unitGuardOff u).calciteOff_spec i
    rw [← s.leaveService_well hi] at hswu hholds
    obtain ⟨hcal, _⟩ := s.unitGuardOff_blocks u
    have hfinal : (s.outOfService u).swu.cal = s.swu.cal.set i { s.swu.cal[i] with active := false } := by
      rw [State.outOfService, State.speedLeave_swu, hswu, hcal]
    refine ⟨by rw [hfinal]; exact Vector.getElem_set_self i.isLt, fun hactive hlogs hr => ?_⟩
    have hquiet : QuietBut (fun _ _ => False) (s.leaveService u) (s.outOfService u) := State.speedLeave_ends _ u _ (tracks_quiet .ends)
    refine hholds (by rw [hcal]; exact hactive) ?_ ((hquiet _ _ hr).resolve_right id)
    unfold State.unitGuardOff
    split
    · exact (s.guardOff_reacts _).logsOk hlogs
    · exact hlogs
  · have hspeed : s.outOfService u = (s.leaveService u).regainSpeed := if_pos htg
    obtain ⟨htsm, _, hholds⟩ := (s.leaveService u).regainSpeed_spec
    rw [s.leaveService_tsm u] at htsm hholds
    exact ⟨hspeed ▸ htsm, fun hlost hlogs => hspeed ▸ hholds hlost ((s.leaveService_reacts u).logsOk hlogs)⟩

end Sys2Proof.Machine
end

section
/-! The trip entry of a group, unit by unit (R79, R97). -/

namespace Sys2Proof.Machine

variable {s t r e q : State} {u v : UnitId} {c : ChanId} {g h : Group} {R : Reach} {k : GuardId} {i : Fin 8} {l : List GuardReason}

/-! ### The trip list and the guards -/

/-- R144: a guard is as it was, or has been cleared by the discard of its SCALE entry. -/
def Spent (k : GuardId) (s t : State) : Prop := t.guard k = s.guard k ∨ GuardLeft k [.overflow] s t

theorem Spent.before (a : Spent k t r) (hguard : t.guard k = s.guard k) (b : Onward s t) : Spent k s r :=
  a.imp (·.trans hguard) fun h => h.before hguard b

theorem Spent.trans (a : Spent k s t) (b : Spent k t r) (honward : Onward s t) (hreach : Reaches R t r) : Spent k s r := by
  rcases a with hsame | hleft
  · exact b.before hsame honward
  · exact .inr (hleft.kept hreach)

/-- What the push of a TRIP entry reaches. -/
abbrev Reach.pushes : Reach := ⟨fun _ => True, fun _ => True, fun _ => False, fun _ _ => False⟩

theorem State.pushTrip_reaches (s : State) (c : ChanId) (v : Nat) : Reaches .pushes s (s.pushTrip c v) :=
  (tracks_reaches .pushes).pushTrip s trivial trivial v

theorem State.pushTrip_spent (s : State) (c : ChanId) (v : Nat) (hok : StackOk (s.chan c).stack) (k : GuardId) :
    Spent k s (s.pushTrip c v) := by
  have hguard : (s.pushTrip c v).guard k = (s.pushRaw c ⟨.trip, .value, v, s.ms⟩).guard k := rfl
  rw [State.pushRaw_guard] at hguard
  split at hguard
  case isFalse => exact .inl hguard
  case isTrue hlost =>
    obtain ⟨⟨z, hz, hscale⟩, rfl⟩ := hlost
    refine .inr ⟨by rw [hguard]; rfl, fun hs => ⟨hguard, ?_, .overflow, by simp, fun m hm => ?_⟩⟩
    · rw [State.pushTrip_stack, if_pos rfl, ← hscale]
      exact hasSource_pushEntry_discarded hok hz
    · have htold := ((s.discarded_scale k.chan z hscale).2 k (guardOf_eq_some.mpr rfl)).2 hs m hm
      unfold State.pushTrip State.pushRaw
      rw [hz]
      exact htold

/-- R97: the pushes of the trip list leave a guard as it was, or clear it. -/
theorem State.pushTripList_spent (s : State) (g : Group) (hok : ∀ x ∈ (s.group g).tripList, StackOk (s.chan x.channel).stack)
    (k : GuardId) : Spent k s (s.pushTripList g) := by
  have hpush := State.each_induct
    (P := fun t => Spent k s t ∧ Onward s t ∧ ∀ x ∈ (s.group g).tripList, StackOk (t.chan x.channel).stack) (s.group g).tripList
    (fun x q => q.pushTrip x.channel x.value) (fun x hx t ⟨hspent, honward, hstack⟩ => by
      have hreach := t.pushTrip_reaches x.channel x.value
      refine ⟨hspent.trans (t.pushTrip_spent x.channel x.value (hstack x hx) k) honward hreach,
        honward.trans (hreach _ (tracks_onward _)), fun y hy => ?_⟩
      rw [State.pushTrip_stack]
      split
      · exact (hstack x hx).push fun _ => rfl
      · exact hstack y hy)
    s ⟨.inl rfl, .refl s, hok⟩
  exact hpush.1

/-! ### A unit of the group -/

theorem State.unitGuardOff_unitStays (s : State) (u v : UnitId) : UnitStays v s (s.unitGuardOff u) := by
  unfold State.unitGuardOff
  split
  · exact (tracks_unit (R := .alarms) id).guardOff s trivial
  · exact fun _ => rfl

theorem State.unitGuardOff_ends (s : State) (u : UnitId) : Reaches .ends s (s.unitGuardOff u) := by
  unfold State.unitGuardOff
  split
  · exact (tracks_reaches .ends).guardOff s trivial
  · exact (tracks_reaches .ends).refl s

theorem State.calciteOff_unitStays (s : State) (i : Fin 8) (v : UnitId) : UnitStays v s (s.calciteOff i) := by
  have hK : Tracks .alarms (UnitStays v) := tracks_unit id
  unfold State.calciteOff
  split
  · exact fun hv => hK.deactivate (s.modSwu fun w => { w with cal := w.cal.set i { w.cal[i] with active := false } }) trivial _ hv
  · exact fun _ => rfl

theorem State.speedLeave_unitStays (s : State) (u v : UnitId) : UnitStays v s (s.speedLeave u) := by
  have hK : Tracks .alarms (UnitStays v) := tracks_unit id
  unfold State.speedLeave State.regainSpeed
  split
  · split
    · exact fun hv => hK.deactivate (s.modTsm fun x => { x with speedLost := false }) trivial _ hv
    · exact fun _ => rfl
  · exact fun _ => rfl

/-- A unit that loses its service stays in its state. -/
theorem State.outOfService_unitStays (s : State) (u v : UnitId) : UnitStays v s (s.outOfService u) := by
  have hK : Tracks .alarms (UnitStays v) := tracks_unit id
  refine hK.trans _ _ _ ?_ (State.speedLeave_unitStays _ u v)
  cases hi : wellOf u with
  | none => rw [s.leaveService_other hi]; exact s.unitGuardOff_unitStays u v
  | some i => rw [s.leaveService_well hi]; exact hK.trans _ _ _ (s.unitGuardOff_unitStays u v) (State.calciteOff_unitStays _ i v)

/-- R143: another guard stays. -/
theorem State.outOfService_guard (s : State) (hk : unitGuard u ≠ some k) : (s.outOfService u).guard k = s.guard k := by
  have hoff : (s.unitGuardOff u).guard k = s.guard k := by
    unfold State.unitGuardOff
    split
    case h_1 q hq =>
      by_cases hs : (s.guard q).state = .clear
      · rw [show s.guardOff q = s from if_pos hs]
      · have hne : k ≠ q := fun heq => hk (heq ▸ hq)
        rw [(s.guardOff_spec q hs).1, if_neg hne]
    case h_2 => rfl
  refine (State.guard_of_swu (State.speedLeave_swu _ u) k).trans (Eq.trans ?_ hoff)
  cases hi : wellOf u with
  | none => rw [s.leaveService_other hi]
  | some i =>
    rw [s.leaveService_well hi]
    have hswu := ((s.unitGuardOff u).calciteOff_spec i).1
    cases k <;> simp only [State.guard, hswu]

/-- R79: the records of a forced unit. -/
def State.forcedNotes (s : State) (u : UnitId) (x : UnitRec) : State :=
  ((if x.params.tripState = x.state then s.modUnit u fun y => { y with protAltered := true }
    else (s.modUnit u fun y => { y with protAltered := true }).queueUnitState u x.params.tripState .forced)).queueUnit u
    (.unitForced u x.phase x.state x.params.tripState)

theorem State.forced_eq (s : State) (u : UnitId) {x : UnitRec} (h : x.atRest = false) :
    s.forced u x = (s.outOfService u).forcedNotes u x := if_neg (by rw [h]; simp)

theorem State.forced_rest (s : State) (u : UnitId) {x : UnitRec} (h : x.atRest = true) : s.forced u x = s := if_pos h

theorem State.forcedNotes_frame {β : Type} (p : State → β) (hqueue : ∀ s who b, p (State.queue s who b) = p s) (s : State) (u : UnitId)
    (x : UnitRec) : p (s.forcedNotes u x) = p (s.modUnit u fun y => { y with protAltered := true }) := by
  unfold State.forcedNotes State.queueUnitState State.queueUnit State.queueReaders
  rw [hqueue]
  split
  · rfl
  · exact hqueue _ _ _

theorem State.forcedNotes_grows (s : State) (u : UnitId) (x : UnitRec) : Grows s (s.forcedNotes u x) := by
  unfold State.forcedNotes State.queueUnitState State.queueUnit State.queueReaders
  split
  · exact State.queue_grows (s.modUnit u _) _ _
  · exact (State.queue_grows (s.modUnit u _) _ _).trans (State.queue_grows _ _ _)

/-- R79, R83: the records of a forced unit are told to the readers. -/
theorem State.forcedNotes_told (s : State) (u : UnitId) (x : UnitRec) {m : Master}
    (hm : (s.entry (principal u)).readers.has m = true) :
    (x.params.tripState ≠ x.state → ((s.forcedNotes u x).port m).Told ⟨s.ms, .unitState u x.params.tripState .forced⟩) ∧
      ((s.forcedNotes u x).port m).Told ⟨s.ms, .unitForced u x.phase x.state x.params.tripState⟩ := by
  unfold State.forcedNotes State.queueUnitState State.queueUnit State.queueReaders
  by_cases hx : x.params.tripState = x.state
  · rw [if_pos hx]
    exact ⟨fun hne => absurd hx hne, State.queue_told (s.modUnit u _) _ _ m hm⟩
  · rw [if_neg hx]
    exact ⟨fun _ => (State.queue_grows _ _ _).told (State.queue_told (s.modUnit u _) _ _ m hm),
      State.queue_told (State.queue (s.modUnit u _) _ _) _ _ m hm⟩

theorem LeftService.frame (a : LeftService e t u l) (hch : r.ch = t.ch) (hswu : r.swu = t.swu) (htsm : r.tsm = t.tsm)
    (hgroups : r.groups = t.groups) (hgrow : Grows t r) : LeftService e r u l where
  clear k hk := by rw [State.guard_of_swu hswu]; exact a.clear k hk
  guard k hk hs := by
    obtain ⟨hguard, hscale, why, hwhy, htold⟩ := a.guard k hk hs
    rw [State.guard_of_swu hswu, State.chan, hch]
    exact ⟨hguard, hscale, why, hwhy, fun m hm => hgrow.told (htold m hm)⟩
  calcite i hi := by rw [hswu, State.group, hgroups]; exact a.calcite i hi
  speed htg := by rw [htsm, State.group, hgroups]; exact a.speed htg

/-- R79: from `e` to `t` a unit has been forced. -/
structure Forced (e t : State) (u : UnitId) : Prop where
  left : LeftService e t u [.service, .overflow]
  unit : t.unit u = { (e.unit u).tripped with protAltered := true }
  told : ∀ m, (e.entry (principal u)).readers.has m = true →
    ((e.unit u).params.tripState ≠ (e.unit u).state → (t.port m).Told ⟨e.ms, .unitState u (e.unit u).params.tripState .forced⟩) ∧
    (t.port m).Told ⟨e.ms, .unitForced u (e.unit u).phase (e.unit u).state (e.unit u).params.tripState⟩

theorem Forced.later (a : Forced e t u) (b : Reaches R t r) (hu : ¬R.unit u) (ha : ∀ g c, R.arrives g c → ¬c.isService) :
    Forced e r u where
  left := a.left.later b hu ha
  unit := (b _ (tracks_unit hu) (by rw [a.unit]; rfl)).trans a.unit
  told m hm := ⟨fun hne => (b _ (tracks_onward R)).grows.told ((a.told m hm).1 hne),
    (b _ (tracks_onward R)).grows.told (a.told m hm).2⟩

/-- What the forcing of a unit finds, from `e` on: the unit in its trip-list state, and what it will lose. -/
structure Ready (e y : State) (u : UnitId) : Prop where
  unit : y.unit u = (e.unit u).tripped
  guard : ∀ k, unitGuard u = some k → Spent k e y
  cal : ∀ i, wellOf u = some i → CalStays i e y
  tsm : u = unitTG → TsmStays e y
  logs : e.LogsOk → y.LogsOk
  onward : Onward e y

/-- R79: the forcing of a unit that was in service or in a phase. -/
theorem Ready.forced {y : State} (a : Ready e y u) (hrest : (e.unit u).atRest = false) : Forced e (y.forced u (e.unit u)) u := by
  have hleft := (y.outOfService_left u).frame (r := y.forced u (e.unit u))
    (by rw [y.forced_eq u hrest]; exact State.forcedNotes_frame (·.ch) (fun _ _ _ => rfl) _ u _)
    (by rw [y.forced_eq u hrest]; exact State.forcedNotes_frame (·.swu) (fun _ _ _ => rfl) _ u _)
    (by rw [y.forced_eq u hrest]; exact State.forcedNotes_frame (·.tsm) (fun _ _ _ => rfl) _ u _)
    (by rw [y.forced_eq u hrest]; exact State.forcedNotes_frame (·.groups) (fun _ _ _ => rfl) _ u _)
    (by rw [y.forced_eq u hrest]; exact State.forcedNotes_grows _ u _)
  have hreach : Reaches .ends y (y.forced u (e.unit u)) := (tracks_reaches .ends).forced y trivial fun _ => trivial
  have hguard (k : GuardId) (hk : unitGuard u = some k) : GuardLeft k [.service, .overflow] e (y.forced u (e.unit u)) := by
    rcases a.guard k hk with hsame | hgone
    · have hnow : GuardLeft k [.service] y (y.forced u (e.unit u)) := ⟨hleft.clear k hk, hleft.guard k hk⟩
      exact (hnow.before hsame a.onward).mono (by simp)
    · exact (hgone.kept hreach).mono (by simp)
  refine ⟨⟨fun k hk => (hguard k hk).clear, fun k hk => (hguard k hk).guard, fun i hi => ?_, fun htg => ?_⟩, ?_, fun m hm => ?_⟩
  · have hcal : y.swu.cal[i] = e.swu.cal[i] := a.cal i hi
    obtain ⟨hover, hholds⟩ := hleft.calcite i hi
    rw [hcal] at hover hholds
    exact ⟨hover, fun hactive hlogs => hholds hactive (a.logs hlogs)⟩
  · have htsm : y.tsm = e.tsm := a.tsm htg
    obtain ⟨hover, hholds⟩ := hleft.speed htg
    rw [htsm] at hover hholds
    exact ⟨hover, fun hlost hlogs => hholds hlost (a.logs hlogs)⟩
  · have hunit : (y.outOfService u).unit u = y.unit u := y.outOfService_unitStays u u (by rw [a.unit]; rfl)
    rw [y.forced_eq u hrest, State.forcedNotes_frame (fun p => p.unit u) (fun _ _ _ => rfl), State.unit_modUnit, if_pos rfl, hunit, a.unit]
  · have hout : Onward y (y.outOfService u) :=
      ((y.unitGuardOff_ends u).trans ((y.leaveService_ends u).trans (State.speedLeave_ends _ u))) _ (tracks_onward .ends)
    have hall := a.onward.trans hout
    rw [y.forced_eq u hrest, ← hall.ms]
    exact State.forcedNotes_told _ u _ (by rw [State.entry, hall.map]; exact hm)

end Sys2Proof.Machine
end

section
/-! The first steps of a trip entry, for the units and the channels of its group (R14, R79, R97). -/

namespace Sys2Proof.Machine

variable {s t r e q : State} {u v : UnitId} {c : ChanId} {g h : Group} {R : Reach} {k : GuardId}

/-! ### Units -/

theorem State.enterTripState_unit (s : State) (u : UnitId) :
    (s.enterTripState u).unit u = if (s.unit u).atRest = true then s.unit u else (s.unit u).tripped := by
  unfold State.enterTripState
  split
  case isTrue => rfl
  case isFalse => rw [State.refoldUnit_unit, State.unit_modUnit, if_pos rfl]; rfl

theorem State.entered_unit (s : State) {l : List UnitId} (hl : l.Nodup) (hu : u ∈ l) (hrest : (s.unit u).atRest = false) :
    (s.entered l).unit u = (s.unit u).tripped := by
  refine State.each_once (P := fun q => q.unit u = (s.unit u).tripped) (Q := fun q => q.unit u = s.unit u) hl hu
    (fun v _ hv q hq => (q.enterTripState_unit_other hv.symm).trans hq) (fun q hq => ?_)
    (fun v _ hv q hq => (q.enterTripState_unit_other hv.symm).trans hq) s rfl
  rw [State.enterTripState_unit, hq, hrest]
  rfl

theorem State.entered_frame {β : Type} (p : State → β) (hunit : ∀ s u f, p (State.modUnit s u f) = p s)
    (hchan : ∀ s c f, p (State.modChan s c f) = p s) (s : State) (l : List UnitId) : p (s.entered l) = p s := by
  have hrefold (q : State) (c : ChanId) : p (q.refold c) = p q := by rw [State.refold_eq]; exact hchan _ _ _
  have henter (q : State) (u : UnitId) : p (q.enterTripState u) = p q := by
    unfold State.enterTripState
    split
    · rfl
    · exact (State.each_frame p (unitChannels u) (fun c q => q.refold c) (fun c q => hrefold q c) _).trans (hunit _ _ _)
  exact State.each_frame p l (fun u q => q.enterTripState u) (fun u q => henter q u) s

/-- What the trip entry of a group does before its units are forced. -/
def State.listed (s : State) (h : Group) : State := (s.setLevel h .trip).pushTripList h

theorem State.tripSteps_eq (s : State) (h : Group) : s.tripSteps h = ((s.listed h).allForced h).abandonGo h := rfl

theorem State.setLevel_logsOk (s : State) (h : Group) (l : Level) (hs : s.LogsOk) : (s.setLevel h l).LogsOk := fun k =>
  (hs k).congr (s.setLevel_sameLog h k l)

theorem State.pushTripList_reaches (s : State) (h : Group) : Reaches .pushes s (s.pushTripList h) :=
  (tracks_reaches .pushes).pushTripList s h fun _ _ => ⟨trivial, trivial⟩

theorem State.setLevel_reaches (s : State) (g : Group) (l : Level) (hg : R.group g) : Reaches R s (s.setLevel g l) :=
  (tracks_reaches R).setLevel s hg l

theorem State.listed_reaches (s : State) (h : Group) : Reaches .pushes s (s.listed h) :=
  (s.setLevel_reaches h .trip trivial).trans (State.pushTripList_reaches _ h)

theorem State.listed_unit (s : State) (h : Group) (u : UnitId) : (s.listed h).unit u = s.unit u :=
  State.pushTripList_unit _ h u

theorem State.listed_spent (s : State) (h : Group) (hok : ∀ x ∈ (s.group h).tripList, StackOk (s.chan x.channel).stack) (k : GuardId) :
    Spent k s (s.listed h) := by
  have hbefore := s.setLevel_before h .trip
  refine (State.pushTripList_spent (s.setLevel h .trip) h ?_ k).before rfl hbefore.onward
  rw [hbefore.tripList]
  exact hok

theorem State.entered_swu (s : State) (l : List UnitId) : (s.entered l).swu = s.swu :=
  s.entered_frame (·.swu) (fun _ _ _ => rfl) (fun _ _ _ => rfl) l

theorem State.entered_onward (s : State) (l : List UnitId) : Onward s (s.entered l) :=
  .of_ports (s.entered_frame (·.ms) (fun _ _ _ => rfl) (fun _ _ _ => rfl) l)
    (s.entered_frame (·.map) (fun _ _ _ => rfl) (fun _ _ _ => rfl) l)
    (s.entered_frame (·.ports) (fun _ _ _ => rfl) (fun _ _ _ => rfl) l)

theorem State.entered_reaches (s : State) (g : Group) : Reaches .ends s (s.entered (groupUnits g)) :=
  (tracks_reaches .ends).entered (g := g) trivial _ s (groupUnits_nodup g) fun _ hu => ⟨unitGroup_of_mem hu, fun _ => trivial⟩

/-- R79: the units of the group are in their trip-list states before the first is told. -/
theorem State.entered_ready (s : State) (h : Group) (hok : ∀ x ∈ (s.group h).tripList, StackOk (s.chan x.channel).stack)
    (hu : unitGroup u = h) (hrest : (s.unit u).atRest = false) : Ready s ((s.listed h).entered (groupUnits h)) u := by
  have hlisted := s.listed_reaches h
  have hswu := (s.listed h).entered_swu (groupUnits h)
  have honward := hlisted _ (tracks_onward .pushes)
  have hunit := s.listed_unit h u
  refine ⟨?_, fun k _ => ?_, fun i _ => ?_, fun _ => ?_, fun hlogs => ?_, honward.trans (State.entered_onward _ _)⟩
  · rw [State.entered_unit _ (groupUnits_nodup h) (hu ▸ mem_groupUnits u) (hunit ▸ hrest), hunit]
  · exact (s.listed_spent h hok k).trans (.inl (State.guard_of_swu hswu k)) honward ((s.listed h).entered_reaches h)
  · have hcal : CalStays i s (s.listed h) := hlisted _ (tracks_cal (R := .pushes) id)
    exact (congrArg (fun w : Swu => w.cal[i]) hswu).trans hcal
  · have htsm : TsmStays s (s.listed h) := hlisted _ (tracks_tsmStays (R := .pushes) id)
    exact ((s.listed h).entered_frame (·.tsm) (fun _ _ _ => rfl) (fun _ _ _ => rfl) (groupUnits h)).trans htsm
  · exact (State.entered_reacts _ _).logsOk ((State.pushTripList_reacts _ h).logsOk (s.setLevel_logsOk h .trip hlogs))

/-- What the forcing of other units reaches. -/
abbrev Reach.endsBut (u : UnitId) : Reach := ⟨fun _ => True, fun _ => False, (· ≠ u), fun _ _ => False⟩

theorem State.forced_reaches (s : State) {v : UnitId} (hv : v ≠ u) (x : UnitRec) : Reaches (.endsBut u) s (s.forced v x) :=
  (tracks_reaches _).forced s trivial fun _ => hv

theorem unitGuard_inj (hu : unitGuard u = some k) (hv : unitGuard v = some k) : v = u := by
  revert u v k
  decide

/-- R79: the forcing of another unit leaves what the forcing of a unit finds. -/
theorem Ready.other {y : State} (a : Ready e y u) (hv : v ≠ u) (x : UnitRec) : Ready e (y.forced v x) u := by
  have hreach := y.forced_reaches hv x
  have hguard (k : GuardId) (hk : unitGuard u = some k) : (y.forced v x).guard k = y.guard k := by
    by_cases hrest : x.atRest = true
    · rw [y.forced_rest v hrest]
    · rw [Bool.not_eq_true] at hrest
      rw [y.forced_eq v hrest, State.forcedNotes_frame (fun p => p.guard k) (fun _ _ _ => rfl)]
      exact y.outOfService_guard fun hvk => hv (unitGuard_inj hk hvk)
  have hstays : UnitStays u y (y.forced v x) := hreach _ (tracks_unit fun h => h rfl)
  refine ⟨(hstays (by rw [a.unit]; rfl)).trans a.unit, fun k hk => (a.guard k hk).trans (.inl (hguard k hk)) a.onward hreach,
    fun i hi => ?_, fun htg => ?_, fun hlogs => (y.forced_reacts v x).logsOk (a.logs hlogs),
    a.onward.trans (hreach _ (tracks_onward _))⟩
  · have hcal : CalStays i y (y.forced v x) := hreach _ (tracks_cal fun h => h (wellUnit_of_wellOf hi).1)
    exact hcal.trans (a.cal i hi)
  · have htsm : TsmStays y (y.forced v x) := hreach _ (tracks_tsmStays fun h => h htg.symm)
    exact htsm.trans (a.tsm htg)

theorem State.abandonGo_reaches (s : State) (g : Group) (hg : R.group g) : Reaches R s (s.abandonGo g) := by
  have hK := tracks_reaches R
  unfold State.abandonGo State.queueAll
  split
  · exact hK.trans _ _ _ (hK.group s g _ hg (GroupRec.quiet_of_log rfl rfl)) (hK.queue _ _ _)
  · exact hK.refl s

/-- R79, R97: the steps of the trip entry force each unit that was in service or in a phase. -/
theorem State.tripSteps_forced (s : State) (h : Group) (hok : ∀ x ∈ (s.group h).tripList, StackOk (s.chan x.channel).stack)
    (hu : unitGroup u = h) (hrest : (s.unit u).atRest = false) : Forced s (s.tripSteps h) u := by
  have hunit : (s.listed h).units[u] = s.unit u := s.listed_unit h u
  have hforced : Forced s ((s.listed h).allForced h) u :=
    State.each_once (P := fun q => Forced s q u) (Q := fun q => Ready s q u) (groupUnits_nodup h) (hu ▸ mem_groupUnits u)
      (fun v _ hv q hq => hq.other hv _) (fun q hq => hunit ▸ hq.forced hrest)
      (fun v _ hv q hq => hq.later (q.forced_reaches hv _) (fun h => h rfl) fun _ _ h => h.elim) _ (s.entered_ready h hok hu hrest)
  rw [s.tripSteps_eq h]
  exact hforced.later (R := .endsBut u) (State.abandonGo_reaches _ h trivial) (fun h => h rfl) fun _ _ h => h.elim

/-! ### Channels -/

theorem State.pushTrip_chan (s : State) (c d : ChanId) (v : Nat) : (s.pushTrip c v).chan d =
    if d = c then ({ s.chan c with stack := pushEntry ⟨.trip, .value, v, s.ms⟩ (s.chan c).stack } : Channel).tripJump v else s.chan d := by
  unfold State.pushTrip
  rw [State.chan_modChan, State.pushRaw_chan, State.pushRaw_chan, if_pos rfl]
  exact ite_congr rfl (fun _ => rfl) fun h => if_neg h

/-- R16: a TRIP entry stands on top once it is pushed. -/
theorem pushEntry_trip {x : Entry} {l : List Entry} (hl : StackOk l) (hx : x.source = .trip) : ∃ l', pushEntry x l = l' ++ [x] := by
  cases hhas : hasSource x.source l with
  | false =>
    rw [(pushEntry_absent hhas hl.1).1, insertEntry_trip _ hx]
    exact ⟨_, rfl⟩
  | true =>
    obtain ⟨_, _, hbelow, _⟩ := hl
    obtain ⟨z, hz, hzx⟩ := hasSource_eq_true.mp hhas
    have hne := List.ne_nil_of_mem hz
    have hlast : l.getLast hne = z := by
      have hsplit := List.dropLast_append_getLast hne
      rw [← hsplit] at hz
      exact (List.mem_singleton.mp ((List.mem_append.mp hz).resolve_left fun hmem => hbelow z hmem (hzx.trans hx))).symm
    rw [(pushEntry_present hhas).1, ← List.dropLast_append_getLast hne, hlast]
    exact ⟨replaceEntry x l.dropLast, by simp [replaceEntry, hzx]⟩

/-- R8 to R10, R14: a ONESHOT channel takes the value of a TRIP entry. -/
theorem Channel.tripJump_takes (ch : Channel) (v : Nat) (hm : ch.params.mode = .oneshot) : OneShotTakes ch (ch.tripJump v) := by
  have hretarget : ch.tripJump v = ch.retarget true v := by
    unfold Channel.tripJump Channel.retarget
    rw [if_pos hm, if_pos hm]
  rw [hretarget]
  exact Channel.retarget_takes ch true v hm

/-- R14: a channel has taken a TRIP entry with a value at a time. -/
structure TakesTrip (v : Nat) (now : Word) (x y : Channel) : Prop where
  applied : y.applied = v
  target : y.target = v
  stack : ∃ l, y.stack = l ++ [⟨.trip, .value, v, now⟩]
  oneShot : x.params.mode = .oneshot → OneShotTakes x y

theorem TakesTrip.later {v : Nat} {x : Channel} (a : TakesTrip v s.ms x (t.chan c)) (b : TripStands c t r) :
    TakesTrip v s.ms x (r.chan c) := by
  obtain ⟨l, hl⟩ := a.stack
  obtain ⟨l', hr⟩ := b l ⟨.trip, .value, v, s.ms⟩ rfl rfl hl a.target a.applied
  rw [hr]
  exact ⟨a.applied, a.target, ⟨l', rfl⟩, fun hm => ⟨(a.oneShot hm).rise, (a.oneShot hm).fall, (a.oneShot hm).keep, (a.oneShot hm).applied⟩⟩

theorem Channel.tripJump_tripped {ch : Channel} {l : List Entry} {v : Nat} {now : Word}
    (hshot : ch.params.mode = .oneshot → ch.applied = ch.target) (hl : ∃ l', l = l' ++ [⟨.trip, .value, v, now⟩]) :
    TakesTrip v now ch (({ ch with stack := l } : Channel).tripJump v) := by
  obtain ⟨_, _, hstack, htarget⟩ := Channel.tripJump_spec { ch with stack := l } v
  obtain ⟨l', rfl⟩ := hl
  refine ⟨?_, htarget, ⟨l', hstack⟩, fun hm => ?_⟩
  · unfold Channel.tripJump
    split
    case isTrue hm =>
      split
      case isTrue heq => exact (hshot hm).trans heq.symm
      case isFalse => exact (Channel.oneShotTarget_spec _ _).2.2.2.2
    case isFalse => exact (Channel.jumpApplied_spec _ _).2.2.2.2.1
  · obtain ⟨hrise, hfall, hkeep, happlied⟩ := Channel.tripJump_takes { ch with stack := l' ++ [⟨.trip, .value, v, now⟩] } v hm
    exact ⟨hrise, hfall, hkeep, happlied⟩

/-- R97 step 2: each channel of the trip list takes its TRIP entry. -/
theorem State.pushTripList_takes (s : State) (h : Group) (hlist : ((s.group h).tripList.map (·.channel)).Nodup) {x : TripItem}
    (hx : x ∈ (s.group h).tripList) (hok : StackOk (s.chan x.channel).stack)
    (hshot : (s.chan x.channel).params.mode = .oneshot → (s.chan x.channel).applied = (s.chan x.channel).target) :
    TakesTrip x.value s.ms (s.chan x.channel) ((s.pushTripList h).chan x.channel) := by
  have hne {y : TripItem} (hy : y ∈ (s.group h).tripList) (hyx : y ≠ x) : x.channel ≠ y.channel := fun heq =>
    hyx (List.inj_on_of_nodup_map hlist hy hx heq.symm)
  have hother (q : State) {y : TripItem} (hy : y ∈ (s.group h).tripList) (hyx : y ≠ x) :
      (q.pushTrip y.channel y.value).chan x.channel = q.chan x.channel := by rw [State.pushTrip_chan, if_neg (hne hy hyx)]
  refine State.each_once (P := fun q => TakesTrip x.value s.ms (s.chan x.channel) (q.chan x.channel))
    (Q := fun q => q.chan x.channel = s.chan x.channel ∧ q.ms = s.ms) (List.Nodup.of_map _ hlist) hx
    (fun y hy hyx q hq => ⟨(hother q hy hyx).trans hq.1, ((Prim.pushTrip y.channel y.value).reacts.same.ms).trans hq.2⟩)
    (fun q hq => ?_) (fun y hy hyx q hq => by rw [hother q hy hyx]; exact hq) s ⟨rfl, rfl⟩
  rw [State.pushTrip_chan, if_pos rfl, hq.1, hq.2]
  exact Channel.tripJump_tripped hshot (pushEntry_trip hok rfl)

/-- R97: the channels of the trip list stand at their TRIP entries after the steps of the trip entry. -/
theorem State.tripSteps_takes (s : State) (h : Group) (hlist : ((s.group h).tripList.map (·.channel)).Nodup) {x : TripItem}
    (hx : x ∈ (s.group h).tripList) (hok : StackOk (s.chan x.channel).stack)
    (hshot : (s.chan x.channel).params.mode = .oneshot → (s.chan x.channel).applied = (s.chan x.channel).target) :
    TakesTrip x.value s.ms (s.chan x.channel) ((s.tripSteps h).chan x.channel) := by
  have hbefore := s.setLevel_before h .trip
  have hpushed := (s.setLevel h .trip).pushTripList_takes h (by rw [hbefore.tripList]; exact hlist) (hbefore.tripList ▸ hx) hok hshot
  have hforced : Reaches .ends (s.listed h) (s.tripSteps h) := (tracks_reaches .ends).forceGroup _ (g := h) trivial fun _ _ _ => trivial
  exact TakesTrip.later (s := s) hpushed (hforced _ (tracks_tripStands id))

end Sys2Proof.Machine
end

section
/-! The GO that a trip entry abandons, and the causes and the levels that it leaves (R78, R88, R92, R97, R98). -/

namespace Sys2Proof.Machine

variable {s t r e q : State} {u v : UnitId} {c : Cause} {g h k : Group} {R : Reach}

/-! ### The GO in flight -/

/-- R78: what a GO in flight is to a group. -/
def State.go (s : State) (g : Group) : Bool × Nat := ((s.group g).busy, (s.group g).started)

theorem State.go_of_groups (h : t.groups = s.groups) (g : Group) : t.go g = s.go g := by
  simp only [State.go, State.group, h]

theorem State.modGroup_go (s : State) (k g : Group) (f : GroupRec → GroupRec)
    (hf : (f (s.group k)).busy = (s.group k).busy ∧ (f (s.group k)).started = (s.group k).started) :
    (s.modGroup k f).go g = s.go g := by
  unfold State.go
  rw [State.group_modGroup]
  split
  case isTrue heq => subst heq; rw [hf.1, hf.2]
  case isFalse => rfl

theorem State.setLevel_go (s : State) (k g : Group) (l : Level) : (s.setLevel k l).go g = s.go g :=
  s.modGroup_go k g (fun x => { x with level := l }) ⟨rfl, rfl⟩

theorem State.relevel_units (s : State) (k : Group) : (s.relevel k).units = s.units := by
  unfold State.relevel State.setLevel
  dsimp only
  split <;> rfl

theorem State.relevel_go (s : State) (k g : Group) : (s.relevel k).go g = s.go g := by
  unfold State.relevel
  dsimp only
  split
  · rfl
  · exact s.setLevel_go k g _

theorem State.recordWith_go (s : State) (k g : Group) (c : Cause) (cls : CauseClass) (mom : Bool) {x : GroupRec × Recorded}
    (hx : x.1.busy = (s.group k).busy ∧ x.1.started = (s.group k).started) : (s.recordWith k c cls mom x).go g = s.go g := by
  unfold State.go
  rw [State.recordWith_group]
  split
  case isTrue heq => subst heq; rw [hx.1, hx.2]
  case isFalse => rfl

theorem State.momentary_go (s : State) (k g : Group) (c : Cause) : (s.momentary k c).go g = s.go g := by
  have hx : ((s.group k).arriveMomentary c .alarm s.ms).1.busy = (s.group k).busy ∧
      ((s.group k).arriveMomentary c .alarm s.ms).1.started = (s.group k).started := by
    unfold GroupRec.arriveMomentary
    split_ifs <;> exact ⟨rfl, rfl⟩
  exact (State.relevel_go _ k g).trans (s.recordWith_go k g c .alarm true hx)

theorem State.pushTrip_go (s : State) (c : ChanId) (v : Nat) (g : Group) : (s.pushTrip c v).go g = s.go g := by
  have hdiscarded (x : Entry) : (s.discarded c x).go g = s.go g := by
    unfold State.discarded
    split
    · dsimp only
      rw [State.momentary_go]
      split
      case h_1 k _ => simp only [State.go, s.loseGuard_group]
      case h_2 => rfl
    · rfl
  unfold State.pushTrip State.pushRaw
  dsimp only
  split
  · exact hdiscarded _
  · rfl

theorem State.listed_go (s : State) (h g : Group) : (s.listed h).go g = s.go g :=
  State.each_induct (P := fun q => q.go g = s.go g) _ _ (fun x _ q hq => (q.pushTrip_go x.channel x.value g).trans hq) _
    (s.setLevel_go h g .trip)

/-- From `s` to `t` no phase of a group ends, and a GO in flight goes on. -/
structure GoStays (g : Group) (s t : State) : Prop where
  units : t.units = s.units
  go : t.go g = s.go g

theorem GoStays.refl (s : State) : GoStays g s s := ⟨rfl, rfl⟩

theorem GoStays.trans (a : GoStays g s t) (b : GoStays g t r) : GoStays g s r := ⟨b.units.trans a.units, b.go.trans a.go⟩

/-- No unit of a group is in a phase. -/
def State.Idle (s : State) (g : Group) : Prop := ∀ u, unitGroup u = g → (s.unit u).phase = .none

theorem GoStays.idle (a : GoStays g s t) (hs : s.Idle g) : t.Idle g := fun u hu => by
  rw [State.unit, a.units]
  exact hs u hu

theorem State.remove_goStays (s : State) (c : ChanId) (x : Source) (hs : s.Idle (chanGroup c)) : GoStays g s (s.remove c x) := by
  unfold State.remove
  split
  case isTrue =>
    rw [State.refold_eq, State.testUnit_none]
    · exact ⟨rfl, rfl⟩
    · exact hs _ rfl
  case isFalse => exact .refl s

theorem State.deactivate_goStays (s : State) (k : Group) (c : Cause) (hs : s.Idle k) : GoStays g s (s.deactivate k c) := by
  have hdeact : GoStays g s (s.modGroup k fun x => x.deactivate c s.ms) := by
    refine ⟨rfl, s.modGroup_go k g _ ?_⟩
    unfold GroupRec.deactivate
    split <;> exact ⟨rfl, rfl⟩
  have hremoved := State.each_induct (P := GoStays g s) ((s.modGroup k fun x => x.deactivate c s.ms).actionsIn k c)
    (fun a q => q.remove a.channel (.alarm c)) (fun a ha q hq => hq.trans (q.remove_goStays a.channel _ (by
      rw [State.mem_actionsIn ha]
      exact fun u hu => by rw [State.unit, hq.units]; exact hs u hu))) _ hdeact
  exact hremoved.trans ⟨State.relevel_units _ k, State.relevel_go _ k g⟩

theorem State.unitGuardOff_goStays (s : State) (u : UnitId) (hs : s.Idle (unitGroup u)) : GoStays g s (s.unitGuardOff u) := by
  unfold State.unitGuardOff
  split
  case h_1 k hk =>
    unfold State.guardOff State.tellGuard State.queueReaders
    dsimp only
    split
    · exact .refl s
    · have hset : GoStays g s (s.setGuard k (s.guard k).cleared) := ⟨s.setGuard_units k _, by simp only [State.go, s.setGuard_group]⟩
      have hidle : (s.setGuard k (s.guard k).cleared).Idle (chanGroup k.chan) := fun v hv => by
        rw [State.unit, hset.units]
        exact hs v (hv.trans (unitGuard_group hk))
      have hremove := hset.trans (State.remove_goStays _ k.chan .scale hidle)
      split
      · exact hremove
      · exact hremove.trans ⟨rfl, rfl⟩
  case h_2 => exact .refl s

/-- R79: what a unit loses with its service leaves a GO in flight where no unit of its group is in a phase. -/
theorem State.outOfService_goStays (s : State) (u : UnitId) (hs : s.Idle (unitGroup u)) : GoStays g s (s.outOfService u) := by
  have hguard := s.unitGuardOff_goStays (g := g) u hs
  have hleave : GoStays g s (s.leaveService u) := by
    cases hi : wellOf u with
    | none => rw [s.leaveService_other hi]; exact hguard
    | some i =>
      rw [s.leaveService_well hi]
      refine hguard.trans ?_
      unfold State.calciteOff
      split
      · refine GoStays.trans (t := (s.unitGuardOff u).modSwu _) ⟨rfl, rfl⟩ (State.deactivate_goStays _ _ _ fun v hv => ?_)
        rw [State.unit, State.modSwu_units, hguard.units]
        exact hs v (hv.trans (wellUnit_of_wellOf hi).2.symm)
      · exact .refl _
  refine hleave.trans ?_
  show GoStays g (s.leaveService u) ((s.leaveService u).speedLeave u)
  unfold State.speedLeave State.regainSpeed
  split
  case isTrue htg =>
    split
    · refine GoStays.trans (t := (s.leaveService u).modTsm _) ⟨rfl, rfl⟩ (State.deactivate_goStays _ _ _ fun v hv => ?_)
      rw [State.unit, State.modTsm_units, hleave.units]
      exact hs v (hv.trans (by rw [htg]; rfl))
    · exact .refl _
  case isFalse => exact .refl _

/-- R79: the units that are forced leave a GO in flight. -/
theorem State.allForced_go (s : State) (g : Group) : (s.allForced g).go g = s.go g := by
  have hentered : (s.entered (groupUnits g)).groups = s.groups :=
    s.entered_frame (·.groups) (fun _ _ _ => rfl) (fun _ _ _ => rfl) (groupUnits g)
  have hidle : (s.entered (groupUnits g)).Idle g := fun u hu => s.entered_phase _ u (.inl (hu ▸ mem_groupUnits u))
  have heach := State.each_induct (P := fun q => q.go g = s.go g ∧ q.Idle g) (groupUnits g) (fun u q => q.forced u s.units[u])
    (fun u hu q ⟨hgo, hq⟩ => by
      by_cases hrest : (s.units[u]).atRest = true
      · rw [q.forced_rest u hrest]
        exact ⟨hgo, hq⟩
      · rw [Bool.not_eq_true] at hrest
        have hout : GoStays g q (q.outOfService u) := q.outOfService_goStays u (unitGroup_of_mem hu ▸ hq)
        rw [q.forced_eq u hrest]
        refine ⟨?_, fun v hv => ?_⟩
        · rw [State.forcedNotes_frame (fun p => p.go g) (fun _ _ _ => rfl)]
          exact hout.go.trans hgo
        · rw [State.forcedNotes_frame (fun p => p.unit v) (fun _ _ _ => rfl), State.unit_modUnit]
          split
          case isTrue heq => subst heq; exact hout.idle hq v hv
          case isFalse => exact hout.idle hq v hv)
    (s.entered (groupUnits g)) ⟨State.go_of_groups hentered g, hidle⟩
  exact heach.1

theorem State.allForced_reaches (s : State) (g : Group) : Reaches .ends s (s.allForced g) :=
  (s.entered_reaches g).trans ((tracks_reaches .ends).each (groupUnits g) _ (fun _ _ q => (tracks_reaches .ends).forced q trivial fun _ => trivial) _)

theorem State.tripSteps_busy (s : State) (g : Group) : ((s.tripSteps g).group g).busy = false := by
  rw [s.tripSteps_eq, State.abandonGo_group, if_pos rfl]

/-- R78: a GO in flight of a group that is tripped ends ABANDONED. -/
theorem State.tripSteps_abandons (s : State) (g : Group) (hbusy : (s.group g).busy = true) (m : Master) :
    ((s.tripSteps g).port m).Told ⟨s.ms, .goDone g true (s.group g).started⟩ := by
  have hgo : ((s.listed g).allForced g).go g = s.go g := (State.allForced_go _ g).trans (s.listed_go g g)
  have hms : ((s.listed g).allForced g).ms = s.ms :=
    ((s.listed_reaches g _ (tracks_onward .pushes)).trans (State.allForced_reaches _ g _ (tracks_onward .ends))).ms
  obtain ⟨hb, hstarted⟩ := by simpa only [State.go, Prod.mk.injEq] using hgo
  rw [s.tripSteps_eq]
  unfold State.abandonGo State.queueAll
  rw [if_pos (hb.trans hbusy), hstarted, ← hms]
  exact State.queue_told _ _ _ m rfl

end Sys2Proof.Machine
end

section
/-! What an arrival of trip class leaves (R88, R97, R98, R105). -/

namespace Sys2Proof.Machine

variable {s t r e q : State} {u v : UnitId} {c : Cause} {g h k : Group} {R : Reach}

/-! ### Causes and levels -/

/-- The causes of ALARM class that a trip entry may move: those of units in service, GUARD_LOST, and what it propagates to the
Field group. -/
def Cause.movesInTrip (c : Cause) : Prop := c.isService ∨ c = .tgTripped ∨ c = .hxTripped

theorem Cause.not_movesInTrip (h : s.classOf c = .trip) : ¬c.movesInTrip := by
  unfold Cause.movesInTrip
  cases c <;> simp_all [State.classOf, Cause.isService]

theorem State.tripSteps_moves (s : State) (g : Group) : LogsKeep (fun _ => Cause.movesInTrip) s (s.tripSteps g) :=
  (s.tripSteps_logsKeep g).mono fun _ _ => .inl

theorem State.propagateAlarm_moves (s : State) (g : Group) : LogsKeep (fun _ => Cause.movesInTrip) s (s.propagateAlarm g) := by
  have harrives (c : Cause) (hc : c = .tgTripped ∨ c = .hxTripped) :
      LogsKeep (fun _ => Cause.movesInTrip) s (s.arriveAlarm .field c) :=
    (s.arriveAlarm_logsKeep .field c).mono fun _ d hd => by
      rcases hd with ⟨_, rfl⟩ | hlost
      · exact .inr hc
      · exact .inl (Cause.isService_of_guardLost hlost)
  cases g with
  | field => exact .refl s
  | turbine => exact harrives _ (.inl rfl)
  | heat => exact harrives _ (.inr rfl)

/-- R97, R98: what follows the record of a trip of one group. -/
theorem State.tripAlarm_moves (s : State) (g : Group) : LogsKeep (fun _ => Cause.movesInTrip) s (s.tripAlarm g) :=
  (s.tripSteps_moves g).trans (State.propagateAlarm_moves _ g)

/-- R98: FIELD_TRIPPED touches the Field group by what the trip of another propagates to it alone. -/
theorem State.fieldTrips_keeps (s : State) (hk : k ≠ .field) :
    (s.group .field).Keeps Cause.movesInTrip ((s.fieldTrips k).group .field) := by
  have hrecord : (s.record k .fieldTripped .trip).group .field = s.group .field := by
    rw [State.record, State.recordWith_group, if_neg hk.symm]
  by_cases hl : (s.group k).level = .trip
  · rw [s.fieldTrips_known hl, hrecord]
    exact .refl _
  · rw [s.fieldTrips_trips hl, ← hrecord]
    exact State.tripAlarm_moves _ k .field

/-- R98: what follows the steps of a trip entry keeps the log of its group, but for those causes. -/
theorem State.arrive_keeps (s : State) (g : Group) (hc : s.classOf c = .trip) (hl : (s.group g).level ≠ .trip) :
    ((s.record g c .trip).group g).Keeps Cause.movesInTrip ((s.arrive g c).group g) := by
  by_cases hfield : g = .field
  · subst hfield
    rw [s.arrive_field hc hl]
    exact ((State.tripSteps_moves _ .field .field).trans (State.fieldTrips_keeps (k := .turbine) _ nofun)).trans
      (State.fieldTrips_keeps (k := .heat) _ nofun)
  · rw [s.arrive_other hc hl hfield]
    exact State.tripAlarm_moves _ g g

/-- R98: FIELD_TRIPPED is active in a group that it reaches, which is in TRIP. -/
theorem State.fieldTrips_holds (s : State) (k : Group) : ((s.fieldTrips k).group k).level = .trip ∧
    ((s.fieldTrips k).group k).Holds .fieldTripped := by
  have hrecord := s.record_holds k .fieldTripped .trip
  by_cases hl : (s.group k).level = .trip
  · rw [s.fieldTrips_known hl]
    exact ⟨((s.record_raws k .fieldTripped .trip).same.level k).mpr hl, hrecord⟩
  · rw [s.fieldTrips_trips hl]
    exact ⟨State.tripAlarm_level _ k, (State.tripAlarm_moves _ k k).holds (Cause.not_movesInTrip (s := s) rfl) hrecord⟩

/-! ### Forced units and trip lists -/

theorem Forced.before (a : Forced q r u) (b : Before (unitGroup u) s q) (hl : s.LogsOk → q.LogsOk) : Forced s r u := by
  have hunit := b.unit u rfl
  obtain ⟨⟨hclear, hguard, hcal, hspeed⟩, hr, htold⟩ := a
  rw [hunit] at hr
  refine ⟨⟨hclear, fun k hk hs => ?_, fun i hi => ?_, fun htg => ?_⟩, hr, fun m hm => ?_⟩
  · have hleft : GuardLeft k [.service, .overflow] q r := ⟨hclear k hk, hguard k hk⟩
    exact (hleft.before (b.guard k (unitGuard_group hk)) b.onward).guard hs
  · have hq := b.cal (wellUnit_of_wellOf hi).2
    obtain ⟨hover, hholds⟩ := hcal i hi
    rw [hq] at hover hholds
    exact ⟨hover, fun hactive hlogs => hholds hactive (hl hlogs)⟩
  · have hq := b.tsm (by rw [htg]; rfl)
    obtain ⟨hover, hholds⟩ := hspeed htg
    rw [hq] at hover hholds
    exact ⟨hover, fun hlost hlogs => hholds hlost (hl hlogs)⟩
  · have hq := htold m (by rw [State.entry, b.onward.map]; exact hm)
    rwa [hunit, b.onward.ms] at hq

/-- R79: in a group that is tripped each unit that was in service or in a phase is forced. -/
theorem Tripped.forced (a : Tripped (unitGroup u) s r) (hstack : s.StacksOk) (hlists : s.TripListsOk) (hrest : (s.unit u).atRest = false) :
    Forced s r u := by
  obtain ⟨_, q, hbefore, hlogs, hreach⟩ := a
  have hok : ∀ x ∈ (q.group (unitGroup u)).tripList, StackOk (q.chan x.channel).stack := fun x hx => by
    rw [hbefore.tripList] at hx
    rw [hbefore.chan x.channel ((hlists _).1 x hx)]
    exact hstack _
  have hforced := q.tripSteps_forced (u := u) (unitGroup u) hok rfl (by rw [hbefore.unit u rfl]; exact hrest)
  exact (hforced.later hreach (fun h => h rfl) fun _ _ h => h).before hbefore hlogs

/-- R97: in a group that is tripped each channel of the trip list takes its TRIP entry. -/
theorem Tripped.takes (a : Tripped h s r) (hstack : s.StacksOk) (hlists : s.TripListsOk) (hfollow : s.ChannelsFollow) {x : TripItem}
    (hx : x ∈ (s.group h).tripList) : TakesTrip x.value s.ms (s.chan x.channel) (r.chan x.channel) := by
  obtain ⟨_, q, hbefore, _, hreach⟩ := a
  obtain ⟨hin, hnodup⟩ := hlists h
  have hchan := hbefore.chan x.channel (hin x hx)
  have htakes := q.tripSteps_takes h (by rw [hbefore.tripList]; exact hnodup) (hbefore.tripList ▸ hx)
    (by rw [hchan]; exact hstack _) fun hm => by
      rw [hchan] at hm ⊢
      exact ((hfollow x.channel).2.1 hm).1
  have hstands := hreach _ (tracks_tripStands (c := x.channel) fun hne => hne (hin x hx))
  have hlater := TakesTrip.later (s := q) htakes hstands
  rwa [hchan, hbefore.onward.ms] at hlater

/-! ### The arrival in a group in TRIP -/

theorem State.record_port (s : State) (g : Group) (hm : c.isMomentary = false) (cls : CauseClass) (m : Master) :
    (s.record g c cls).port m = match (s.group g).newRecord c with
      | none => s.port m
      | some b => (s.port m).append ⟨s.ms, .causeNew g c cls false b⟩ := by
  rw [← (s.group g).arrive_newRecord c cls s.ms hm]
  unfold State.record State.recordWith State.queueAll
  dsimp only
  cases ((s.group g).arrive c cls s.ms).2 with
  | none => rfl
  | appended => exact State.port_queue _ _ _ m
  | unrecorded => exact State.port_queue _ _ _ m

theorem State.record_rest (s : State) (g : Group) (c : Cause) (cls : CauseClass) :
    { s.record g c cls with groups := s.groups, ports := s.ports } = s :=
  State.recordWith_frame (fun q => { q with groups := s.groups, ports := s.ports }) (fun _ _ _ => rfl) (fun _ _ _ => rfl) s g c cls
    false _

end Sys2Proof.Machine
end

section
/-! Trip entry (R79, R88, R97, R98, R105). -/

namespace Sys2Proof.Machine

variable {s t r e q : State} {u v : UnitId} {c : Cause} {g h k : Group} {R : Reach}

/-- A unit that is RUNNING, PAUSED or in a phase is not at rest. -/
theorem UnitRec.atRest_false {x : UnitRec} (h : ¬(x.phase = .none ∧ (x.state = .standby ∨ x.state = .isolated))) : x.atRest = false :=
  Bool.not_eq_true _ ▸ mt x.atRest_iff.mp h

/-- What a unit that is not forced keeps, from `s` to `r`. -/
def Unforced (s r : State) (u : UnitId) : Prop := ((s.unit u).phase = .none → r.unit u = s.unit u) ∧ (u = unitTG → r.tsm = s.tsm) ∧
  ∀ i : Fin 8, wellUnit i = u → r.swu.cal[i] = s.swu.cal[i]

theorem Reaches.unforced (h : Reaches R s r) (hu : ¬R.unit u) : Unforced s r u :=
  ⟨h _ (tracks_unit hu), fun htg => h _ (tracks_tsmStays (htg ▸ hu)), fun i hi => h _ (tracks_cal (i := i) (by rwa [hi]))⟩

theorem unforced_of_rest (h : { r with groups := s.groups, ports := s.ports } = s) : Unforced s r u := by
  have hblock {β : Type} (p : State → β) (hp : ∀ x y, p { r with groups := x, ports := y } = p r) : p r = p s :=
    (hp _ _).symm.trans (congrArg p h)
  exact ⟨fun _ => hblock (fun q => q.unit u) fun _ _ => rfl, fun _ => hblock (·.tsm) fun _ _ => rfl,
    fun i _ => hblock (fun q => q.swu.cal[i]) fun _ _ => rfl⟩

section
variable (s : State) (g : Group) (c : Cause) (hc : s.classOf c = .trip) (hm : c.isMomentary = false) (hlists : s.TripListsOk)
  (hg : (s.group g).level ≠ .trip)
include hc hg

/-- R97: the level and the cause of a trip. -/
theorem State.arrive_enters : ((s.arrive g c).group g).level = .trip ∧ ((s.arrive g c).group g).Holds c := by
  refine ⟨?_, (s.arrive_keeps g hc hg).holds (Cause.not_movesInTrip hc) (s.record_holds g c .trip)⟩
  rw [s.arrive_trips hc hg]
  exact State.tripEntry_level _ g

/-- R98: which groups other than its own an arrival trips. -/
theorem State.arrive_level (h : Group) (hh : ¬(h = g ∨ g = .field)) :
    ((s.arrive g c).group h).level = .trip ↔ (s.group h).level = .trip := by
  obtain ⟨hne, hfield⟩ := not_or.mp hh
  rw [s.arrive_other hc hg hfield]
  have hrecord : (s.record g c .trip).group h = s.group h := by rw [State.record, State.recordWith_group, if_neg hne]
  have hsteps : (((s.record g c .trip).tripSteps g).group h).level = .trip ↔ (s.group h).level = .trip := by
    rw [← hrecord]
    refine ((State.tripSteps_reacts _ g).same.level h).trans ?_
    rw [State.setLevel_group, if_neg hne]
  exact ((State.propagateAlarm_reacts _ g).same.level h).trans hsteps

include hm hlists

/-- R97, R98: a group that is brought into TRIP. -/
theorem State.arrive_tripped_of {h : Group} (hh : (s.group h).level ≠ .trip) (hr : ((s.arrive g c).group h).level = .trip) :
    Tripped h s (s.arrive g c) := by
  refine s.arrive_tripped g c hc hm (fun hs => Cause.not_movesInTrip hc (.inl hs)) hlists hg h hh (by_contra fun hno => ?_)
  exact hh ((s.arrive_level g c hc hg h hno).mp hr)

/-- R79: a unit of a group that is not brought into TRIP, or at rest. -/
theorem State.arrive_unforced (u : UnitId) (h : ¬((s.group (unitGroup u)).level ≠ .trip ∧
    ((s.arrive g c).group (unitGroup u)).level = .trip) ∨ (s.unit u).atRest = true) : Unforced s (s.arrive g c) u := by
  have hs : ¬c.isService := fun hs => Cause.not_movesInTrip hc (.inl hs)
  rcases h with hno | hrest
  · refine (s.arrive_untripped g c hc hm hs hlists hg (unitGroup u) fun ⟨hr, hl⟩ => hno ⟨hl, ?_⟩).unforced fun hne => hne rfl
    exact (s.arrive_tripped g c hc hm hs hlists hg _ hl hr).1
  · exact (s.arrive_resting g c hc hm hs hlists hg u hrest).unforced fun hne => hne rfl

omit hlists in
/-- R88: the record of the cause stands. -/
theorem State.arrive_recorded (hlogs : s.LogsOk) : let after := (s.group g).withArrival c .trip s.ms
    (∀ (i : Nat) (z : CauseRec), after.log[i]? = some z → z.cause = c → ((s.arrive g c).group g).log[i]? = some z) ∧
    ((s.arrive g c).group g).firstOut = after.firstOut ∧ (after.logFull = true → ((s.arrive g c).group g).logFull = true) := by
  intro after
  have hkeeps := s.arrive_keeps g hc hg
  rw [s.record_group g g .trip hm hlogs, if_pos rfl] at hkeeps
  refine ⟨fun i z hz hzc => ?_, (hkeeps.firstOut (GroupRec.withArrival_log _ c .trip s.ms)).1, hkeeps.full⟩
  obtain ⟨z', hz', _, hsame⟩ := hkeeps.log i z hz
  rw [hz', hsame (hzc ▸ Cause.not_movesInTrip hc)]

end

theorem State.tripSteps_onward (s : State) (g : Group) : Onward s (s.tripSteps g) :=
  ((s.listed_reaches g _ (tracks_onward .pushes)).trans (State.allForced_reaches _ g _ (tracks_onward .ends))).trans
    (State.abandonGo_reaches (R := .ends) _ g trivial _ (tracks_onward .ends))

theorem State.tripSteps_level_told (s : State) (g : Group) (m : Master) :
    ((s.tripSteps g).port m).Told ⟨s.ms, .groupLevel g .trip (s.group g).firstOut⟩ :=
  (s.tripSteps_reacts g).grows.told (s.setLevel_told g .trip m)

theorem State.propagate_onward (s : State) (g : Group) : Onward s (s.propagate g) :=
  (tracks_onward (.all fun _ _ => True)).propagate (fun _ _ _ => trivial) s g

theorem State.tripEntry_onward (s : State) (g : Group) : Onward (s.tripSteps g) (s.tripEntry g) := State.propagate_onward _ g

theorem GroupRec.arrive_log (x : GroupRec) (c : Cause) (cls : CauseClass) (now : Word) : (x.arrive c cls now).1.log ≠ [] := by
  unfold GroupRec.arrive
  split
  case isTrue hhas =>
    obtain ⟨z, hz, _⟩ := (x.has_iff c).mp hhas
    exact fun h => List.ne_nil_of_mem hz (List.map_eq_nil_iff.mp h)
  case isFalse =>
    split
    case isTrue => exact List.append_ne_nil_of_right_ne_nil _ (List.cons_ne_nil _ _)
    case isFalse hroom => exact fun h : x.log = [] => hroom (by rw [h]; decide)

/-- R98: FIELD_TRIPPED in another group leaves no GO of the Field group in flight that was not. -/
theorem State.fieldTrips_idle (s : State) (hk : k ≠ .field) (hlists : s.TripListsOk) (hs : (s.group .field).busy = false) :
    ((s.fieldTrips k).group .field).busy = false := by
  have hrecord : GroupStays .field s (s.record k .fieldTripped .trip) :=
    (tracks_group (R := .outside .field) (g := .field) fun h => h rfl).record s hk id .trip
  by_cases hl : (s.group k).level = .trip
  · rw [s.fieldTrips_known hl, show (s.record k .fieldTripped .trip).group .field = s.group .field from hrecord]
    exact hs
  · have hsteps : GroupStays .field s ((s.record k .fieldTripped .trip).tripSteps k) :=
      (tracks_group (R := .outside .field) (g := .field) fun h => h rfl).trips s hlists hk trivial id fun _ _ _ => trivial
    rw [s.fieldTrips_trips hl]
    exact (State.does_propagateAlarm (x := none) _ k).idle .field
      (by rw [show ((s.record k .fieldTripped .trip).tripSteps k).group .field = s.group .field from hsteps]; exact hs)

/-- R98: what the trip of a group has propagated is active in the other groups. -/
def State.Propagated (r : State) : Group → Prop
  | .field => (r.group .turbine).level = .trip ∧ (r.group .turbine).Holds .fieldTripped ∧
      (r.group .heat).level = .trip ∧ (r.group .heat).Holds .fieldTripped
  | .turbine => (r.group .field).Holds .tgTripped
  | .heat => (r.group .field).Holds .hxTripped

/-- R97, R98: a trip from outside TRIP: the GO in flight, the level that is told and the propagated causes. -/
theorem State.arrive_trip (s : State) (g : Group) (c : Cause) (hc : s.classOf c = .trip) (hm : c.isMomentary = false)
    (hlists : s.TripListsOk) (hg : (s.group g).level ≠ .trip) : let r := s.arrive g c
    (r.group g).busy = false ∧
    (∀ m, (r.port m).Told ⟨s.ms, .groupLevel g .trip (r.group g).firstOut⟩ ∧
      ((s.group g).busy = true → (r.port m).Told ⟨s.ms, .goDone g true (s.group g).started⟩)) ∧
    r.Propagated g := by
  intro r
  have hbefore := s.record_before g c .trip
  have hfirst : (r.group g).firstOut = ((s.record g c .trip).group g).firstOut := by
    refine ((s.arrive_keeps g hc hg).firstOut ?_).1
    rw [State.record, State.recordWith_group, if_pos rfl]
    exact GroupRec.arrive_log _ c .trip s.ms
  have hlater : Onward ((s.record g c .trip).tripSteps g) r := by
    rw [show r = _ from s.arrive_trips hc hg]
    exact State.propagate_onward _ g
  refine ⟨?busy, fun m => ⟨?level, fun hbusy => ?go⟩, ?propagated⟩
  case level =>
    rw [hfirst, ← hbefore.onward.ms]
    exact hlater.grows.told (State.tripSteps_level_told _ g m)
  case go =>
    rw [← hbefore.onward.ms, ← hbefore.started]
    exact hlater.grows.told (State.tripSteps_abandons _ g (hbefore.busy.trans hbusy) m)
  all_goals have hbusy := (s.record g c .trip).tripSteps_busy g
  case busy =>
    by_cases hfield : g = .field
    · subst hfield
      have hturns := s.trip_turns hc hm hg
      have hr : r = _ := s.arrive_field hc hg
      rw [hr]
      generalize (s.record .field c .trip).tripSteps .field = p at hbusy hturns
      exact State.fieldTrips_idle _ (k := .heat) nofun ((hturns.trans (p.fieldTrips_turns .turbine)).tripListsOk hlists)
        (p.fieldTrips_idle (k := .turbine) nofun (hturns.tripListsOk hlists) hbusy)
    · have hr : r = _ := s.arrive_other hc hg hfield
      rw [hr]
      exact (State.does_propagateAlarm (x := none) _ g).idle g hbusy
  case propagated =>
    cases g with
    | turbine =>
      have hr : r = _ := s.arrive_other hc hg nofun
      rw [hr]
      exact (State.arriveAlarm_holds _ .field rfl).1
    | heat =>
      have hr : r = _ := s.arrive_other hc hg nofun
      rw [hr]
      exact (State.arriveAlarm_holds _ .field rfl).1
    | field =>
      have hturns := s.trip_turns hc hm hg
      have hr : r = _ := s.arrive_field hc hg
      rw [hr]
      generalize (s.record .field c .trip).tripSteps .field = p at hturns
      have hstays : GroupStays .turbine (p.fieldTrips .turbine) ((p.fieldTrips .turbine).fieldTrips .heat) :=
        (tracks_group (R := .outside .turbine) (g := .turbine) fun h => h rfl).fieldTrips (k := .heat) _
          ((hturns.trans (p.fieldTrips_turns .turbine)).tripListsOk hlists) nofun nofun (fun _ => trivial) (fun _ _ h => h)
          fun _ _ _ _ => trivial
      obtain ⟨hlevel, hholds⟩ := p.fieldTrips_holds .turbine
      obtain ⟨hlevel', hholds'⟩ := (p.fieldTrips .turbine).fieldTrips_holds .heat
      show ((((p.fieldTrips .turbine).fieldTrips .heat).group .turbine).level = .trip ∧
        (((p.fieldTrips .turbine).fieldTrips .heat).group .turbine).Holds .fieldTripped ∧ _)
      rw [show ((p.fieldTrips .turbine).fieldTrips .heat).group .turbine = (p.fieldTrips .turbine).group .turbine from hstays]
      exact ⟨hlevel, hholds, hlevel', hholds'⟩

/-- Settles O48. -/
theorem tripEntry : Obligations.TripEntry := by
  unfold Obligations.TripEntry
  intro s g c hc hm hstack hlists hfollow r
  by_cases hg : (s.group g).level = .trip
  case pos =>
    have hr : r = s.record g c .trip := s.arrive_known hc hg
    clear_value r
    subst hr
    have hsame := (s.record_raws g c .trip).same
    have hgroup (hlogs : s.LogsOk) : (s.record g c .trip).group g = (s.group g).withArrival c .trip s.ms := by
      rw [s.record_group g g .trip hm hlogs, if_pos rfl]
    have hno (h : Group) (hh : (s.group h).level ≠ .trip) : ¬((s.record g c .trip).group h).level = .trip := mt (hsame.level h).mp hh
    refine ⟨(hsame.level g).mpr hg, s.record_holds g c .trip, ?_⟩
    intro after causeNew
    refine ⟨fun _ => ⟨hsame, s.record_rest g c .trip, hgroup, fun h hh => ?_,
      s.record_port g hm .trip⟩, fun hlogs => ?_, fun u => ⟨fun htrips => absurd htrips.2 (hno _ htrips.1), fun _ =>
        unforced_of_rest (s.record_rest g c .trip)⟩, fun h hh hr => absurd hr (hno h hh), fun hne => absurd hg hne⟩
    · rw [State.record, State.recordWith_group, if_neg hh]
    · rw [hgroup hlogs]
      exact ⟨fun _ _ hz _ => hz, rfl, id, fun b hb m =>
        State.recordWith_told s g c .trip false _ ((GroupRec.arrive_newRecord _ c .trip s.ms hm).trans hb) m⟩
  case neg =>
    have htripped {h : Group} (hh : (s.group h).level ≠ .trip) (hl : (r.group h).level = .trip) : Tripped h s r :=
      s.arrive_tripped_of g c hc hm hlists hg hh hl
    obtain ⟨hlevel, hholds⟩ := s.arrive_enters g c hc hg
    refine ⟨hlevel, hholds, ?_⟩
    intro after causeNew
    refine ⟨fun h => absurd h hg, fun hlogs => ?recorded, fun u => ⟨fun htrips hrest => ?forced, fun hno => ?kept⟩,
      fun h hh hl x hx => ?lists, fun _ => ?trips⟩
    case recorded =>
      obtain ⟨hlog, hfirst, hfull⟩ := s.arrive_recorded g c hc hm hg hlogs
      refine ⟨hlog, hfirst, hfull, fun b hb m => ?_⟩
      have htold := State.recordWith_told s g c .trip false _ ((GroupRec.arrive_newRecord _ c .trip s.ms hm).trans hb) m
      have hlater : Onward (s.record g c .trip) r := by
        rw [show r = _ from s.arrive_trips hc hg]
        exact (State.tripSteps_onward _ g).trans (State.propagate_onward _ g)
      exact hlater.grows.told htold
    case forced =>
      obtain ⟨hleft, hunit, htold⟩ := (htripped htrips.1 htrips.2).forced hstack hlists (UnitRec.atRest_false hrest)
      exact ⟨hleft, hunit, htold⟩
    case kept => exact s.arrive_unforced g c hc hm hlists hg u (hno.imp_right (UnitRec.atRest_iff _).mpr)
    case lists =>
      obtain ⟨happlied, htarget, hon, hshot⟩ := (htripped hh hl).takes hstack hlists hfollow hx
      exact ⟨happlied, htarget, hon, hshot⟩
    case trips =>
      obtain ⟨hbusy, htold, hpropagated⟩ := State.arrive_trip s g c hc hm hlists hg
      refine ⟨hbusy, htold, ?_⟩
      cases g <;> exact hpropagated

end Sys2Proof.Machine
end

section
/-! The silica steps (R133 to R137, R140). -/

namespace Sys2Proof.Machine

variable {s t r e q : State} {u : UnitId} {c : Cause} {k : GuardId}

/-! ### The limit temperature (R133) -/

theorem limitFrom_head {c : Nat} {p : SilicaPoint} (l : List SilicaPoint) (h : c ≤ p.c) : limitFrom c p l = p.t := by
  cases l with
  | nil => rfl
  | cons => exact if_pos h

theorem limitFrom_next {c : Nat} {p q : SilicaPoint} (l : List SilicaPoint) (hp : p.c < q.c) (hq : q.c ≤ c) :
    limitFrom c p (q :: l) = limitFrom c q l :=
  (if_neg (by omega)).trans (if_neg (by omega))

/-- R133: on the first segment of the table. -/
theorem limitFrom_segment {c : Nat} {p q : SilicaPoint} (l : List SilicaPoint) (hpq : p.c < q.c) (hp : p.c ≤ c) (hq : c ≤ q.c) :
    limitFrom c p (q :: l) = p.t + Int.tdiv (((c : Int) - p.c) * (q.t - p.t)) ((q.c : Int) - p.c) := by
  by_cases hlow : c ≤ p.c
  · rw [limitFrom_head _ hlow, show (c : Int) - p.c = 0 by omega, zero_mul, Int.zero_tdiv, add_zero]
  · by_cases hhigh : c < q.c
    · have hc : ((c - p.c : Nat) : Int) = (c : Int) - p.c := Int.ofNat_sub hp
      have hd : ((q.c - p.c : Nat) : Int) = (q.c : Int) - p.c := Int.ofNat_sub hpq.le
      rw [limitFrom, if_neg hlow, if_pos hhigh, hc, hd]
    · rw [limitFrom_next l hpq (Nat.not_lt.mp hhigh), limitFrom_head l hq, show (c : Int) = q.c by omega,
        Int.mul_tdiv_cancel_left _ (by omega)]
      omega

/-- R133: from the last point on. -/
theorem limitFrom_last {c : Nat} : ∀ (l : List SilicaPoint) {p z : SilicaPoint}, (p :: l).Pairwise (fun x y => x.c < y.c) →
    (p :: l).getLast? = some z → z.c ≤ c → limitFrom c p l = z.t
  | [], p, z, _, hz, _ => by
    obtain rfl : p = z := by simpa using hz
    rfl
  | q :: l, p, z, hsorted, hz, hc => by
    obtain ⟨hp, hsorted⟩ := List.pairwise_cons.mp hsorted
    have hlast : (q :: l).getLast? = some z := hz
    have hqz : q.c ≤ z.c := by
      rcases List.mem_cons.mp (List.mem_of_getLast? hlast) with rfl | hmem
      · exact le_rfl
      · exact ((List.pairwise_cons.mp hsorted).1 z hmem).le
    rw [limitFrom_next l (hp q List.mem_cons_self) (hqz.trans hc)]
    exact limitFrom_last l hsorted hlast hc

/-- R133: on a segment of the table. -/
theorem limitFrom_within {c : Nat} {p q : SilicaPoint} {l' : List SilicaPoint} (hp : p.c ≤ c) (hq : c ≤ q.c) :
    ∀ (l : List SilicaPoint) {a : SilicaPoint}, (a :: l ++ p :: q :: l').Pairwise (fun x y => x.c < y.c) →
    limitFrom c a (l ++ p :: q :: l') = limitFrom c p (q :: l')
  | [], a, hsorted => limitFrom_next _ ((List.pairwise_cons.mp hsorted).1 p List.mem_cons_self) hp
  | b :: l, a, hsorted => by
    obtain ⟨ha, hsorted⟩ := List.pairwise_cons.mp hsorted
    have hbp : b.c < p.c := (List.pairwise_cons.mp hsorted).1 p (by simp)
    exact (limitFrom_next _ (ha b List.mem_cons_self) (hbp.le.trans hp)).trans (limitFrom_within hp hq l hsorted)

theorem limitOf_spec (table : List SilicaPoint) (c : Nat) (hsorted : table.Pairwise fun x y => x.c < y.c) :
    (∀ p, table.head? = some p → c ≤ p.c → limitOf table c = p.t) ∧
    (∀ p, table.getLast? = some p → p.c ≤ c → limitOf table c = p.t) ∧
    ∀ l p q l', table = l ++ p :: q :: l' → p.c ≤ c → c ≤ q.c →
      limitOf table c = p.t + Int.tdiv (((c : Int) - p.c) * (q.t - p.t)) ((q.c : Int) - p.c) := by
  refine ⟨fun p hp hc => ?_, fun p hp hc => ?_, fun l p q l' ht hp hq => ?_⟩
  · cases table with
    | nil => cases hp
    | cons a l => rw [← Option.some.inj hp] at hc ⊢; exact limitFrom_head l hc
  · cases table with
    | nil => cases hp
    | cons a l => exact limitFrom_last l hsorted hp hc
  · subst ht
    have htail : (p :: q :: l').Pairwise (fun x y => x.c < y.c) := (List.pairwise_append.mp hsorted).2.1
    have hsegment := limitFrom_segment l' ((List.pairwise_cons.mp htail).1 q List.mem_cons_self) hp hq
    cases l with
    | nil => exact hsegment
    | cons a l => exact (limitFrom_within hp hq l hsorted).trans hsegment

/-! ### The causes (R135, R136) -/

theorem marginNext_iff (active : Bool) (sm alarm : Int) :
    marginNext active sm alarm = true ↔ sm < alarm ∨ active = true ∧ sm < alarm + 50 := by
  unfold marginNext
  cases active
  · simp
  · simp only [if_true, decide_eq_true_eq, true_and]
    omega

theorem tripNext_iff (active : Bool) (counter : Nat) (sm : Int) (n : Nat) :
    (tripNext active counter sm n).1 = true ↔ sm < 0 ∧ (active = true ∨ n ≤ counter + 1) := by
  unfold tripNext
  cases active
  · split_ifs <;> simp_all
  · simp

theorem tripNext_counter {active : Bool} (h : active = false) (counter : Nat) (sm : Int) (n : Nat) :
    (tripNext active counter sm n).2 = if sm < 0 ∧ counter + 1 < n then counter + 1 else 0 := by
  subst h
  unfold tripNext
  split_ifs <;> simp_all

/-- R133, R135: the silica record after step S3 of SILICA_MARGIN. -/
def State.silicaMargined (s : State) : Silica :=
  let tLim := limitOf s.swu.params.table s.swu.cSil
  let sm := (s.snap.ai[aiBrineOut]).value - tLim
  { s.swu.sil with outcome := .evaluated, tLim := tLim, sm := sm, margin := marginNext s.swu.sil.margin sm s.swu.params.mAlarm }

/-- R136: the silica record after step S3. -/
def State.silicaNext (s : State) : Silica :=
  let next := tripNext s.swu.sil.trip s.swu.sil.counter s.silicaMargined.sm s.swu.params.nSt
  { s.silicaMargined with trip := next.1, counter := next.2 }

/-- The state with a silica record. -/
def State.noted (s : State) (z : Silica) : State := { s with swu := { s.swu with sil := z } }

/-- R135: SILICA_MARGIN has been handed over. -/
def State.marginHanded (s : State) : State :=
  if s.silicaMargined.margin = s.swu.sil.margin then s.noted s.silicaMargined
  else (s.noted s.silicaMargined).handOver .heat .silicaMargin s.silicaMargined.margin

/-- R136: SILICA_TRIP has been handed over. -/
def State.tripHanded (s : State) : State :=
  if s.silicaNext.trip = s.swu.sil.trip then s.marginHanded.noted s.silicaNext
  else (s.marginHanded.noted s.silicaNext).handOver .heat .silicaTrip s.silicaNext.trip

theorem unmoved_sil : Unmoved fun s => s.swu.sil :=
  unmoved_swu (fun w => w.sil) (fun _ _ => rfl) (fun _ _ _ => rfl) fun _ _ => rfl

theorem unmoved_swuParams : Unmoved fun s => s.swu.params :=
  unmoved_swu (fun w => w.params) (fun _ _ => rfl) (fun _ _ _ => rfl) fun _ _ => rfl

theorem State.marginHanded_swu (s : State) : s.marginHanded.swu.sil = s.silicaMargined ∧ s.marginHanded.swu.params = s.swu.params := by
  unfold State.marginHanded
  split
  · exact ⟨rfl, rfl⟩
  · exact ⟨unmoved_sil.handOver (s.noted s.silicaMargined) .heat .silicaMargin s.silicaMargined.margin,
      unmoved_swuParams.handOver (s.noted s.silicaMargined) .heat .silicaMargin s.silicaMargined.margin⟩

theorem State.tripHanded_sil (s : State) : s.tripHanded.swu.sil = s.silicaNext := by
  unfold State.tripHanded
  split
  · rfl
  · exact unmoved_sil.handOver (s.marginHanded.noted s.silicaNext) .heat .silicaTrip s.silicaNext.trip

theorem State.stepMargin_eq (s : State) : (s.noted { s.silicaMargined with margin := s.swu.sil.margin }).stepMargin = s.marginHanded := by
  unfold State.stepMargin State.marginHanded
  dsimp only
  have hnext : marginNext s.swu.sil.margin s.silicaMargined.sm s.swu.params.mAlarm = s.silicaMargined.margin := rfl
  by_cases hturn : s.silicaMargined.margin = s.swu.sil.margin
  · rw [if_pos hturn]
    refine (if_pos hturn).trans ?_
    rw [← hturn]
  · rw [if_neg hturn]
    exact if_neg hturn

theorem State.stepTrip_eq (s : State) : s.marginHanded.stepTrip = s.tripHanded := by
  obtain ⟨hsil, hparams⟩ := s.marginHanded_swu
  unfold State.stepTrip State.tripHanded
  dsimp only
  rw [hsil, hparams]
  have hnoted (f : Silica → Silica) : s.marginHanded.modSil f = s.marginHanded.noted (f s.silicaMargined) := by
    rw [← hsil]
    rfl
  rw [hnoted]
  rfl

/-- R134 to R137: the silica steps with the brine outlet usable. -/
theorem State.evalSilica_usable (s : State) (h : (s.snap.ai[aiBrineOut]).usable = true) : s.evalSilica =
    if (s.tripHanded.unit unitHX).inUse = true then s.tripHanded.runGuard .silica s.silicaNext.sm else s.tripHanded := by
  have hsteps : ((s.noted { s.silicaMargined with margin := s.swu.sil.margin }).stepMargin).stepTrip = s.tripHanded := by
    rw [s.stepMargin_eq, s.stepTrip_eq]
  have hsm : s.tripHanded.swu.sil.sm = s.silicaNext.sm := by rw [s.tripHanded_sil]
  rw [← hsm, ← hsteps]
  exact if_pos h

theorem State.evalSilica_skipped (s : State) (h : ¬(s.snap.ai[aiBrineOut]).usable = true) :
    let q := s.noted { s.swu.sil with outcome := .skipped, counter := 0 }
    s.evalSilica = if (s.unit unitHX).inUse = true then q.holdGuard .silica else q := if_neg h

/-! ### What the steps leave -/

theorem State.noted_logsOk (s : State) (z : Silica) (h : s.LogsOk) : (s.noted z).LogsOk := h

theorem State.marginHanded_turned (s : State) (h : s.silicaMargined.margin ≠ s.swu.sil.margin) :
    Turned s .heat .silicaMargin s.silicaMargined.margin s.marginHanded := by
  rw [State.marginHanded, if_neg h]
  exact State.handOver_turned _ .heat _ rfl id id rfl (s.noted_logsOk _)

theorem State.marginHanded_logsOk (s : State) (h : s.LogsOk) : s.marginHanded.LogsOk := by
  unfold State.marginHanded
  split
  · exact s.noted_logsOk _ h
  · exact (State.handOver_turns _ .heat .silicaMargin _ rfl).logsOk (s.noted_logsOk _ h)

theorem State.tripHanded_turned (s : State) (h : s.silicaNext.trip ≠ s.swu.sil.trip) :
    Turned s .heat .silicaTrip s.silicaNext.trip s.tripHanded := by
  rw [State.tripHanded, if_neg h]
  exact State.handOver_turned _ .heat _ rfl id id rfl fun hs => State.noted_logsOk _ _ (s.marginHanded_logsOk hs)

/-- The causes that a SILICA_TRIP may move besides its own. -/
def notMargin : Group → Cause → Prop := fun _ d => d ≠ .silicaMargin

theorem State.tripHanded_keeps (s : State) : LogsKeep notMargin s.marginHanded s.tripHanded := by
  unfold State.tripHanded
  split
  · exact logsKeep_of_groups rfl
  · refine LogsKeep.trans (t := s.marginHanded.noted s.silicaNext) (logsKeep_of_groups rfl)
      ((State.handOver_logsKeep _ .heat .silicaTrip _).mono fun _ d hd heq => ?_)
    subst heq
    rcases hd with ⟨_, hd⟩ | hd | hd
    · cases hd
    · exact hd
    · exact hd

/-- R137: the guard takes its row, or nothing more is done. -/
theorem State.evalSilica_keeps (s : State) (h : (s.snap.ai[aiBrineOut]).usable = true) :
    LogsKeep (fun _ => Cause.isGuardLost) s.tripHanded s.evalSilica ∧ s.evalSilica.swu.sil = s.silicaNext := by
  have hsil : Untouched fun q => q.swu.sil := untouched_swu (fun w => w.sil) (fun _ _ => rfl) fun _ _ _ => rfl
  rw [s.evalSilica_usable h]
  split
  · exact ⟨State.runGuard_logsKeep _ _ _, (hsil.runGuard _ _ _).trans s.tripHanded_sil⟩
  · exact ⟨.refl _, s.tripHanded_sil⟩

/-- A guard stays, and a unit out of a phase. -/
structure Spared (k : GuardId) (u : UnitId) (s t : State) : Prop where
  guard : t.guard k = s.guard k
  unit : UnitStays u s t

theorem Spared.trans (a : Spared k u s t) (b : Spared k u t r) : Spared k u s r :=
  ⟨b.guard.trans a.guard, fun hs => (b.unit (by rw [a.unit hs]; exact hs)).trans (a.unit hs)⟩

/-- A cause that ceases moves no guard. -/
theorem State.deactivate_spared (s : State) (g : Group) (c : Cause) (k : GuardId) (u : UnitId) : Spared k u s (s.deactivate g c) :=
  ⟨State.guard_of_swu (s.deactivate_blocks g c).1 k, (tracks_unit (R := .alarms) id).deactivate s trivial c⟩

theorem State.noted_spared (s : State) (z : Silica) (k : GuardId) (u : UnitId) : Spared k u s (s.noted z) :=
  ⟨by cases k <;> rfl, fun _ => rfl⟩

theorem State.handOver_spared (s : State) (g : Group) (c : Cause) (k : GuardId) (u : UnitId) {b : Bool} (hb : b = false) :
    Spared k u s (s.handOver g c b) := hb ▸ s.deactivate_spared g c k u

theorem State.marginHanded_spared (s : State) (k : GuardId) (u : UnitId)
    (h : s.silicaMargined.margin = true → s.swu.sil.margin = true) : Spared k u s s.marginHanded := by
  unfold State.marginHanded
  split
  · exact s.noted_spared _ k u
  case isFalse hturn =>
    refine (s.noted_spared _ k u).trans (State.handOver_spared _ .heat .silicaMargin k u (Bool.not_eq_true _ ▸ fun hm => ?_))
    exact hturn (hm.trans (h hm).symm)

theorem State.tripHanded_spared (s : State) (k : GuardId) (u : UnitId)
    (h : s.silicaNext.trip = true → s.swu.sil.trip = true) : Spared k u s.marginHanded s.tripHanded := by
  unfold State.tripHanded
  split
  · exact State.noted_spared _ _ k u
  case isFalse hturn =>
    refine (State.noted_spared _ _ k u).trans (State.handOver_spared _ .heat .silicaTrip k u (Bool.not_eq_true _ ▸ fun hm => ?_))
    exact hturn (hm.trans (h hm).symm)

/-! ### A trip that takes HX out of service -/

/-- R79, R143: the guard of a unit that a trip entry forces is CLEAR. -/
theorem State.tripSteps_clear (s : State) (h : Group) (hu : unitGroup u = h) (hk : unitGuard u = some k)
    (hrest : (s.unit u).atRest = false) : ((s.tripSteps h).guard k).state = .clear := by
  have hx : ((s.listed h).units[u]).atRest = false := by
    rw [show (s.listed h).units[u] = s.unit u from s.listed_unit h u]
    exact hrest
  have hforced : (((s.listed h).allForced h).guard k).state = .clear :=
    State.each_reaches (P := fun q => (q.guard k).state = .clear) (Q := fun _ => True) (hu ▸ mem_groupUnits u) (fun _ _ _ _ => trivial)
      (fun q _ => by
        rw [q.forced_eq u hx, State.forcedNotes_frame (fun p => p.guard k) (fun _ _ _ => rfl)]
        exact (q.outOfService_left u).clear k hk)
      (fun v _ q hq => (tracks_stateClear .ends k).forced q trivial (fun _ => trivial) hq) _ trivial
  rw [s.tripSteps_eq h]
  exact State.abandonGo_reaches (R := .ends) _ h trivial _ (tracks_stateClear .ends k) hforced

/-- R79, R97: SILICA_TRIP in a Heat group outside TRIP leaves HX at rest, and its guard CLEAR where it was in service. -/
theorem State.arrive_heat (s : State) (hc : s.classOf c = .trip) (hl : (s.group .heat).level ≠ .trip) (hstates : s.TripStatesOk) :
    ((s.arrive .heat c).unit unitHX).atRest = true ∧
    ((s.unit unitHX).atRest = false → ((s.arrive .heat c).guard .silica).state = .clear) := by
  have hbefore := s.record_before .heat c .trip
  have hunit : (s.record .heat c .trip).unit unitHX = s.unit unitHX := hbefore.unit _ rfl
  have hfinal : Reaches .alarms ((s.record .heat c .trip).tripSteps .heat) (s.arrive .heat c) := by
    rw [s.arrive_other hc hl nofun]
    exact (tracks_reaches .alarms).arriveAlarm _ trivial trivial
  refine ⟨?_, fun hrest => ?_⟩
  · have hlisted : Same ((s.record .heat c .trip).setLevel .heat .trip) ((s.record .heat c .trip).listed .heat) :=
      (State.pushTripList_reacts _ .heat).same
    have hparams : ((s.record .heat c .trip).listed .heat).TripStatesOk := fun v => by
      rw [State.listed_unit, show (s.record .heat c .trip).unit v = s.unit v from State.recordWith_unit s .heat c .trip false _ v]
      exact hstates v
    have hrests : (((s.record .heat c .trip).tripSteps .heat).unit unitHX).atRest = true :=
      (State.forceGroup_atRest _ .heat ((hlisted.level .heat).mpr (by rw [State.setLevel_group, if_pos rfl])) hparams unitHX
        (mem_groupUnits unitHX)).2
    have hstays : UnitStays unitHX ((s.record .heat c .trip).tripSteps .heat) (s.arrive .heat c) := hfinal _ (tracks_unit id)
    rw [hstays (UnitRec.phase_of_atRest hrests)]
    exact hrests
  · exact hfinal _ (tracks_stateClear .alarms .silica)
      ((s.record .heat c .trip).tripSteps_clear (u := unitHX) .heat rfl rfl (hunit.symm ▸ hrest))

theorem State.marginHanded_reacts (s : State) : Reacts (s.noted s.silicaMargined) s.marginHanded := by
  unfold State.marginHanded
  split
  · exact .refl
  · exact (State.handOver_alarm _ .heat (c := .silicaMargin) rfl rfl _).1

/-- R136, R140: a SILICA_TRIP that arrives in a Heat group outside TRIP. -/
theorem State.tripHanded_trips (s : State) (htrip : s.silicaNext.trip = true) (hnew : s.swu.sil.trip = false)
    (hstates : s.TripStatesOk) (hl : (s.group .heat).level ≠ .trip) :
    (s.tripHanded.unit unitHX).atRest = true ∧ ((s.unit unitHX).inUse = true → (s.tripHanded.guard .silica).state = .clear) := by
  have hturn : s.silicaNext.trip ≠ s.swu.sil.trip := by rw [htrip, hnew]; decide
  have ht : s.tripHanded = (s.marginHanded.noted s.silicaNext).arrive .heat .silicaTrip := by
    rw [State.tripHanded, if_neg hturn, htrip]
    rfl
  have hreacts := s.marginHanded_reacts
  have hunit : UnitStays unitHX s s.marginHanded := by
    unfold State.marginHanded
    split
    · exact fun _ => rfl
    · cases hb : s.silicaMargined.margin with
      | false => exact (s.noted_spared _ .silica unitHX).trans (State.deactivate_spared _ .heat .silicaMargin .silica unitHX) |>.unit
      | true =>
        have harrives : (s.noted s.silicaMargined).handOver .heat .silicaMargin true = (s.noted s.silicaMargined).arriveAlarm .heat .silicaMargin :=
          State.arrive_alarm (s.noted s.silicaMargined) .heat (c := .silicaMargin) rfl
        rw [harrives]
        exact fun hs => (tracks_unit (R := .alarms) id).arriveAlarm (s.noted s.silicaMargined) trivial trivial hs
  have hlevel : ((s.marginHanded.noted s.silicaNext).group .heat).level ≠ .trip := mt (hreacts.same.level .heat).mp hl
  obtain ⟨hrest, hclear⟩ := State.arrive_heat (s.marginHanded.noted s.silicaNext) (c := .silicaTrip) rfl hlevel
    (hreacts.tripStates hstates)
  rw [ht]
  refine ⟨hrest, fun huse => hclear ?_⟩
  obtain ⟨hphase, hstate⟩ := (UnitRec.inUse_iff _).mp huse
  refine UnitRec.atRest_false fun ⟨_, hrests⟩ => ?_
  rw [show (s.marginHanded.noted s.silicaNext).unit unitHX = s.unit unitHX from hunit hphase] at hrests
  rcases hstate with h | h <;> rw [h] at hrests <;> simp at hrests

theorem UnitRec.inUse_of_atRest {x : UnitRec} (h : x.atRest = true) : ¬x.inUse = true := fun huse => by
  obtain ⟨_, hrest⟩ := x.atRest_iff.mp h
  obtain ⟨_, hstate⟩ := x.inUse_iff.mp huse
  rcases hstate with h | h <;> rw [h] at hrest <;> simp at hrest

/-- Settles O58. -/
theorem silicaSteps : Obligations.SilicaSteps := by
  unfold Obligations.SilicaSteps
  refine ⟨limitOf_spec, ?_⟩
  intro s v x r y w service
  refine ⟨fun hv => ?usable, fun hv => ?skipped⟩
  case usable =>
    have husable : (s.snap.ai[aiBrineOut]).usable = true := (Sample.usable_iff _).mpr hv
    obtain ⟨hkeeps, hsil⟩ := s.evalSilica_keeps husable
    have hr : r = _ := s.evalSilica_usable husable
    have hy : y = s.silicaNext := hsil
    have hmargin (hne : y.margin ≠ x.margin) : Turned s .heat .silicaMargin y.margin r := by
      rw [hy] at hne ⊢
      exact ((s.marginHanded_turned hne).keep s.tripHanded_keeps fun h => h rfl).keep hkeeps id
    have htrip (hne : y.trip ≠ x.trip) : Turned s .heat .silicaTrip y.trip r := by
      rw [hy] at hne ⊢
      exact (s.tripHanded_turned hne).keep hkeeps id
    clear_value y
    subst hy
    refine ⟨rfl, rfl, rfl, marginNext_iff _ _ _, tripNext_iff _ _ _ _, fun h => tripNext_counter h _ _ _,
      fun hne hb => ((hmargin hne).1 hb).1, fun hne hb => ⟨((htrip hne).1 hb).1, ((htrip hne).1 hb).2 rfl⟩,
      fun hlogs => ⟨fun hne hb => (hmargin hne).2 hb hlogs, fun hne hb => (htrip hne).2 hb hlogs⟩, ?_⟩
    intro noted a b t
    have ht : t = s.tripHanded := rfl
    clear_value t
    subst ht
    refine ⟨fun huse => hr.trans (if_pos ((UnitRec.inUse_iff _).mpr huse)),
      fun hno => hr.trans (if_neg (mt (UnitRec.inUse_iff _).mp hno)), fun hm htr => ?_, fun hb hnew hstates hl => ?_⟩
    · have hspared := (s.marginHanded_spared .silica unitHX hm).trans (s.tripHanded_spared .silica unitHX htr)
      refine ⟨hspared.guard, fun huse => ?_⟩
      show _ ∧ _
      rw [hspared.unit huse.1]
      exact huse
    · obtain ⟨hrest, hclear⟩ := s.tripHanded_trips hb hnew hstates hl
      have hout := UnitRec.inUse_of_atRest hrest
      refine ⟨fun huse => hout ((UnitRec.inUse_iff _).mpr huse), fun huse => ?_⟩
      rw [hr, if_neg hout]
      exact hclear ((UnitRec.inUse_iff _).mpr huse)
  case skipped =>
    have hr : r = _ := s.evalSilica_skipped (mt (Sample.usable_iff _).mp hv)
    exact ⟨fun huse => hr.trans (if_pos ((UnitRec.inUse_iff _).mpr huse)), fun hno => hr.trans (if_neg (mt (UnitRec.inUse_iff _).mp hno))⟩

end Sys2Proof.Machine
end

section
/-! What the trip entries of start-up do to the channels (R107, R180): every unit is at rest, every group in TRIP, and no push
discards an entry. -/

namespace Sys2Proof.Machine

variable {s t b : State} {c d : ChanId} {x : Channel} {l : List Entry}

/-! ### A channel between the pushes of start-up -/

/-- R16: a stack that holds entries of the two causes that reach the Field group at start-up, and nothing else. -/
structure StartAlarms (l : List Entry) : Prop where
  ok : StackOk l
  source : ∀ e ∈ l, e.source = .alarm .tgTripped ∨ e.source = .alarm .hxTripped

/-- A channel at its target, with the TRIP entry of its trip list alone, or with an empty stack at its safe level. -/
structure Channel.Settled (x : Channel) : Prop where
  applied : x.applied = x.target
  top : (x.stack = [] ∧ x.target = x.params.safe) ∨
    ∃ e : Entry, x.stack = [e] ∧ e.source = .trip ∧ e.kind = .value ∧ x.target = e.value

/-- The channel with entries beneath what its stack holds. -/
def Channel.over (x : Channel) (l : List Entry) : Channel := { x with stack := l ++ x.stack }

theorem startAlarms_nil : StartAlarms [] := ⟨stackOk_nil, nofun⟩

theorem StartAlarms.ne_trip (h : StartAlarms l) {e : Entry} (he : e ∈ l) : e.source ≠ .trip := fun htrip => by
  rcases h.source e he with hs | hs <;> exact absurd (hs.symm.trans htrip) (by decide)

/-- Two causes have two entries at most. -/
theorem StartAlarms.length_le (h : StartAlarms l) : l.length ≤ 2 := by
  obtain ⟨⟨_, hnodup, _⟩, hsource⟩ := h
  have hsub : l.map (·.source) ⊆ [.alarm .tgTripped, .alarm .hxTripped] := fun y hy => by
    obtain ⟨e, he, rfl⟩ := List.mem_map.mp hy
    simpa using hsource e he
  simpa using (List.subperm_of_subset hnodup hsub).length_le

theorem StartAlarms.push (h : StartAlarms l) {y : Entry} (hy : y.source = .alarm .tgTripped ∨ y.source = .alarm .hxTripped) :
    StartAlarms (pushEntry y l) where
  ok := h.ok.push fun htrip => by rcases hy with hs | hs <;> exact absurd (hs.symm.trans htrip) (by decide)
  source e he := by
    rcases mem_pushEntry he with rfl | hl
    · exact hy
    · exact h.source e hl

/-- R16: the TRIP entry of a settled channel stays on top, and no entry is discarded. -/
theorem Channel.Settled.push (hx : x.Settled) (hl : StartAlarms l) {y : Entry}
    (hy : y.source = .alarm .tgTripped ∨ y.source = .alarm .hxTripped) :
    discardedBy y (x.over l).stack = none ∧ pushEntry y (x.over l).stack = pushEntry y l ++ x.stack := by
  have hne : y.source ≠ .trip := fun htrip => by rcases hy with hs | hs <;> exact absurd (hs.symm.trans htrip) (by decide)
  have hlow : ∀ e ∈ l, e.source ≠ .trip := fun e he => hl.ne_trip he
  have hlen := hl.length_le
  show discardedBy y (l ++ x.stack) = none ∧ pushEntry y (l ++ x.stack) = _
  rcases hx.top with ⟨hstack, -⟩ | ⟨e, hstack, htrip, -, -⟩
  · rw [hstack, List.append_nil, List.append_nil]
    cases hhas : hasSource y.source l with
    | true => exact ⟨(pushEntry_present hhas).2, rfl⟩
    | false => exact ⟨(pushEntry_absent hhas (by omega)).2.trans (if_neg (by omega)), rfl⟩
  · have hsame : hasSource y.source (l ++ [e]) = hasSource y.source l := by simp [hasSource, htrip, hne.symm]
    rw [hstack]
    cases hhas : hasSource y.source l with
    | true =>
      obtain ⟨hpush, hdiscard⟩ := pushEntry_present (hsame.trans hhas)
      rw [(pushEntry_present hhas).1]
      exact ⟨hdiscard, hpush.trans (by simp [replaceEntry, htrip, hne.symm])⟩
    | false =>
      have hlong : (l ++ [e]).length ≤ 3 := by simpa using Nat.lt_succ_of_le hlen
      obtain ⟨hpush, hdiscard⟩ := pushEntry_absent (hsame.trans hhas) (by omega)
      obtain ⟨hbare, -⟩ := pushEntry_absent hhas (by omega)
      rw [if_neg (by omega)] at hpush hdiscard hbare
      exact ⟨hdiscard, by rw [hpush, hbare, insertEntry_beneath hne hlow htrip, insertEntry_top hne hlow]; simp⟩

/-- R20: from the safe level no entry but a TRIP entry counts. -/
theorem foldStack_untripped (v : Nat) (h : ∀ e ∈ l, e.source ≠ .trip) : foldStack false v l = v := by
  induction l with
  | nil => rfl
  | cons e l ih =>
    obtain ⟨he, hl⟩ := List.forall_mem_cons.mp h
    unfold foldStack at ih ⊢
    rw [List.foldl_cons, if_neg (by simp [he])]
    exact ih hl

theorem Channel.Settled.fold (hx : x.Settled) (hl : ∀ e ∈ l, e.source ≠ .trip) : (x.over l).fold false = x.target := by
  rcases hx.top with ⟨hstack, hsafe⟩ | ⟨e, hstack, htrip, hkind, hvalue⟩
  · show foldStack false x.params.safe (l ++ x.stack) = _
    rw [hstack, List.append_nil, foldStack_untripped _ hl, hsafe]
  · exact (Channel.fold_under (ch := x.over l) (congrArg (l ++ ·) hstack) htrip hkind false).trans hvalue.symm

/-- R12, R21: the push of an ALARM entry changes the stack of a settled channel and nothing else. -/
theorem State.push_settled_over (s : State) (hrest : (s.unit (unitOf c)).atRest = true) (hx : x.Settled) (hl : StartAlarms l)
    (hc : s.chan c = x.over l) {y : Entry} (hy : y.source = .alarm .tgTripped ∨ y.source = .alarm .hxTripped) :
    s.push c y = s.modChan c fun _ => x.over (pushEntry y l) := by
  obtain ⟨hdiscard, hpush⟩ := hx.push hl hy
  have hraw : s.pushRaw c y = s.modChan c fun _ => x.over (pushEntry y l) := by
    unfold State.pushRaw
    rw [hc, hdiscard]
    refine State.modChan_congr ?_
    rw [hc, hpush]
    rfl
  have hfold := hx.fold (l := pushEntry y l) fun e he => (hl.push hy).ne_trip he
  have hself : ((x.over (pushEntry y l)).retarget true x.target) = x.over (pushEntry y l) :=
    Channel.retarget_self (x.over (pushEntry y l)) true fun _ _ => hx.applied
  unfold State.push
  rw [hraw, State.refold_eq, State.modChan_unit, hrest, UnitRec.folds_safe_at_rest hrest, State.modChan_self]
  · exact State.testUnit_none (s.modChan c _) _ (UnitRec.phase_of_atRest hrest)
  · rw [State.chan_modChan, if_pos rfl, hfold]
    exact hself

/-! ### The ALARM entries of the causes that propagate to the Field group -/

/-- Every unit is at rest, and each channel is a settled one with entries of the start-up alarms beneath its TRIP entry. -/
structure State.Holds (s : State) (x : ChanId → Channel) (l : ChanId → List Entry) : Prop where
  rest : ∀ u, (s.unit u).atRest = true
  settled : ∀ d, (x d).Settled
  alarms : ∀ d, StartAlarms (l d)
  chan : ∀ d, s.chan d = (x d).over (l d)

/-- A channel's entries after the pushes of a cause's actions. -/
def pushedBy (c : Cause) (now : Word) (l : List Action) (d : ChanId) (k : List Entry) : List Entry :=
  l.foldl (fun k a => if a.channel = d then pushEntry ⟨.alarm c, a.kind, a.value, now⟩ k else k) k

theorem State.Holds.push {x : ChanId → Channel} {l : ChanId → List Entry} (h : s.Holds x l) (c : ChanId) {y : Entry}
    (hy : y.source = .alarm .tgTripped ∨ y.source = .alarm .hxTripped) :
    (s.push c y).Holds x (fun d => if c = d then pushEntry y (l d) else l d) ∧ { s.push c y with ch := s.ch } = s := by
  rw [s.push_settled_over (h.rest _) (h.settled c) (h.alarms c) (h.chan c) hy]
  refine ⟨⟨h.rest, h.settled, fun d => ?_, fun d => ?_⟩, rfl⟩
  · split
    case isTrue => exact (h.alarms d).push hy
    case isFalse => exact h.alarms d
  · rw [State.chan_modChan]
    by_cases hd : d = c
    · subst hd
      rw [if_pos rfl, if_pos rfl]
    · rw [if_neg hd, if_neg (Ne.symm hd)]
      exact h.chan d

theorem State.Holds.pushes {x : ChanId → Channel} {k : Cause} (hk : k = .tgTripped ∨ k = .hxTripped) :
    ∀ (a : List Action) {s : State} {l : ChanId → List Entry}, s.Holds x l →
      (s.each a fun a s => s.push a.channel ⟨.alarm k, a.kind, a.value, s.ms⟩).Holds x (fun d => pushedBy k s.ms a d (l d)) ∧
        { s.each a fun a s => s.push a.channel ⟨.alarm k, a.kind, a.value, s.ms⟩ with ch := s.ch } = s
  | [], s, l, h => ⟨h, rfl⟩
  | y :: a, s, l, h => by
    obtain ⟨hpush, hframe⟩ := h.push y.channel (y := ⟨.alarm k, y.kind, y.value, s.ms⟩)
      (by rcases hk with rfl | rfl <;> simp)
    obtain ⟨hrest, hrestFrame⟩ := State.Holds.pushes hk a hpush
    have hms : (s.push y.channel ⟨.alarm k, y.kind, y.value, s.ms⟩).ms = s.ms := (congrArg State.ms hframe :)
    rw [hms] at hrest
    refine ⟨hrest, ?_⟩
    rw [State.each_cons]
    calc _ = ({ s.push y.channel ⟨.alarm k, y.kind, y.value, s.ms⟩ with ch := s.ch } : State) :=
          congrArg (fun q : State => { q with ch := s.ch }) hrestFrame
      _ = s := hframe

/-- R88, R94: a propagated cause arrives in the Field group, in TRIP: its record, and the entries of its actions. -/
theorem State.Holds.arriveAlarm {x : ChanId → Channel} {l : ChanId → List Entry} (h : s.Holds x l)
    (hl : (s.group .field).level = .trip) {k : Cause} (hk : k = .tgTripped ∨ k = .hxTripped) :
    (s.arriveAlarm .field k).Holds x (fun d => s.alarmed .field k d (l d)) ∧
      { s.arriveAlarm .field k with ch := s.ch } = s.record .field k .alarm := by
  let r := s.record .field k .alarm
  have hframe : { r with groups := s.groups, ports := s.ports } = s := s.record_rest .field k .alarm
  have hr : r.Holds x l := ⟨fun u => (congrArg (fun q : State => (q.unit u).atRest) hframe).trans (h.rest u), h.settled, h.alarms,
    fun d => (congrArg (fun q : State => q.chan d) hframe).trans (h.chan d)⟩
  have hactions : r.actions = s.actions := (congrArg State.actions hframe :)
  have hms : r.ms = s.ms := (congrArg State.ms hframe :)
  have hch : r.ch = s.ch := (congrArg State.ch hframe :)
  obtain ⟨hpushes, hstays⟩ := hr.pushes hk (r.actionsIn .field k)
  have hpushed : (r.applyActions .field k).Holds x fun d => r.alarmed .field k d (l d) := hpushes
  have hlevel : ((r.applyActions .field k).group .field).level = .trip :=
    (congrArg (fun q : State => (q.group .field).level) hstays).trans
      (((s.record_raws .field k .alarm).same.level .field).mpr hl)
  have harrive : s.arriveAlarm .field k = r.applyActions .field k := State.relevel_trip _ hlevel
  rw [hch] at hstays
  simp only [State.alarmed_congr hactions hms] at hpushed
  rw [harrive]
  exact ⟨hpushed, hstays⟩

/-! ### The TRIP entries -/

/-- R14, R107: a channel with an empty stack takes the TRIP entry of an item, where its trip list has one. -/
def Channel.taking (x : Channel) (now : Word) : Option TripItem → Channel
  | none => x
  | some i => ({ x with stack := [⟨.trip, .value, i.value, now⟩] } : Channel).tripJump i.value

theorem State.pushTrip_empty (s : State) (hc : (s.chan c).stack = []) (v : Nat) :
    s.pushTrip c v = s.modChan c fun x => ({ x with stack := [⟨.trip, .value, v, s.ms⟩] } : Channel).tripJump v := by
  have hraw : s.pushRaw c ⟨.trip, .value, v, s.ms⟩ = s.modChan c fun x => { x with stack := [⟨.trip, .value, v, s.ms⟩] } := by
    have hnone : discardedBy ⟨.trip, .value, v, s.ms⟩ [] = none := rfl
    unfold State.pushRaw
    rw [hc, hnone]
    exact State.modChan_congr (congrArg (fun l => ({ s.chan c with stack := pushEntry _ l } : Channel)) hc)
  unfold State.pushTrip
  rw [hraw]
  unfold State.modChan State.chan
  simp only [Fin.getElem_fin, Vector.getElem_set_self, Vector.set_set]

/-- R97 step 2: each channel of a list takes its TRIP entry, from empty stacks. -/
theorem State.pushTrips_taking : ∀ (l : List TripItem) (s : State), (l.map (·.channel)).Nodup →
    (∀ i ∈ l, (s.chan i.channel).stack = []) →
    { s.each l fun i s => s.pushTrip i.channel i.value with ch := s.ch } = s ∧
      ∀ d, (s.each l fun i s => s.pushTrip i.channel i.value).chan d =
        (s.chan d).taking s.ms (l.find? fun i => decide (i.channel = d))
  | [], s, _, _ => ⟨rfl, fun _ => rfl⟩
  | i :: l, s, hnodup, hempty => by
    obtain ⟨hfresh, hnodup⟩ := List.nodup_cons.mp hnodup
    obtain ⟨hi, hempty⟩ := List.forall_mem_cons.mp hempty
    have hother : ∀ j ∈ l, j.channel ≠ i.channel := fun j hj heq => hfresh (List.mem_map.mpr ⟨j, hj, heq⟩)
    have hchan (d : ChanId) := s.chan_modChan i.channel d fun x =>
      ({ x with stack := [⟨.trip, .value, i.value, s.ms⟩] } : Channel).tripJump i.value
    rw [State.each_cons, s.pushTrip_empty hi]
    obtain ⟨hframe, htakes⟩ := State.pushTrips_taking l (s.modChan i.channel fun x =>
      ({ x with stack := [⟨.trip, .value, i.value, s.ms⟩] } : Channel).tripJump i.value) hnodup fun j hj => by
        rw [hchan, if_neg (hother j hj)]
        exact hempty j hj
    refine ⟨congrArg (fun q : State => { q with ch := s.ch }) hframe, fun d => ?_⟩
    rw [htakes, hchan]
    by_cases hd : d = i.channel
    · have hnone : l.find? (fun j => decide (j.channel = d)) = none :=
        List.find?_eq_none.mpr fun j hj => by simpa [hd] using hother j hj
      rw [if_pos hd, hnone, List.find?_cons_of_pos (by simp [hd]), hd]
      rfl
    · rw [if_neg hd, List.find?_cons_of_neg (by simpa using Ne.symm hd)]
      rfl

/-- R79: units at rest are not forced, and no GO is in flight. -/
theorem State.forceGroup_rest (s : State) (g : Group) (hrest : ∀ u, (s.unit u).atRest = true) (hbusy : (s.group g).busy = false) :
    s.forceGroup g = s := by
  have henter : (s.each (groupUnits g) fun u s => s.enterTripState u) = s :=
    State.each_induct (P := (· = s)) _ _ (fun u _ q hq => by rw [hq]; exact if_pos (hrest u)) s rfl
  have hforced : (s.each (groupUnits g) fun u q => q.forced u s.units[u]) = s :=
    State.each_induct (P := (· = s)) _ _ (fun u _ q hq => by rw [hq]; exact s.forced_rest u (hrest u)) s rfl
  unfold State.forceGroup
  dsimp only
  rw [henter, hforced, if_neg (by rw [hbusy]; decide)]

/-- R97 step 2: the item of a channel in the trip list of its group. -/
def State.tripItem (s : State) (d : ChanId) : Option TripItem :=
  (s.group (chanGroup d)).tripList.find? fun i => decide (i.channel = d)

theorem State.pushTripList_taking (s : State) {g : Group} (hlist : tripListOk g (s.group g).tripList)
    (hempty : ∀ d, chanGroup d = g → (s.chan d).stack = []) :
    { s.pushTripList g with ch := s.ch } = s ∧
      ∀ d, (s.pushTripList g).chan d = if chanGroup d = g then (s.chan d).taking s.ms (s.tripItem d) else s.chan d := by
  obtain ⟨hin, hnodup⟩ := hlist
  obtain ⟨hframe, htakes⟩ := State.pushTrips_taking (s.group g).tripList s hnodup fun i hi => hempty _ (hin i hi)
  refine ⟨hframe, fun d => (htakes d).trans ?_⟩
  split
  case isTrue hd => rw [← hd]; rfl
  case isFalse hd =>
    have hnone : (s.group g).tripList.find? (fun i => decide (i.channel = d)) = none :=
      List.find?_eq_none.mpr fun i hi => by
        have hne : i.channel ≠ d := fun heq => hd (heq ▸ hin i hi)
        simpa using hne
    rw [hnone]
    rfl

/-- R107: the trip entries of start-up push the trip lists, and force no unit. -/
theorem State.startTrips_taking : ∀ (l : List Group) (s : State), l.Nodup → (∀ u, (s.unit u).atRest = true) →
    (∀ g, (s.group g).busy = false) → s.TripListsOk → (∀ d, chanGroup d ∈ l → (s.chan d).stack = []) →
    { s.each l fun g s => (s.pushTripList g).forceGroup g with ch := s.ch } = s ∧
      ∀ d, (s.each l fun g s => (s.pushTripList g).forceGroup g).chan d =
        if chanGroup d ∈ l then (s.chan d).taking s.ms (s.tripItem d) else s.chan d
  | [], s, _, _, _, _, _ => ⟨rfl, fun _ => rfl⟩
  | g :: l, s, hnodup, hrest, hbusy, hlists, hempty => by
    obtain ⟨hfresh, hnodup⟩ := List.nodup_cons.mp hnodup
    obtain ⟨hframe, htakes⟩ := s.pushTripList_taking (hlists g) fun d hd => hempty d (by simp [hd])
    have hunits : (s.pushTripList g).units = s.units := (congrArg State.units hframe :)
    have hgroups : (s.pushTripList g).groups = s.groups := (congrArg State.groups hframe :)
    have hms : (s.pushTripList g).ms = s.ms := (congrArg State.ms hframe :)
    have hunit (u : UnitId) : ((s.pushTripList g).unit u).atRest = true :=
      (congrArg (fun v : Vector UnitRec 12 => v[u].atRest) hunits).trans (hrest u)
    have hgroup (k : Group) : (s.pushTripList g).group k = s.group k :=
      congrArg (fun v : Vector GroupRec 3 => v[groupIdx k]) hgroups
    have hitem (d : ChanId) : (s.pushTripList g).tripItem d = s.tripItem d := by
      unfold State.tripItem
      rw [hgroup]
    rw [State.each_cons, State.forceGroup_rest _ g hunit ((congrArg GroupRec.busy (hgroup g)).trans (hbusy g))]
    obtain ⟨hlater, hchan⟩ := State.startTrips_taking l (s.pushTripList g) hnodup hunit
      (fun k => (congrArg GroupRec.busy (hgroup k)).trans (hbusy k)) (fun k => (congrArg GroupRec.tripList (hgroup k)) ▸ hlists k)
      fun d hd => by
        rw [htakes, if_neg fun heq : chanGroup d = g => hfresh (heq ▸ hd)]
        exact hempty d (List.mem_cons_of_mem _ hd)
    refine ⟨(congrArg (fun q : State => { q with ch := s.ch }) hlater).trans hframe, fun d => ?_⟩
    rw [hchan, htakes, hms, hitem]
    by_cases hd : chanGroup d = g
    · rw [if_neg (by rw [hd]; exact hfresh), if_pos hd, if_pos (by simp [hd])]
    · rw [if_neg hd]
      exact if_congr (by simp [hd]) rfl rfl

/-! ### Settled channels -/

/-- R26: what set-up leaves of a channel. -/
theorem Channel.setUp_spec (p : ChanParams) : (Channel.setUp p).params = p ∧ (Channel.setUp p).base = p.safe ∧
    (Channel.setUp p).target = p.safe ∧ (Channel.setUp p).applied = p.safe := by
  obtain ⟨hparams, hbase, -, htarget⟩ := Channel.retarget_spec { Channel.init p with base := p.safe } true p.safe
  refine ⟨hparams, hbase, htarget, ?_⟩
  unfold Channel.setUp Channel.retarget
  split
  case isTrue =>
    split
    case isTrue heq => exact heq.symm
    case isFalse => exact (Channel.oneShotTarget_spec _ _).2.2.2.2
  case isFalse =>
    rw [if_pos rfl]
    exact (Channel.setApplied_spec _ _).2.2.2.2.1

theorem Channel.setUp_settled (p : ChanParams) : (Channel.setUp p).Settled := by
  obtain ⟨hparams, -, htarget, happlied⟩ := Channel.setUp_spec p
  exact ⟨happlied.trans htarget.symm, .inl ⟨Channel.setUp_stack p, by rw [hparams, htarget]⟩⟩

/-- R14: the TRIP entry of an item stands alone on a stack that was empty, with the target and the applied value at it. -/
theorem Channel.taking_some (x : Channel) (h : x.applied = x.target) (now : Word) (i : TripItem) :
    let y := x.taking now (some i)
    y.params = x.params ∧ y.base = x.base ∧ y.stack = [⟨.trip, .value, i.value, now⟩] ∧ y.target = i.value ∧ y.applied = i.value := by
  intro y
  obtain ⟨hparams, hbase, hstack, -⟩ := Channel.tripJump_spec { x with stack := [⟨.trip, .value, i.value, now⟩] } i.value
  obtain ⟨happlied, htarget, -⟩ := Channel.tripJump_tripped (ch := x) (fun _ => h) ⟨[], (List.nil_append [Entry.mk .trip .value i.value now]).symm⟩
  exact ⟨hparams, hbase, hstack, htarget, happlied⟩

theorem Channel.Settled.taking (hx : x.Settled) (now : Word) (o : Option TripItem) : (x.taking now o).Settled := by
  cases o with
  | none => exact hx
  | some i =>
    obtain ⟨-, -, hstack, htarget, happlied⟩ := x.taking_some hx.applied now i
    exact ⟨happlied.trans htarget.symm, .inr ⟨_, hstack, rfl, rfl, htarget⟩⟩

/-- R8: an armed channel runs its delay, or with a delay of 0 its pulse. -/
theorem Channel.arm_shot (x : Channel) : (x.arm.oneShot, x.arm.timer) =
    if x.params.delay = 0 then (.pulse, some x.params.pulse) else (.delay, some x.params.delay) := by
  unfold Channel.arm Channel.startPulse
  split_ifs <;> rfl

/-- R8, R107: a ONESHOT channel at a safe level of 0 is armed by its TRIP entry. -/
theorem Channel.setUp_armed {p : ChanParams} (hmode : p.mode = .oneshot) (hsafe : p.safe = 0) (now : Word) {i : TripItem}
    (hi : i.value ≠ 0) :
    let y := (Channel.setUp p).taking now (some i)
    (y.oneShot, y.timer) = if p.delay = 0 then (.pulse, some p.pulse) else (.delay, some p.delay) := by
  intro y
  have hset : Channel.setUp p = Channel.init p := by
    unfold Channel.setUp Channel.retarget
    rw [hsafe]
    exact (if_pos hmode).trans (if_pos rfl)
  have hy : y = Channel.arm { Channel.init p with
      stack := [⟨.trip, .value, i.value, now⟩], target := i.value, applied := i.value } := by
    show (Channel.setUp p).taking now (some i) = _
    rw [hset]
    unfold Channel.taking Channel.tripJump Channel.oneShotTarget
    exact (if_pos hmode).trans ((if_neg hi).trans ((if_neg hi).trans (if_pos ⟨rfl, rfl⟩)))
  rw [hy]
  exact Channel.arm_shot _

end Sys2Proof.Machine
end

section
/-! What start-up leaves (R107, R179 to R181). -/

namespace Sys2Proof.Machine

variable {s t r : State} {c : Cause} {now : Word}

/-! ### What the steps after set-up reach -/

/-- From set-up on, start-up changes channels, logs and event queues. -/
structure Charges (s t : State) : Prop where
  rest : { t with ch := s.ch, groups := s.groups, ports := s.ports } = s
  port : ∀ m, { t.port m with queue := (s.port m).queue, lost := (s.port m).lost } = s.port m

theorem Charges.refl : Charges s s := ⟨rfl, fun _ => rfl⟩

theorem Charges.trans (a : Charges s t) (b : Charges t r) : Charges s r where
  rest := (congrArg (fun q : State => { q with ch := s.ch, groups := s.groups, ports := s.ports }) b.rest).trans a.rest
  port m := (congrArg (fun p : Port => { p with queue := (s.port m).queue, lost := (s.port m).lost }) (b.port m)).trans (a.port m)

theorem Charges.ms (a : Charges s t) : t.ms = s.ms := (congrArg State.ms a.rest :)

theorem Charges.alarmed (a : Charges s t) (g : Group) (c : Cause) (d : ChanId) (l : List Entry) :
    t.alarmed g c d l = s.alarmed g c d l := State.alarmed_congr (congrArg State.actions a.rest :) a.ms g c d l

theorem charges_of_ch (h : { t with ch := s.ch } = s) : Charges s t where
  rest := (congrArg (fun q : State => { q with ch := s.ch, groups := s.groups, ports := s.ports }) h :)
  port m := congrArg (fun q : State => { q.port m with queue := (s.port m).queue, lost := (s.port m).lost }) h

theorem Port.append_rest (p : Port) (e : Event) : { p.append e with queue := p.queue, lost := p.lost } = p := by
  unfold Port.append
  split <;> rfl

theorem State.record_charges (s : State) (g : Group) (hm : c.isMomentary = false) (cls : CauseClass) :
    Charges s (s.record g c cls) where
  rest := congrArg (fun q : State => { q with ch := s.ch }) (s.record_rest g c cls)
  port m := by
    rw [s.record_port g hm cls m]
    split
    · rfl
    · exact (s.port m).append_rest _

/-! ### The logs -/

/-- The record that start-up makes of a cause. -/
def startRecord (now : Word) (c : Cause) (cls : CauseClass) (momentary active : Bool) : CauseRec :=
  ⟨c, cls, momentary, now, now, 1, active, false⟩

/-- R107: each group in TRIP with a trip list and a log, and nothing else. -/
def State.LogsStand (s : State) (lists : Group → List TripItem) (logs : Group → List CauseRec) : Prop :=
  ∀ g, s.group g = { GroupRec.init (lists g) with log := logs g }

theorem State.LogsStand.congr {lists : Group → List TripItem} {logs : Group → List CauseRec} (h : s.LogsStand lists logs)
    (ht : t.groups = s.groups) : t.LogsStand lists logs := fun g =>
  (congrArg (fun v : Vector GroupRec 3 => v[groupIdx g]) ht).trans (h g)

/-- R88: a new cause appends its record where the log has room. -/
theorem State.LogsStand.record {lists : Group → List TripItem} {logs : Group → List CauseRec} (h : s.LogsStand lists logs)
    (g : Group) (cls : CauseClass) (hnew : ∀ z ∈ logs g, z.cause ≠ c) (hroom : (logs g).length < 8) :
    (s.record g c cls).LogsStand lists fun k => if k = g then logs g ++ [startRecord s.ms c cls false true] else logs k := by
  intro k
  unfold State.record
  rw [State.recordWith_group]
  split
  case isTrue hk =>
    subst hk
    have hhas : ¬(s.group k).has c = true := fun hhas => by
      obtain ⟨z, hz, hc⟩ := List.any_eq_true.mp hhas
      rw [h k] at hz
      exact hnew z hz (of_decide_eq_true hc)
    have hlen : (s.group k).log.length < logSize := by rw [h k]; exact hroom
    unfold GroupRec.arrive
    rw [if_neg hhas, if_pos hlen, h k]
    exact congrArg (fun l => { GroupRec.init (lists k) with log := l }) (if_pos rfl).symm
  case isFalse hk => exact (h k).trans (congrArg (fun l => { GroupRec.init (lists k) with log := l }) (if_neg hk).symm)

theorem State.LogsStand.level {lists : Group → List TripItem} {logs : Group → List CauseRec} (h : s.LogsStand lists logs)
    (g : Group) : (s.group g).level = .trip := by rw [h g]; rfl

/-- One cause arrives in several groups in TRIP. -/
theorem State.LogsStand.records {lists : Group → List TripItem} (hm : c.isMomentary = false) (cls : CauseClass) :
    ∀ (l : List Group) {s : State} {logs : Group → List CauseRec}, l.Nodup → s.LogsStand lists logs →
      (∀ g ∈ l, (∀ z ∈ logs g, z.cause ≠ c) ∧ (logs g).length < 8) →
      (s.each l fun g s => s.record g c cls).LogsStand lists
          (fun k => if k ∈ l then logs k ++ [startRecord s.ms c cls false true] else logs k) ∧
        Charges s (s.each l fun g s => s.record g c cls) ∧ (s.each l fun g s => s.record g c cls).ch = s.ch
  | [], s, logs, _, h, _ => ⟨h, .refl, rfl⟩
  | g :: l, s, logs, hnodup, h, hlogs => by
    obtain ⟨hfresh, hnodup⟩ := List.nodup_cons.mp hnodup
    obtain ⟨⟨hnew, hroom⟩, hlogs⟩ := List.forall_mem_cons.mp hlogs
    have hframe : { s.record g c cls with groups := s.groups, ports := s.ports } = s := s.record_rest g c cls
    have hms : (s.record g c cls).ms = s.ms := (congrArg State.ms hframe :)
    have hch : (s.record g c cls).ch = s.ch := (congrArg State.ch hframe :)
    have hne {k : Group} (hk : k ∈ l) : k ≠ g := fun heq => hfresh (heq ▸ hk)
    obtain ⟨hstand, hcharges, hlater⟩ := State.LogsStand.records hm cls l hnodup (h.record g cls hnew hroom) fun k hk => by
      rw [if_neg (hne hk)]
      exact hlogs k hk
    refine ⟨fun k => (hstand k).trans (congrArg (fun l => { GroupRec.init (lists k) with log := l }) ?_),
      (s.record_charges g hm cls).trans hcharges, hlater.trans hch⟩
    dsimp only
    rw [hms]
    by_cases hk : k = g
    · subst hk
      rw [if_neg hfresh, if_pos rfl, if_pos List.mem_cons_self]
    · rw [if_neg hk]
      exact if_congr (by simp [hk]) rfl rfl

/-- R98, R107: FIELD_TRIPPED arrives in groups that are in TRIP already. -/
theorem State.propagateField_known (s : State) (hlevel : ∀ g, (s.group g).level = .trip) :
    s.propagateField = s.each [.turbine, .heat] fun g s => s.record g .fieldTripped .trip := by
  have hfirst : s.fieldTrips .turbine = s.record .turbine .fieldTripped .trip := s.fieldTrips_known (hlevel _)
  have hnext := (s.record .turbine .fieldTripped .trip).fieldTrips_known (k := .heat)
    (((s.record_raws .turbine .fieldTripped .trip).same.level .heat).mpr (hlevel _))
  show (s.fieldTrips .turbine).fieldTrips .heat = _
  rw [hfirst, hnext]
  rfl

/-! ### Start-up to the last trip entry -/

/-- R107: the records that set-up and a BAD profile leave in each log. -/
def resetLog (now : Word) (good : Bool) : List CauseRec :=
  startRecord now .reset .trip true false :: if good then [] else [startRecord now .profileBad .trip false true]

/-- Table 5-8: the log of a group when start-up ends. -/
def startLog (now : Word) (good : Bool) (g : Group) : List CauseRec :=
  resetLog now good ++ if g = .field then
    [startRecord now .tgTripped .alarm false true, startRecord now .hxTripped .alarm false true]
  else [startRecord now .fieldTripped .trip false true]

theorem resetLog_room (now : Word) (good : Bool) : (resetLog now good).length ≤ 2 ∧
    ∀ z ∈ resetLog now good, z.cause = .reset ∨ z.cause = .profileBad := by
  cases good <;> simp [resetLog, startRecord]

theorem State.badProfile_stands {lists : Group → List TripItem} (h : s.LogsStand lists fun _ => resetLog s.ms true) :
    s.badProfile.LogsStand lists (fun _ => resetLog s.ms (decide (s.pfl.state = .good))) ∧ Charges s s.badProfile ∧
      s.badProfile.ch = s.ch := by
  unfold State.badProfile
  split
  case isTrue hgood =>
    rw [decide_eq_true hgood]
    exact ⟨h, .refl, rfl⟩
  case isFalse hbad =>
    rw [decide_eq_false hbad]
    obtain ⟨hstand, hcharges, hch⟩ := State.LogsStand.records (c := .profileBad) rfl .trip allGroups (by decide) h fun g _ =>
      ⟨by simp [resetLog, startRecord], by simp [resetLog]⟩
    refine ⟨fun k => (hstand k).trans (congrArg (fun l => { GroupRec.init (lists k) with log := l }) ?_), hcharges, hch⟩
    exact if_pos (by cases k <;> decide)

theorem State.Holds.congr {x : ChanId → Channel} {l : ChanId → List Entry} (h : s.Holds x l) (ha : Charges s t)
    (hch : t.ch = s.ch) : t.Holds x l where
  rest u := (congrArg (fun q : State => (q.unit u).atRest) ha.rest).trans (h.rest u)
  settled := h.settled
  alarms := h.alarms
  chan d := (congrArg (fun v : Vector Channel 16 => v[d]) hch).trans (h.chan d)

/-- R94, R98: TG_TRIPPED or HX_TRIPPED arrives in the Field group at start-up. -/
theorem State.Holds.propagates {x : ChanId → Channel} {l : ChanId → List Entry} {lists : Group → List TripItem}
    {logs : Group → List CauseRec} (h : s.Holds x l) (hlogs : s.LogsStand lists logs) {k : Cause}
    (hk : k = .tgTripped ∨ k = .hxTripped) (hnew : ∀ z ∈ logs .field, z.cause ≠ k) (hroom : (logs .field).length < 8) :
    (s.arriveAlarm .field k).Holds x (fun d => s.alarmed .field k d (l d)) ∧ Charges s (s.arriveAlarm .field k) ∧
      (s.arriveAlarm .field k).LogsStand lists
        fun g => if g = .field then logs .field ++ [startRecord s.ms k .alarm false true] else logs g := by
  obtain ⟨hholds, hframe⟩ := h.arriveAlarm (hlogs.level .field) hk
  have hrecord := s.record_charges .field (c := k) (by rcases hk with rfl | rfl <;> rfl) .alarm
  have hgroups : (s.arriveAlarm .field k).groups = (s.record .field k .alarm).groups := (congrArg State.groups hframe :)
  have hch : (s.record .field k .alarm).ch = s.ch :=
    (congrArg State.ch (s.record_rest .field k .alarm) :)
  rw [← hch] at hframe
  exact ⟨hholds, hrecord.trans (charges_of_ch hframe), (hlogs.record .field .alarm hnew hroom).congr hgroups⟩

/-- R107: the trip entries of start-up, with what they propagate. -/
theorem State.startUpTrips_spec {lists : Group → List TripItem} {good : Bool} (s : State)
    (hrest : ∀ u, (s.unit u).atRest = true) (hlogs : s.LogsStand lists fun _ => resetLog s.ms good)
    (hlists : ∀ g, tripListOk g (lists g)) (hempty : ∀ d, (s.chan d).stack = []) (hsettled : ∀ d, (s.chan d).Settled) :
    Charges s s.startUpTrips ∧ s.startUpTrips.LogsStand lists (startLog s.ms good) ∧
      ∀ d, s.startUpTrips.chan d = ((s.chan d).taking s.ms (s.tripItem d)).over
        (s.alarmed .field .hxTripped d (s.alarmed .field .tgTripped d [])) := by
  obtain ⟨hlen, hcauses⟩ := resetLog_room s.ms good
  have hother {c : Cause} (hreset : c ≠ .reset) (hbad : c ≠ .profileBad) : ∀ z ∈ resetLog s.ms good, z.cause ≠ c :=
    fun z hz heq => (hcauses z hz).elim (fun h => hreset (heq.symm.trans h)) fun h => hbad (heq.symm.trans h)
  -- the TRIP entries
  obtain ⟨htrips, htaken⟩ := State.startTrips_taking allGroups s (by decide) hrest (fun g => by rw [hlogs g]; rfl)
    (fun g => by rw [hlogs g]; exact hlists g) fun d _ => hempty d
  generalize hp : (s.each allGroups fun g s => (s.pushTripList g).forceGroup g) = p at htrips htaken
  have hpcharges := charges_of_ch htrips
  have hplogs : p.LogsStand lists fun _ => resetLog s.ms good := hlogs.congr (congrArg State.groups htrips :)
  have hpholds : p.Holds (fun d => (s.chan d).taking s.ms (s.tripItem d)) fun _ => [] :=
    ⟨fun u => (congrArg (fun q : State => (q.unit u).atRest) htrips).trans (hrest u), fun d => (hsettled d).taking _ _,
      fun _ => startAlarms_nil, fun d => (htaken d).trans (if_pos (by cases chanGroup d <;> decide))⟩
  -- FIELD_TRIPPED
  obtain ⟨hflogs, hfcharges, hfch⟩ := hplogs.records (c := .fieldTripped) rfl .trip [.turbine, .heat] (by decide) fun _ _ =>
    ⟨hother (by decide) (by decide), by omega⟩
  rw [← p.propagateField_known hplogs.level] at hflogs hfcharges hfch
  have hfholds := hpholds.congr hfcharges hfch
  -- TG_TRIPPED and HX_TRIPPED
  obtain ⟨htholds, htcharges, htlogs⟩ := hfholds.propagates hflogs (.inl rfl) (hother (by decide) (by decide))
    (show (resetLog s.ms good).length < 8 by omega)
  obtain ⟨hholds, hcharges, hstand⟩ := htholds.propagates htlogs (.inr rfl)
    (by
      intro z hz
      rw [if_pos rfl] at hz
      rcases List.mem_append.mp hz with hz | hz
      · exact hother (by decide) (by decide) z hz
      · rw [List.mem_singleton.mp hz]
        nofun)
    (by
      rw [if_pos rfl]
      rw [List.length_append]
      exact Nat.lt_of_le_of_lt (Nat.add_le_add_right hlen 1) (by decide))
  have htobefore := (hpcharges.trans hfcharges).trans htcharges
  have hresult : s.startUpTrips = (p.propagateField.arriveAlarm .field .tgTripped).arriveAlarm .field .hxTripped := by
    rw [← hp]
    rfl
  rw [hresult]
  refine ⟨htobefore.trans hcharges, fun g => ?_, fun d => ?_⟩
  · refine (hstand g).trans (congrArg (fun l => { GroupRec.init (lists g) with log := l }) ?_)
    rw [htobefore.ms, (hpcharges.trans hfcharges).ms, hpcharges.ms]
    cases g <;> simp [startLog]
  · rw [hholds.chan, htobefore.alarmed, (hpcharges.trans hfcharges).alarmed]

/-! ### The end of start-up -/

theorem State.emptyQueues_port (s : State) (m : Master) :
    s.emptyQueues.port m = { s.port m with queue := [], lost := false } := by cases m <;> rfl

theorem State.startTimers_port (s : State) (m : Master) : s.startTimers.port m = (s.port m).reload := by
  have hport (q : State) : (q.each masters fun m s => s.modPort m Port.reload).port m = (q.port m).reload := by
    cases m <;> simp [masters, State.port_modPort]
  exact hport s.startScan

theorem State.leaveStartUp_port (s : State) (m : Master) :
    s.leaveStartUp.port m = (s.port m).append ⟨s.ms, .profileDone s.pfl.state s.pfl.failing⟩ :=
  (State.port_queue (s := s) (fun _ => true) _ m).trans (if_pos rfl)

/-- R180, R181: start-up ends. -/
def State.opened (s : State) : State := (s.emptyQueues.startTimers).leaveStartUp

/-- R180, R181: the first scan and the silence timers have started, and PROFILE_DONE is alone in each queue. -/
theorem State.opened_port (s : State) (m : Master) : s.opened.port m = { s.port m with
    queue := [⟨s.ms, .profileDone s.pfl.state s.pfl.failing⟩], lost := false, timer := (s.port m).fullTimer } := by
  unfold State.opened
  rw [State.leaveStartUp_port, State.startTimers_port, State.emptyQueues_port]
  rfl

theorem State.startTimers_rest (s : State) : { s.startTimers with ports := s.ports } = s.startScan :=
  s.startScan.each_frame (fun q : State => { q with ports := s.ports }) masters _ fun _ _ => rfl

theorem State.opened_rest (s : State) : { s.opened with ports := s.ports, asu := s.asu, run := s.run } = s :=
  (congrArg (fun q : State => { q with ports := s.ports, asu := s.asu, run := s.run }) s.emptyQueues.startTimers_rest :)

theorem State.opened_asu (s : State) :
    s.opened.asu = { s.asu with pos := some 0, nextScan := s.ms + BitVec.ofNat 32 s.asu.period } :=
  (congrArg State.asu s.emptyQueues.startTimers_rest :)

theorem Pfl.load_state (p : Pfl) (a : Option (List Byte)) : (p.load a).state = .good ↔ (p.load a).failing = 0 := by
  show stateOfItem (p.load a).failing = .good ↔ _
  unfold stateOfItem
  split_ifs with h <;> simp [h]

/-- R177: the parameters of a load are those of the image where no item fails. -/
theorem Pfl.load_parameters (p : Pfl) (a : Option (List Byte)) : (p.load a).parameters =
    if (p.load a).failing = 0 then (p.load a).mirror.profile else Profile.default :=
  if_congr (p.load_state a) rfl rfl

/-- What the load reads (R179). -/
theorem Pfl.read_answered (p : Pfl) (bytes : List Byte) (a : Nat) :
    (p.read (some bytes)).read a = if a < 4096 then bytes.getD a 0 else 0 := by
  have hread : (p.read (some bytes)).read a = if 0 ≤ a ∧ a < 0 + (bytes.take 4096).length then
      (bytes.take 4096).getD (a - 0) 0 else Memory.blank := Memory.read_ofBytes _ 0 a
  rw [hread, Nat.sub_zero]
  by_cases ha : a < 4096
  · rw [if_pos ha]
    by_cases hlong : a < bytes.length
    · rw [if_pos (by rw [List.length_take]; omega), List.getD_eq_getElem?_getD, List.getElem?_take_of_lt ha,
        List.getD_eq_getElem?_getD]
    · rw [if_neg (by rw [List.length_take]; omega), List.getD_eq_default _ _ (by omega)]
      rfl
  · rw [if_neg ha, if_neg (by rw [List.length_take]; omega)]
    rfl

theorem Pfl.read_unwritten (p : Pfl) (h : p.write = none) : p.read none = p.eeprom := by
  unfold Pfl.read Pfl.commit
  rw [h]

theorem Pfl.read_eeprom (p : Pfl) (hok : p.eeprom.wf = true) {w : PageWrite} (hw : p.write = some w) (a : Nat) :
    (p.read none).read a =
      if w.offset ≤ a ∧ a < w.offset + w.data.length then w.data.getD (a - w.offset) 0 else p.eeprom.read a := by
  have hread : p.read none = p.eeprom.writeBytes w.offset w.data := by
    unfold Pfl.read Pfl.commit
    rw [hw]
  rw [hread, Memory.read_writeBytes _ hok]

end Sys2Proof.Machine
end

section
/-! The completion of the EEPROM read (R179 to R181). -/

namespace Sys2Proof.Machine

variable {s t r q : State} {P : Profile}

/-- R97 step 2: the item of a channel in a profile's trip list of its group. -/
def Profile.tripItem (P : Profile) (d : ChanId) : Option TripItem :=
  P.tripLists[groupIdx (chanGroup d)].find? fun i => decide (i.channel = d)

theorem Profile.Fits.tripItem_mem (h : P.Fits) {g : Group} {i : TripItem} (hi : i ∈ P.tripLists[groupIdx g]) :
    P.tripItem i.channel = some i := by
  obtain ⟨hin, hnodup⟩ := h.tripList g
  have hg := hin i hi
  subst hg
  unfold Profile.tripItem
  cases hfind : P.tripLists[groupIdx (chanGroup i.channel)].find? (fun j => decide (j.channel = i.channel)) with
  | none => exact absurd (decide_eq_true rfl) (List.find?_eq_none.mp hfind i hi)
  | some j =>
    have hj := List.mem_of_find?_eq_some hfind
    have hsame : j.channel = i.channel := of_decide_eq_true (List.find?_some (p := fun j : TripItem => decide (j.channel = i.channel)) hfind)
    rw [List.inj_on_of_nodup_map hnodup hj hi hsame]

theorem Profile.tripItem_none {d : ChanId} (h : ∀ i ∈ P.tripLists[groupIdx (chanGroup d)], i.channel ≠ d) : P.tripItem d = none :=
  List.find?_eq_none.mpr fun i hi => by simpa using h i hi

/-- R107, R180, R181: the state in which operation begins, after set-up with a profile. -/
structure Began (q : State) (P : Profile) (t : State) : Prop where
  rest : { t with
    ports := (q.setUp P).ports, asu := (q.setUp P).asu, run := q.run, ch := (q.setUp P).ch, groups := (q.setUp P).groups } =
      q.setUp P
  run : t.run = .running
  asu : t.asu = { Asu.init P.scanList P.scanPeriod with pos := some 0, nextScan := q.ms + BitVec.ofNat 32 P.scanPeriod }
  port : ∀ m, ∃ p : Port, p.timeout = P.silence[masterIdx m] ∧ t.port m = { p with
    queue := [⟨q.ms, .profileDone q.pfl.state q.pfl.failing⟩], lost := false, timer := p.fullTimer }
  logs : t.LogsStand (fun g => P.tripLists[groupIdx g]) (startLog q.ms (decide (q.pfl.state = .good)))
  chan : ∀ d, t.chan d = ((Channel.setUp P.chans[d]).taking q.ms (P.tripItem d)).over
    (t.alarmed .field .hxTripped d (t.alarmed .field .tgTripped d []))

theorem State.opened_began (q : State) (hp : P.Fits) : Began q P (q.setUp P).badProfile.startUpTrips.opened := by
  have hset : (q.setUp P).LogsStand (fun g => P.tripLists[groupIdx g]) fun _ => resetLog q.ms true := q.setUp_group P
  obtain ⟨hlogs, hbad, hch⟩ := State.badProfile_stands (s := q.setUp P) hset
  generalize hb : (q.setUp P).badProfile = b at hlogs hbad hch
  have hms : b.ms = q.ms := hbad.ms
  have hchan (d : ChanId) : b.chan d = Channel.setUp P.chans[d] :=
    (congrArg (fun v : Vector Channel 16 => v[d]) hch).trans (q.setUp_chan P d)
  have hitem (d : ChanId) : b.tripItem d = P.tripItem d := by
    unfold State.tripItem
    rw [hlogs]
    rfl
  obtain ⟨htrips, hstand, hover⟩ := b.startUpTrips_spec
    (fun u => (congrArg (fun v : State => (v.unit u).atRest) hbad.rest).trans (by rw [State.setUp_unit]; rfl))
    (by rw [hms]; exact hlogs) hp.tripList (fun d => by rw [hchan]; exact Channel.setUp_stack _)
    (fun d => by rw [hchan]; exact Channel.setUp_settled _)
  generalize b.startUpTrips = u at htrips hstand hover
  have hall := hbad.trans htrips
  have hopened := u.opened_rest
  have halarmed (c : Cause) (d : ChanId) (l : List Entry) : u.opened.alarmed .field c d l = b.alarmed .field c d l :=
    (State.alarmed_congr (s := u) (congrArg State.actions hopened :) (congrArg State.ms hopened :) _ _ _ _).trans
      (htrips.alarmed _ _ _ _)
  refine ⟨?_, rfl, ?_, fun m => ?_, ?_, fun d => ?_⟩
  · exact (congrArg (fun v : State => { v with
      ports := (q.setUp P).ports, asu := (q.setUp P).asu, run := q.run, ch := (q.setUp P).ch, groups := (q.setUp P).groups })
        hopened).trans (congrArg (fun v : State => { v with asu := (q.setUp P).asu, run := q.run }) hall.rest)
  · have hasu : u.asu = (q.setUp P).asu := (congrArg State.asu hall.rest :)
    rw [State.opened_asu, hall.ms, hasu]
    rfl
  · have htimeout : (u.port m).timeout = ((q.setUp P).port m).timeout := (congrArg Port.timeout (hall.port m) :)
    have hpfl : u.pfl = q.pfl := (congrArg State.pfl hall.rest :)
    have hms : u.ms = q.ms := hall.ms
    rw [State.opened_port, hpfl, hms]
    exact ⟨u.port m, htimeout.trans (by cases m <;> rfl), rfl⟩
  · exact (hms ▸ hstand).congr (congrArg State.groups hopened :)
  · have hchanEq : u.opened.chan d = u.chan d := (congrArg (fun v : State => v.chan d) hopened :)
    rw [hchanEq, hover, halarmed, halarmed, hchan, hitem, hms]

/-! ### The blocks -/

theorem Began.field {β : Type} (a : Began q P t) (f : State → β) (hf : ∀ (v : State) (x : Vector Port 3) (y : Asu) (z : RunPhase)
    (w : Vector Channel 16) (g : Vector GroupRec 3), f { v with ports := x, asu := y, run := z, ch := w, groups := g } = f v) :
    f t = f (q.setUp P) :=
  (hf t _ _ _ _ _).symm.trans (congrArg f a.rest)

/-- R180: the parameters of the blocks that start-up does not reach after set-up. -/
theorem Began.blocks (a : Began q P t) :
    (∀ n, t.analog n = Analog.init P.ais[n]) ∧ (∀ j, t.pulse j = Pulse.setUp P.pis[j]) ∧
    (∀ d : Fin 12, t.di[d] = Discrete.init P.activeLow[d]) ∧ t.snap = .init ∧ (∀ u, t.unit u = UnitRec.init P.units[u]) ∧
    (∀ c, t.entry c = MapEntry.init P.writers[c] P.readers[c]) ∧ t.offerTimeout = P.offerTimeout ∧ t.actions = P.actions ∧
    t.tsm = Tsm.init P.tsm ∧ t.swu = Swu.init P.swu P.cSil P.pBub ∧ t.hmt = { q.hmt with cpW := P.cpW } ∧ t.pfl = q.pfl ∧
    t.ms = q.ms ∧ t.pending = q.pending := by
  refine ⟨fun n => ?_, fun j => ?_, fun d => ?_, a.field State.snap fun _ _ _ _ _ _ => rfl, fun u => ?_, fun c => ?_,
    a.field State.offerTimeout fun _ _ _ _ _ _ => rfl, a.field State.actions fun _ _ _ _ _ _ => rfl,
    a.field State.tsm fun _ _ _ _ _ _ => rfl, a.field State.swu fun _ _ _ _ _ _ => rfl,
    a.field State.hmt fun _ _ _ _ _ _ => rfl, a.field State.pfl fun _ _ _ _ _ _ => rfl,
    a.field State.ms fun _ _ _ _ _ _ => rfl, a.field State.pending fun _ _ _ _ _ _ => rfl⟩
  · exact (a.field (·.analog n) fun _ _ _ _ _ _ => rfl).trans (vec16_get _ n)
  · exact (a.field (·.pulse j) fun _ _ _ _ _ _ => rfl).trans (vec12_get _ j)
  · exact (a.field (·.di[d]) fun _ _ _ _ _ _ => rfl).trans (vec12_get _ d)
  · exact (a.field (·.unit u) fun _ _ _ _ _ _ => rfl).trans (q.setUp_unit P u)
  · exact (a.field (·.entry c) fun _ _ _ _ _ _ => rfl).trans (q.setUp_entry P c)

/-- R14, R107: a channel of a trip list, with the entries of the propagated causes beneath its TRIP entry. -/
theorem Began.listed (a : Began q P t) (hp : P.Fits) {g : Group} {x : TripItem} (hx : x ∈ P.tripLists[groupIdx g]) :
    (t.chan x.channel).target = x.value ∧ (t.chan x.channel).applied = x.value ∧
      (t.chan x.channel).stack = t.alarmed .field .hxTripped x.channel (t.alarmed .field .tgTripped x.channel []) ++
        [⟨.trip, .value, x.value, q.ms⟩] ∧
      (P.chans[x.channel].mode = .oneshot → P.chans[x.channel].safe = 0 → x.value ≠ 0 →
        ((t.chan x.channel).oneShot, (t.chan x.channel).timer) =
          if P.chans[x.channel].delay = 0 then (.pulse, some P.chans[x.channel].pulse)
          else (.delay, some P.chans[x.channel].delay)) := by
  obtain ⟨-, -, hstack, htarget, happlied⟩ :=
    (Channel.setUp P.chans[x.channel]).taking_some (Channel.setUp_settled _).applied q.ms x
  rw [a.chan, hp.tripItem_mem hx]
  exact ⟨htarget, happlied, congrArg (_ ++ ·) hstack, fun hmode hsafe hvalue => Channel.setUp_armed hmode hsafe q.ms hvalue⟩

/-- R26, R107: a channel of no trip list stands at its safe level. -/
theorem Began.unlisted (a : Began q P t) {d : ChanId} (hd : ∀ i ∈ P.tripLists[groupIdx (chanGroup d)], i.channel ≠ d) :
    (t.chan d).target = P.chans[d].safe ∧ (t.chan d).applied = P.chans[d].safe ∧
      (t.chan d).stack = t.alarmed .field .hxTripped d (t.alarmed .field .tgTripped d []) := by
  obtain ⟨-, -, htarget, happlied⟩ := Channel.setUp_spec P.chans[d]
  rw [a.chan, Profile.tripItem_none hd]
  exact ⟨htarget, happlied, (congrArg (_ ++ ·) (Channel.setUp_stack P.chans[d])).trans (List.append_nil _)⟩

theorem Began.chanParams (a : Began q P t) (d : ChanId) : (t.chan d).params = P.chans[d] ∧ (t.chan d).base = P.chans[d].safe := by
  obtain ⟨hparams, hbase, -⟩ := Channel.setUp_spec P.chans[d]
  rw [a.chan]
  cases P.tripItem d with
  | none => exact ⟨hparams, hbase⟩
  | some i =>
    obtain ⟨hp, hb, -⟩ := (Channel.setUp P.chans[d]).taking_some (Channel.setUp_settled _).applied q.ms i
    exact ⟨hp.trans hparams, hb.trans hbase⟩

theorem execProfileLoadComplete_eq (hrun : s.run = .startUp) (a : Option (List Byte)) : exec (.profileLoadComplete a) s =
    .next (((s.modPfl fun p => p.load a).setUp (s.pfl.load a).parameters).badProfile.startUpTrips.opened) :=
  congrArg Host.Outcome.next (if_pos hrun)

/-- Settles O7: set-up gives the blocks their parameters, no push of start-up discards an entry and no unit is forced, so what follows
set-up reaches channels, logs and queues alone. -/
theorem loadCompletes : Obligations.LoadCompletes := by
  intro s answered hrun hstores
  have hfits := s.pfl.parameters_fits answered
  have hbegan : Began _ _ _ := State.opened_began (s.modPfl fun p => p.load answered) hfits
  refine ⟨_, execProfileLoadComplete_eq hrun answered, ?_⟩
  generalize ((s.modPfl fun p => p.load answered).setUp (s.pfl.load answered).parameters).badProfile.startUpTrips.opened = t
    at hbegan ⊢
  obtain ⟨hanalog, hpulse, hdi, hsnap, hunit, hentry, hoffer, hactions, htsm, hswu, hhmt, hpfl, hms, hpending⟩ := hbegan.blocks
  have hload : t.pfl = s.pfl.load answered := hpfl
  have hmirror : t.pfl.mirror = s.pfl.read answered := (congrArg Pfl.mirror hload :)
  have hparams := s.pfl.load_parameters answered
  have hlogs := hbegan.logs
  refine ⟨?_, ?_, ?_, ?_, ?_, ?_, ?_, ?_, hbegan.run, hms, hpending, ?_, ?_, ?_⟩
  · rintro bytes rfl a
    rw [hmirror]
    exact s.pfl.read_answered bytes a
  · rintro rfl hwrite
    exact hmirror.trans (s.pfl.read_unwritten hwrite)
  · rintro w rfl hwrite a
    rw [hmirror]
    exact s.pfl.read_eeprom hstores.2 hwrite a
  · rw [hload]; rfl
  · rw [hload]; rfl
  · rw [hload]; rfl
  · rw [hload]; rfl
  · rw [hload]; rfl
  · intro p
    have hp : p = (s.pfl.load answered).parameters := by rw [hparams, ← hload]
    clear_value p
    subst hp
    refine ⟨fun c => ?_, hanalog, hpulse, hdi, fun n => ?_, fun j => ?_, hunit, fun m => ?_, hoffer, hactions, hbegan.asu, htsm,
      hswu, hhmt, ?_⟩
    · obtain ⟨hchan, hbase⟩ := hbegan.chanParams c
      exact ⟨hchan, hbase, hentry c⟩
    · rw [hsnap]
      exact vec16_get _ n
    · rw [hsnap]
      exact vec12_get _ j
    · obtain ⟨x, htimeout, hport⟩ := hbegan.port m
      rw [hport]
      exact htimeout
    intro alarms g
    have hlist : (t.group g).tripList = (s.pfl.load answered).parameters.tripLists[groupIdx g] := by
      rw [hlogs g]
      rfl
    rw [hlist]
    refine ⟨rfl, fun x hx => hbegan.listed hfits hx, fun c hc hnone => hbegan.unlisted ?_⟩
    obtain rfl := chanGroup_of_mem hc
    exact hnone
  · intro g made log
    have hgood : (s.pfl.load answered).state = .good ↔ t.pfl.failing = 0 := by
      rw [hload]
      exact s.pfl.load_state answered
    have hlog : startLog s.ms (decide ((s.pfl.load answered).state = .good)) g = log := by
      show resetLog _ _ ++ _ = _ ++ _
      refine congrArg₂ (· ++ ·) ?_ rfl
      by_cases hzero : t.pfl.failing = 0
      · rw [decide_eq_true (hgood.mpr hzero), if_pos hzero]
        rfl
      · rw [decide_eq_false (mt hgood.mp hzero), if_neg hzero]
        rfl
    rw [← hlog]
    exact (hlogs g).trans (by rw [hlogs g]; rfl)
  · intro m
    obtain ⟨x, -, hport⟩ := hbegan.port m
    rw [hport, hload]
    exact ⟨rfl, rfl, rfl⟩

end Sys2Proof.Machine
end
